-- ==== Sys2Proof/Word.lean ====
section
/-! DEFINITION. The word types of the Brildauri D4 and the plainest of their arithmetic.
Bits of registers, addresses under computation and fields of words are bit vectors; counts and keys are `Nat`. -/

namespace Sys2Proof

/-- A byte of memory (R3). -/
abbrev Byte := BitVec 8
/-- An instruction word, a vector lane (R15, R68). -/
abbrev Word := BitVec 32
/-- A scalar register (R15). -/
abbrev Dword := BitVec 64
/-- A packet number (R13). -/
abbrev Pc := BitVec 53
/-- The number of a vector register, `v0` to `v63`. -/
abbrev VReg := BitVec 6
/-- The number of a scalar register, `s0` to `s63`; 60 is `em`, 61 `pm`, 62 `lr`, 63 `zero` (Table 1.2). -/
abbrev SReg := BitVec 6

/-- Bits `[lo+n-1:lo]` of a number. -/
def bitsOf (x lo n : Nat) : Nat := x >>> lo % 2 ^ n

/-- `em`, `pm`, `lr` and `zero` by number (Table 1.2). -/
def regEm : SReg := 60
def regPm : SReg := 61
def regLr : SReg := 62
def regZero : SReg := 63

end Sys2Proof
end

