-- ==== Sys2Proof/Syntax.lean ====
section
/-! DEFINITION. The whole of the opcode table: one constructor of `Instr` for each row of spec/opcode_table.json, the
instruction words first with their operands, the events with the names of what they act on.  The chain bit C of a
word (R77) is decoded beside the instruction and is no operand of it. -/

namespace Sys2Proof

/-- The immediate of a VI or SI word: `imm10`, or the literal that 0x200 calls for (R86, R87). -/
inductive Imm where
  | short (i : BitVec 10)
  | lit (w : Word)
  deriving DecidableEq, Repr

/-- The second operand of a V3 word: a vector, or with bs = 1 a scalar (R88, R95). -/
inductive VSrc where
  | v (r : VReg)
  | s (r : SReg)
  deriving DecidableEq, Repr

/-- The type field of major 0x04 (R95). -/
inductive ElemTy where
  | w | h2 | b4
  deriving DecidableEq, Repr

/-- Access sizes of the M format (R88). -/
inductive Size where
  | b | h | w | d
  deriving DecidableEq, Repr

/-- The lane offset of the M format by ov and lit (R88, R177). -/
inductive Off where
  | imm (n : BitVec 6)
  | lit (w : Word)
  | vec (v : VReg)
  | vecLit (v : VReg) (w : Word)
  deriving DecidableEq, Repr

/-- Conditions of `VCMP` and `VCMPU` (R103). -/
inductive Cond where
  | eq | ne | lt | le | gt | ge
  deriving DecidableEq, Repr

/-- Conditions of `VFCMP` (R103). -/
inductive FCond where
  | eq | ne | lt | le | gt | ge | ord | un
  deriving DecidableEq, Repr

/-- Reduction operations of `VRED` and `VSCAN` (R101). -/
inductive RedOp where
  | add | and | or | xor | min | max | minu | maxu | addf | minf | maxf | addd
  deriving DecidableEq, Repr

/-- Element formats (Table 3.11). -/
inductive ElemFmt where
  | f32 | f64 | f16 | bf16 | e4m3 | e5m2 | e2m1 | int8 | int4 | int16 | int32 | uint8 | uint16 | uint32 | int64
  deriving DecidableEq, Repr

/-- Rounding modifiers of a conversion (R102). -/
inductive CvtMod where
  | rm | rne | rz | rup | rdn | sat | rneSat | rzSat
  deriving DecidableEq, Repr

/-- Block formats (Table 3.12). -/
inductive BlockFmt where
  | dbx8 | dbx4 | mxfp8e4 | mxfp8e5 | mxfp4 | mxint8
  deriving DecidableEq, Repr

/-- Atomic operations (R106). -/
inductive AtomOp where
  | add | addf | min | max | minu | maxu | and | or | xor | xchg | cas
  deriving DecidableEq, Repr

/-- Scopes (Table 1.5). -/
inductive Scope where
  | core | quad | die | pkg | pod
  deriving DecidableEq, Repr

/-- Semantics of a fence (Table 3.14). -/
inductive Sem where
  | acq | rel | ar
  deriving DecidableEq, Repr

/-- Directions of `CPY` (R203). -/
inductive CopyDir where
  | g2p | p2g | g2g | p2p
  deriving DecidableEq, Repr

/-- A matrix operand: a vector base, or the first of two scalars that name the scratchpad (Table 3.16). -/
inductive MatSrc where
  | regs (v : VReg)
  | pad (s : SReg)
  deriving DecidableEq, Repr

/-- Formats of `MDRAIN` (Table 3.17). -/
inductive DrainFmt where
  | f32 | bf16 | mxfp8e4 | mxfp8e5 | mxfp4 | dbx8 | dbx4
  deriving DecidableEq, Repr

/-- Targets of `MDRAIN` (Table 3.17). -/
inductive DrainTgt where
  | regs | pad | glob
  deriving DecidableEq, Repr

/-- Kinds of collective (Table 3.19). -/
inductive CollKind where
  | allreduce | allgather | redscat | alltoall
  deriving DecidableEq, Repr

/-- Reductions of a collective (Table 3.19). -/
inductive CollOp where
  | addi | addf | addd | mini | maxi | minf | maxf
  deriving DecidableEq, Repr

/-- Scopes of a collective (Table 3.19). -/
inductive CollScope where
  | die | pkg | pod
  deriving DecidableEq, Repr

/-- `SGET` selectors (Table 4.2). -/
inductive Selector where
  | status | skein | panel | panelX | panelY | panelZ | core | launch | world | gangs | region | batch | cycles
  | gridX | gridY | gridZ | skeins | seed | ctrbase | cbank | scratch | accs
  deriving DecidableEq, Repr

/-- Trap skein system registers (Table 4.5). -/
inductive SysReg where
  | trapcause | trappc | trapaddr | trapbase | halted | trapq | haltreq
  | tscratch (n : BitVec 2)
  | errpost
  deriving DecidableEq, Repr

/-- State selectors of `XREAD` and `XWRITE` (Table 4.7). -/
inductive XSel where
  | v (n : BitVec 6)
  | s (n : BitVec 6)
  | f (n : Fin 12)
  | pending
  | pc (n : BitVec 3)
  | gangmap | exited | patternA | patternB | meldopen | regionPc | regionCount | stop
  | accession (i : BitVec 4) (w : BitVec 2)
  | status | batchstate
  | oplog (e w : BitVec 2)
  deriving DecidableEq, Repr

/-- A host or peer access through the memory path or to the foyer (R305, R306). -/
inductive HostAcc where
  | read (addr len : Nat)
  | write (addr : Nat) (bytes : List Byte)
  deriving DecidableEq, Repr

/-- What patrol scrub finds in a sector (R297, R298). -/
inductive ScrubFind where
  | clean
  | corrected (row : Nat)
  | uncorrectable
  deriving DecidableEq, Repr

/-- The fields of a context creation (R350). -/
structure CreateReq where
  root : Nat
  world : BitVec 8
  mask : BitVec 16
  ways : Nat
  plan : Nat
  image : Nat
  imageSize : Nat
  keySlot : Nat
  deriving DecidableEq, Repr

/-- SPDM requests over the DOE mailbox (R360). -/
inductive SpdmReq where
  | getVersion | getCapabilities | negotiateAlgorithms | getCertificate
  | challenge
  | getMeasurements (index : Nat) (signed : Bool)
  | keyExchange | finish | heartbeat | keyUpdate | endSession
  | other (code : Byte)
  deriving DecidableEq, Repr

/-- A message of the pod's fabric, numbered by its source so that it is taken once and in order (R364). -/
inductive PodMsg where
  | arrive (src seq addr : Nat)
  | expect (src seq addr : Nat) (bytes : Word)
  | coll (src seq tag participant : Nat) (bytes : List Byte)
  deriving DecidableEq, Repr

/-- Rings that the device produces into (R356). -/
inductive RingName where
  | prov (q : Nat)
  | pageFault
  | error
  deriving DecidableEq, Repr

/-- The steps of the opcode table, in its order. -/
inductive Instr where
  /-- `CLAUSE_HEADER` (R71). -/
  | clauseHeader (wait : BitVec 12) (setA setB len : BitVec 4) (gap : BitVec 2)
  /-- `FIXED_RESULT_VISIBLE` (R79). -/
  | fixedResultVisible (sk : Nat)
  /-- `NOP` (R91). -/
  | nop
  /-- `BRA` (R123). -/
  | bra (off : BitVec 15)
  /-- `BRU_Z` (R123). -/
  | bruZ (a : SReg) (off : BitVec 15)
  /-- `BRU_NZ` (R123). -/
  | bruNz (a : SReg) (off : BitVec 15)
  /-- `BRU_NEG` (R123). -/
  | bruNeg (a : SReg) (off : BitVec 15)
  /-- `BRU_NNEG` (R123). -/
  | bruNneg (a : SReg) (off : BitVec 15)
  /-- `BRUV` (R123). -/
  | bruv (a : SReg) (off : BitVec 15)
  /-- `BRS` (R124). -/
  | brs (a : SReg) (off : BitVec 15)
  /-- `BRZM` (R123). -/
  | brzm (a : SReg) (off : BitVec 15)
  /-- `CALL` (R123). -/
  | call (off : BitVec 15)
  /-- `RET` (R123). -/
  | ret
  /-- `JMPI` (R123). -/
  | jmpi (a : SReg)
  /-- `EXIT` (R126). -/
  | exit
  /-- `YIELD` (R127). -/
  | yield
  /-- `SPLIT` (R128). -/
  | split (a : SReg)
  /-- `REGANG` (R129). -/
  | regang (a : SReg)
  /-- `MELD` (R132). -/
  | meld (a : SReg)
  /-- `MELDX` (R133). -/
  | meldx
  /-- `REGION` (R135). -/
  | region
  /-- `VDROP` (R138). -/
  | vdrop (a b e d : VReg)
  /-- `SADD` (R117). -/
  | sadd (d a b : SReg)
  /-- `SSUB` (R117). -/
  | ssub (d a b : SReg)
  /-- `SMUL` (R117). -/
  | smul (d a b : SReg)
  /-- `SMULH` (R117). -/
  | smulh (d a b : SReg)
  /-- `SMULHU` (R117). -/
  | smulhu (d a b : SReg)
  /-- `SDIV` (R118). -/
  | sdiv (d a b : SReg)
  /-- `SDIVU` (R118). -/
  | sdivu (d a b : SReg)
  /-- `SREM` (R118). -/
  | srem (d a b : SReg)
  /-- `SREMU` (R118). -/
  | sremu (d a b : SReg)
  /-- `SAND` (R117). -/
  | sand (d a b : SReg)
  /-- `SOR` (R117). -/
  | sor (d a b : SReg)
  /-- `SXOR` (R117). -/
  | sxor (d a b : SReg)
  /-- `SANDN` (R117). -/
  | sandn (d a b : SReg)
  /-- `SSHL` (R117). -/
  | sshl (d a b : SReg)
  /-- `SSHR` (R117). -/
  | sshr (d a b : SReg)
  /-- `SSRA` (R117). -/
  | ssra (d a b : SReg)
  /-- `SMIN` (R117). -/
  | smin (d a b : SReg)
  /-- `SMAX` (R117). -/
  | smax (d a b : SReg)
  /-- `SMINU` (R117). -/
  | sminu (d a b : SReg)
  /-- `SMAXU` (R117). -/
  | smaxu (d a b : SReg)
  /-- `SCMP_EQ` (R117). -/
  | scmpEq (d a b : SReg)
  /-- `SCMP_NE` (R117). -/
  | scmpNe (d a b : SReg)
  /-- `SCMP_LT` (R117). -/
  | scmpLt (d a b : SReg)
  /-- `SCMP_LE` (R117). -/
  | scmpLe (d a b : SReg)
  /-- `SCMP_LTU` (R117). -/
  | scmpLtu (d a b : SReg)
  /-- `SCMP_LEU` (R117). -/
  | scmpLeu (d a b : SReg)
  /-- `SSEL` (R117). -/
  | ssel (d a b : SReg)
  /-- `SPOPC` (R117). -/
  | spopc (d a : SReg)
  /-- `SCLZ` (R117). -/
  | sclz (d a : SReg)
  /-- `SCTZ` (R117). -/
  | sctz (d a : SReg)
  /-- `SBFE` (R117). -/
  | sbfe (d a b : SReg)
  /-- `SBFI` (R117). -/
  | sbfi (d a b : SReg)
  /-- `SADD_I` (R93). -/
  | saddI (d a : SReg) (i : Imm)
  /-- `SAND_I` (R93). -/
  | sandI (d a : SReg) (i : Imm)
  /-- `SOR_I` (R93). -/
  | sorI (d a : SReg) (i : Imm)
  /-- `SXOR_I` (R93). -/
  | sxorI (d a : SReg) (i : Imm)
  /-- `SSHL_I` (R93). -/
  | sshlI (d a : SReg) (n : BitVec 6)
  /-- `SSHR_I` (R93). -/
  | sshrI (d a : SReg) (n : BitVec 6)
  /-- `SSRA_I` (R93). -/
  | ssraI (d a : SReg) (n : BitVec 6)
  /-- `SCMP_EQ_I` (R93). -/
  | scmpEqI (d a : SReg) (i : Imm)
  /-- `SCMP_NE_I` (R93). -/
  | scmpNeI (d a : SReg) (i : Imm)
  /-- `SCMP_LT_I` (R93). -/
  | scmpLtI (d a : SReg) (i : Imm)
  /-- `SCMP_LE_I` (R93). -/
  | scmpLeI (d a : SReg) (i : Imm)
  /-- `SCMP_LTU_I` (R93). -/
  | scmpLtuI (d a : SReg) (i : Imm)
  /-- `SCMP_LEU_I` (R93). -/
  | scmpLeuI (d a : SReg) (i : Imm)
  /-- `SMOVI` (R119). -/
  | smovi (d : SReg) (i : BitVec 18)
  /-- `SLUI` (R119). -/
  | slui (d : SReg) (i : BitVec 18)
  /-- `SMOV` (R120). -/
  | smov (d a : SReg)
  /-- `SGET` (R121). -/
  | sget (d : SReg) (sel : Selector)
  /-- `SPUT` (R121). -/
  | sput (a : SReg)
  /-- `VADD` (R155). -/
  | vadd (t : ElemTy) (d a : VReg) (b : VSrc)
  /-- `VSUB` (R155). -/
  | vsub (t : ElemTy) (d a : VReg) (b : VSrc)
  /-- `VMUL` (R155). -/
  | vmul (t : ElemTy) (d a : VReg) (b : VSrc)
  /-- `VMULH` (R155). -/
  | vmulh (t : ElemTy) (d a : VReg) (b : VSrc)
  /-- `VMULHU` (R155). -/
  | vmulhu (t : ElemTy) (d a : VReg) (b : VSrc)
  /-- `VAND` (R155). -/
  | vand (d a : VReg) (b : VSrc)
  /-- `VOR` (R155). -/
  | vor (d a : VReg) (b : VSrc)
  /-- `VXOR` (R155). -/
  | vxor (d a : VReg) (b : VSrc)
  /-- `VANDN` (R155). -/
  | vandn (d a : VReg) (b : VSrc)
  /-- `VSHL` (R155). -/
  | vshl (t : ElemTy) (d a : VReg) (b : VSrc)
  /-- `VSHR` (R155). -/
  | vshr (t : ElemTy) (d a : VReg) (b : VSrc)
  /-- `VSRA` (R155). -/
  | vsra (t : ElemTy) (d a : VReg) (b : VSrc)
  /-- `VMIN` (R155). -/
  | vmin (t : ElemTy) (d a : VReg) (b : VSrc)
  /-- `VMAX` (R155). -/
  | vmax (t : ElemTy) (d a : VReg) (b : VSrc)
  /-- `VMINU` (R155). -/
  | vminu (t : ElemTy) (d a : VReg) (b : VSrc)
  /-- `VMAXU` (R155). -/
  | vmaxu (t : ElemTy) (d a : VReg) (b : VSrc)
  /-- `VABSD` (R155). -/
  | vabsd (t : ElemTy) (d a : VReg) (b : VSrc)
  /-- `VADDSAT` (R155). -/
  | vaddsat (t : ElemTy) (d a : VReg) (b : VSrc)
  /-- `VSUBSAT` (R155). -/
  | vsubsat (t : ElemTy) (d a : VReg) (b : VSrc)
  /-- `VPOPC` (R155). -/
  | vpopc (t : ElemTy) (d a : VReg)
  /-- `VCLZ` (R155). -/
  | vclz (t : ElemTy) (d a : VReg)
  /-- `VBFE` (R155). -/
  | vbfe (d a : VReg) (b : VSrc)
  /-- `VBFI` (R155). -/
  | vbfi (d a : VReg) (b : VSrc)
  /-- `VMOV` (R156). -/
  | vmov (d : VReg) (b : VSrc)
  /-- `VIDX` (R156). -/
  | vidx (d : VReg)
  /-- `VADD_I` (R96). -/
  | vaddI (d a : VReg) (i : Imm)
  /-- `VMUL_I` (R96). -/
  | vmulI (d a : VReg) (i : Imm)
  /-- `VAND_I` (R96). -/
  | vandI (d a : VReg) (i : Imm)
  /-- `VOR_I` (R96). -/
  | vorI (d a : VReg) (i : Imm)
  /-- `VXOR_I` (R96). -/
  | vxorI (d a : VReg) (i : Imm)
  /-- `VSHL_I` (R96). -/
  | vshlI (d a : VReg) (n : BitVec 5)
  /-- `VSHR_I` (R96). -/
  | vshrI (d a : VReg) (n : BitVec 5)
  /-- `VSRA_I` (R96). -/
  | vsraI (d a : VReg) (n : BitVec 5)
  /-- `VMIN_I` (R96). -/
  | vminI (d a : VReg) (i : Imm)
  /-- `VMAX_I` (R96). -/
  | vmaxI (d a : VReg) (i : Imm)
  /-- `VMINU_I` (R96). -/
  | vminuI (d a : VReg) (i : Imm)
  /-- `VMAXU_I` (R96). -/
  | vmaxuI (d a : VReg) (i : Imm)
  /-- `VMOVI` (R156). -/
  | vmovi (d : VReg) (i : Imm)
  /-- `VFADD` (R157). -/
  | vfadd (d a : VReg) (b : VSrc)
  /-- `VFSUB` (R157). -/
  | vfsub (d a : VReg) (b : VSrc)
  /-- `VFMUL` (R157). -/
  | vfmul (d a : VReg) (b : VSrc)
  /-- `VFMIN` (R157). -/
  | vfmin (d a : VReg) (b : VSrc)
  /-- `VFMAX` (R157). -/
  | vfmax (d a : VReg) (b : VSrc)
  /-- `VFABS` (R157). -/
  | vfabs (d a : VReg)
  /-- `VFNEG` (R157). -/
  | vfneg (d a : VReg)
  /-- `VFCLASS` (R158). -/
  | vfclass (d a : VReg)
  /-- `VFSCALE` (R157). -/
  | vfscale (d a : VReg) (b : VSrc)
  /-- `VFRINT` (R157). -/
  | vfrint (d a : VReg)
  /-- `VFMA` (R159). -/
  | vfma (d a b e : VReg)
  /-- `VFMS` (R159). -/
  | vfms (d a b e : VReg)
  /-- `VFNMA` (R159). -/
  | vfnma (d a b e : VReg)
  /-- `VMAD` (R159). -/
  | vmad (d a b e : VReg)
  /-- `VADDMIN` (R160). -/
  | vaddmin (d a b e : VReg)
  /-- `VFADDMIN` (R160). -/
  | vfaddmin (d a b e : VReg)
  /-- `VDADD` (R161). -/
  | vdadd (d a : VReg) (b : VSrc)
  /-- `VDMUL` (R161). -/
  | vdmul (d a : VReg) (b : VSrc)
  /-- `VDFMA` (R161). -/
  | vdfma (d a : VReg) (b : VSrc)
  /-- `VCADD` (R162). -/
  | vcadd (d a : VReg) (b : VSrc)
  /-- `VCMUL` (R162). -/
  | vcmul (d a : VReg) (b : VSrc)
  /-- `VCFMA` (R162). -/
  | vcfma (d a : VReg) (b : VSrc)
  /-- `VFDIV` (R164). -/
  | vfdiv (d a : VReg) (b : VSrc) (fs : Bool)
  /-- `VFSQRT` (R164). -/
  | vfsqrt (d a : VReg) (fs : Bool)
  /-- `VEXP2` (R165). -/
  | vexp2 (d a : VReg) (fs : Bool)
  /-- `VLOG2` (R165). -/
  | vlog2 (d a : VReg) (fs : Bool)
  /-- `VRCP` (R165). -/
  | vrcp (d a : VReg) (fs : Bool)
  /-- `VRSQ` (R165). -/
  | vrsq (d a : VReg) (fs : Bool)
  /-- `VSINP` (R165). -/
  | vsinp (d a : VReg) (fs : Bool)
  /-- `VCOSP` (R165). -/
  | vcosp (d a : VReg) (fs : Bool)
  /-- `VRNG` (R166). -/
  | vrng (d a : VReg) (fs : Bool)
  /-- `TRN_COMPLETE` (R163). -/
  | trnComplete (id : Nat)
  /-- `VSHUP` (R167). -/
  | vshup (d a : VReg) (b : SReg)
  /-- `VSHDN` (R167). -/
  | vshdn (d a : VReg) (b : SReg)
  /-- `VROT` (R167). -/
  | vrot (d a : VReg) (b : SReg)
  /-- `VPERM` (R168). -/
  | vperm (d a b : VReg)
  /-- `VBCAST` (R168). -/
  | vbcast (d a : VReg) (b : SReg)
  /-- `VRED` (R169). -/
  | vred (o : RedOp) (d a : VReg)
  /-- `VSCAN` (R169). -/
  | vscan (o : RedOp) (d a : VReg)
  /-- `VCVT` (R170). -/
  | vcvt (dst src : ElemFmt) (m : CvtMod) (d a : VReg)
  /-- `VPACK` (R171). -/
  | vpack (dst src : ElemFmt) (m : CvtMod) (d a : VReg)
  /-- `VUNPK` (R171). -/
  | vunpk (dst src : ElemFmt) (m : CvtMod) (d a : VReg)
  /-- `VQDBX` (R172). -/
  | vqdbx (blk : BlockFmt) (d a : VReg)
  /-- `VDQDBX` (R173). -/
  | vdqdbx (blk : BlockFmt) (d a : VReg)
  /-- `VCMP` (R174). -/
  | vcmp (k : Cond) (d : SReg) (a : VReg) (b : VSrc)
  /-- `VCMPU` (R174). -/
  | vcmpu (k : Cond) (d : SReg) (a : VReg) (b : VSrc)
  /-- `VFCMP` (R174). -/
  | vfcmp (k : FCond) (d : SReg) (a : VReg) (b : VSrc)
  /-- `VSEL` (R175). -/
  | vsel (d a : VReg) (b : SReg)
  /-- `CHK` (R139). -/
  | chk (a : VReg)
  /-- `CHK_SCALAR` (R139). -/
  | chkScalar (b : SReg)
  /-- `PTST` (R140). -/
  | ptst (d : SReg) (a : VReg)
  /-- `TRAP` (R141). -/
  | trap (code : BitVec 12)
  /-- `DBRK` (R142). -/
  | dbrk
  /-- `LD` (R185). -/
  | ld (z : Size) (d : VReg) (b : SReg) (o : Off) (fs : Bool)
  /-- `LD_SPEC` (R185). -/
  | ldSpec (z : Size) (d : VReg) (b : SReg) (o : Off) (fs : Bool)
  /-- `LD_BYP` (R185). -/
  | ldByp (z : Size) (d : VReg) (b : SReg) (o : Off) (fs : Bool)
  /-- `LD_ACQ_CORE` (R186). -/
  | ldAcqCore (z : Size) (d : VReg) (b : SReg) (o : Off) (fs : Bool)
  /-- `LD_ACQ_QUAD` (R186). -/
  | ldAcqQuad (z : Size) (d : VReg) (b : SReg) (o : Off) (fs : Bool)
  /-- `LD_ACQ_DIE` (R186). -/
  | ldAcqDie (z : Size) (d : VReg) (b : SReg) (o : Off) (fs : Bool)
  /-- `LD_ACQ_PKG` (R186). -/
  | ldAcqPkg (z : Size) (d : VReg) (b : SReg) (o : Off) (fs : Bool)
  /-- `LD_ACQ_POD` (R186). -/
  | ldAcqPod (z : Size) (d : VReg) (b : SReg) (o : Off) (fs : Bool)
  /-- `ST` (R188). -/
  | st (z : Size) (d : VReg) (b : SReg) (o : Off) (fs : Bool)
  /-- `ST_REL_CORE` (R188). -/
  | stRelCore (z : Size) (d : VReg) (b : SReg) (o : Off) (fs : Bool)
  /-- `ST_REL_QUAD` (R188). -/
  | stRelQuad (z : Size) (d : VReg) (b : SReg) (o : Off) (fs : Bool)
  /-- `ST_REL_DIE` (R188). -/
  | stRelDie (z : Size) (d : VReg) (b : SReg) (o : Off) (fs : Bool)
  /-- `ST_REL_PKG` (R188). -/
  | stRelPkg (z : Size) (d : VReg) (b : SReg) (o : Off) (fs : Bool)
  /-- `ST_REL_POD` (R188). -/
  | stRelPod (z : Size) (d : VReg) (b : SReg) (o : Off) (fs : Bool)
  /-- `LDP` (R185). -/
  | ldp (z : Size) (d : VReg) (b : SReg) (o : Off) (fs : Bool)
  /-- `LDP_SPEC` (R185). -/
  | ldpSpec (z : Size) (d : VReg) (b : SReg) (o : Off) (fs : Bool)
  /-- `STP` (R188). -/
  | stp (z : Size) (d : VReg) (b : SReg) (o : Off) (fs : Bool)
  /-- `LDC` (R187). -/
  | ldc (z : Size) (d : VReg) (b : SReg) (o : Off) (fs : Bool)
  /-- `LOAD_COMPLETE` (R84). -/
  | loadComplete (id : Nat)
  /-- `STORE_ACCEPTED` (R84). -/
  | storeAccepted (id : Nat)
  /-- `ATOM` (R189). -/
  | atom (op : AtomOp) (wide : Bool) (d : VReg) (b : SReg) (o : VReg) (fs : Bool)
  /-- `ATOMP` (R189). -/
  | atomp (op : AtomOp) (wide : Bool) (d : VReg) (b : SReg) (o : VReg) (fs : Bool)
  /-- `RED` (R189). -/
  | red (op : AtomOp) (wide : Bool) (d : VReg) (b : SReg) (o : VReg) (fs : Bool)
  /-- `ATOMIC_PERFORMED` (R189). -/
  | atomicPerformed (id : Nat)
  /-- `REDBV` (R191). -/
  | redbv (d : VReg) (b : SReg) (o : VReg)
  /-- `LDTOL` (R193). -/
  | ldtol (k : BitVec 6) (d : VReg) (b : SReg) (o : VReg) (fs : Bool)
  /-- `FENCE` (R194). -/
  | fence (sem : Sem) (scope : Scope)
  /-- `CFLUSH` (R195). -/
  | cflush (mem : Bool) (a b x : SReg)
  /-- `CINV` (R195). -/
  | cinv (mem : Bool) (a b x : SReg)
  /-- `WALKER_COMPLETE` (R195). -/
  | walkerComplete (id : Nat)
  /-- `PREF` (R196). -/
  | pref (l2 : Bool) (a : SReg) (b : VReg)
  /-- `BARI` (R200). -/
  | bari (scope : Scope) (a x : SReg)
  /-- `BARA` (R200). -/
  | bara (scope : Scope) (a : SReg)
  /-- `BARW` (R200). -/
  | barw (scope : Scope) (a x : SReg)
  /-- `BAR` (R200). -/
  | bar (scope : Scope) (a : SReg)
  /-- `BEXP` (R200). -/
  | bexp (scope : Scope) (a x : SReg)
  /-- `WAITM` (R202). -/
  | waitm (a x : SReg)
  /-- `BARRIER_OBJECT_UPDATE` (R199). -/
  | barrierObjectUpdate (id : Nat)
  /-- `WAITM_WAKE` (R202). -/
  | waitmWake (sk : Nat)
  /-- `CPY` (R203). -/
  | cpy (q : CopyDir) (a b x : SReg)
  /-- `CPY_SPL` (R208). -/
  | cpySpl (n : BitVec 3) (b x : SReg)
  /-- `CPYG` (R204). -/
  | cpyg (e : Size) (a b : SReg) (x : VReg)
  /-- `SEAL` (R206). -/
  | seal (a : SReg)
  /-- `WAITB` (R206). -/
  | waitb (a : SReg)
  /-- `SPLCFG` (R207). -/
  | splcfg (n : BitVec 3) (a : SReg)
  /-- `SPLGET` (R209). -/
  | splget (n : BitVec 3) (a : SReg)
  /-- `SPLREL` (R209). -/
  | splrel (n : BitVec 3)
  /-- `COPY_COMPLETE` (R203). -/
  | copyComplete (id : Nat)
  /-- `COPY_FAULT` (R205). -/
  | copyFault (id : Nat)
  /-- `MMAT_S` (R218). -/
  | mmatS (d : SReg) (acc : BitVec 2) (a b : MatSrc) (da db kk : SReg)
  /-- `MMAT_PAIR` (R221). -/
  | mmatPair (d : SReg) (acc : BitVec 2) (a b : MatSrc) (da db kk : SReg)
  /-- `MZERO` (R223). -/
  | mzero (acc : BitVec 2)
  /-- `MLOAD` (R224). -/
  | mload (acc : BitVec 2) (a : MatSrc) (fs : Bool)
  /-- `MDRAIN` (R225). -/
  | mdrain (fmt : DrainFmt) (tgt : DrainTgt) (acc : BitVec 2) (d sc sp : BitVec 6) (fs : Bool)
  /-- `ENGINE_OP_START` (R212). -/
  | engineOpStart (id : Nat)
  /-- `MMAT_BEGIN` (R218). -/
  | mmatBegin (id : Nat)
  /-- `MMAT_INTERRUPTIBLE_POINT` (R220). -/
  | mmatInterruptiblePoint (id : Nat)
  /-- `MMAT_COMPLETE` (R218). -/
  | mmatComplete (id : Nat)
  /-- `MLOAD_COMPLETE` (R224). -/
  | mloadComplete (id : Nat)
  /-- `MDRAIN_COMPLETE` (R84). -/
  | mdrainComplete (id : Nat)
  /-- `FWAIT` (R229). -/
  | fwait (a : SReg)
  /-- `FTEST` (R229). -/
  | ftest (d a : SReg)
  /-- `FCANCEL` (R229). -/
  | fcancel (a : SReg)
  /-- `COLL` (R231). -/
  | coll (kind : CollKind) (rop : CollOp) (scope : CollScope) (d a : SReg)
  /-- `CSEAL` (R236). -/
  | cseal (d a : SReg)
  /-- `COPEN` (R237). -/
  | copen (d a : SReg)
  /-- `COLL_COMPLETE` (R233). -/
  | collComplete (id : Nat)
  /-- `CSEAL_COMPLETE` (R236). -/
  | csealComplete (id : Nat)
  /-- `COPEN_COMPLETE` (R237). -/
  | copenComplete (id : Nat)
  /-- `SYSR` (R145). -/
  | sysr (x : SReg) (sel : SysReg)
  /-- `SYSW` (R145). -/
  | sysw (sel : SysReg) (x : SReg)
  /-- `RFT` (R149). -/
  | rft
  /-- `XREAD` (R147). -/
  | xread (x : BitVec 6) (a : SReg) (sel : XSel)
  /-- `XWRITE` (R147). -/
  | xwrite (sel : XSel) (a : SReg) (x : BitVec 6)
  /-- `XRESUME_PC` (R148). -/
  | xresumePc (a x : SReg)
  /-- `XRESUME_ENTRY` (R148). -/
  | xresumeEntry (a : SReg)
  /-- `SKEIN_HALT` (R145). -/
  | skeinHalt (sk : Nat)
  /-- `TRAP_SKEIN_START` (R143). -/
  | trapSkeinStart (core : Nat)
  /-- `SKEIN_END` (R126). -/
  | skeinEnd (sk : Nat)
  /-- `BREAKPOINT_FIRE` (R346). -/
  | breakpointFire (sk gang : Nat)
  /-- `WALK_COMPLETE` (R301). -/
  | walkComplete (id : Nat)
  /-- `FAULT_RESOLUTION_POSTED` (R335). -/
  | faultResolutionPosted (ctx page : Nat)
  /-- `FAULT_REFUSAL_POSTED` (R335). -/
  | faultRefusalPosted (ctx page : Nat)
  /-- `SCB_ENTRY_DRAIN` (R285). -/
  | scbEntryDrain (core entry : Nat)
  /-- `SCB_DRAIN_TIMEOUT` (R285). -/
  | scbDrainTimeout (core entry : Nat)
  /-- `GUEST_UPDATE` (R288). -/
  | guestUpdate (die entry : Nat)
  /-- `HOLDING_REQUEST` (R292). -/
  | holdingRequest (id : Nat)
  /-- `BASTE` (R292). -/
  | baste (id : Nat)
  /-- `BASTE_ACK` (R292). -/
  | basteAck (id : Nat)
  /-- `BOUNDED_DRAIN` (R293). -/
  | boundedDrain (id : Nat)
  /-- `DRAIN_ACK` (R291). -/
  | drainAck (id : Nat)
  /-- `LDTOL_REQUEST` (R294). -/
  | ldtolRequest (id : Nat)
  /-- `UNPICK` (R294). -/
  | unpick (id : Nat)
  /-- `UNPICK_ANSWER` (R294). -/
  | unpickAnswer (id : Nat)
  /-- `DOORBELL` (R357). -/
  | doorbell (q : Nat) (tail : BitVec 32)
  /-- `QUEUE_ENABLE` (R357). -/
  | queueEnable (q : Nat) (enable : Bool)
  /-- `LAUNCH_ACCEPT` (R307). -/
  | launchAccept (q : Nat)
  /-- `LAUNCH_DISPATCH` (R308). -/
  | launchDispatch (seq : Nat)
  /-- `PANEL_PLACE` (R317). -/
  | panelPlace (seq core : Nat)
  /-- `QUANTUM_COMMIT` (R277). -/
  | quantumCommit (seq : Nat)
  /-- `LAUNCH_CLOSE` (R326). -/
  | launchClose (seq : Nat)
  /-- `PREEMPTION_REQUEST` (R309). -/
  | preemptionRequest (seq : Nat)
  /-- `TIER_ONE_DEADLINE` (R339). -/
  | tierOneDeadline (ctx : Nat)
  /-- `TIER_TWO_DEADLINE` (R341). -/
  | tierTwoDeadline (ctx : Nat)
  /-- `COLL_WAIT_DEADLINE` (R339). -/
  | collWaitDeadline (ctx : Nat)
  /-- `RESTORE_TIMEOUT` (R380). -/
  | restoreTimeout (ctx : Nat)
  /-- `WATCHDOG_EXPIRY` (R344). -/
  | watchdogExpiry (seq : Nat)
  /-- `HOST_ABORT` (R325). -/
  | hostAbort (seq : Nat)
  /-- `WORLD_LATCH_CHANGE` (R348). -/
  | worldLatchChange (core : Nat) (world : BitVec 8)
  /-- `TABLE_UPDATE` (R299). -/
  | tableUpdate (pa : Nat) (entry : BitVec 64)
  /-- `SHOOTDOWN` (R302). -/
  | shootdown (ctx lo hi : Nat)
  /-- `MIGRATION_GO` (R359). -/
  | migrationGo (engine : Nat)
  /-- `MIGRATION_COMPLETE` (R304). -/
  | migrationComplete (engine : Nat)
  /-- `HOST_MEMORY_ACCESS` (R305). -/
  | hostMemoryAccess (acc : HostAcc)
  /-- `FOYER_HOST_ACCESS` (R306). -/
  | foyerHostAccess (acc : HostAcc)
  /-- `PATROL_SCRUB` (R298). -/
  | patrolScrub (sector : Nat) (find : ScrubFind)
  /-- `REGISTER_WRITE` (R355). -/
  | registerWrite (off : Nat) (val : BitVec 64)
  /-- `MSIX_UNMASK` (R358). -/
  | msixUnmask (vec : Nat)
  /-- `CONTEXT_CREATE` (R350). -/
  | contextCreate (ctx : Nat) (req : CreateReq)
  /-- `CONTEXT_DESTROY` (R350). -/
  | contextDestroy (ctx : Nat)
  /-- `CONTEXT_RESTORE` (R378). -/
  | contextRestore (ctx : Nat)
  /-- `CONTEXT_QUERY` (R378). -/
  | contextQuery (ctx : Nat)
  /-- `SPDM_REQUEST` (R360). -/
  | spdmRequest (req : SpdmReq)
  /-- `ML_DSA_CERT_CHAIN` (R360). -/
  | mlDsaCertChain (off len : Nat)
  /-- `ML_DSA_SIGNATURE` (R360). -/
  | mlDsaSignature
  /-- `IDE_KM` (R362). -/
  | ideKm (stream : Nat) (key : List Byte)
  /-- `STITCH_LINK_BRINGUP` (R363). -/
  | stitchLinkBringup (link : Nat) (peerOk : Bool)
  /-- `LANE_DROP` (R363). -/
  | laneDrop (link : Nat)
  /-- `LINK_DOWN` (R363). -/
  | linkDown (link : Nat)
  /-- `POD_MESSAGE` (R364). -/
  | podMessage (msg : PodMsg)
  /-- `HEARTBEAT` (R365). -/
  | heartbeat
  /-- `PACKAGE_LOST` (R365). -/
  | packageLost (node : Nat)
  /-- `CORE_FENCE` (R366). -/
  | coreFence (core : Nat)
  /-- `HOT_RESET` (R367). -/
  | hotReset
  /-- `HOST_LINK_DOWN` (R367). -/
  | hostLinkDown
  /-- `LINK_DOWN_TIMEOUT` (R367). -/
  | linkDownTimeout
  /-- `QUARANTINE_LIFT` (R367). -/
  | quarantineLift
  /-- `POWER_ON` (R368). -/
  | powerOn (ok : Bool)
  /-- `OPEN` (R261). -/
  | vitOpen (file : String)
  /-- `LPB` (R311). -/
  | vitLpb (file : String)
  /-- `DATA` (R261). -/
  | vitData (addr : Nat) (file : String)
  /-- `BREAK` (R381). -/
  | vitBreak (loc : String) (core : Option Nat)
  /-- `BREAK_DEL` (R381). -/
  | vitBreakDel (n : Nat) (core : Option Nat)
  /-- `RUN` (R261). -/
  | vitRun
  /-- `CONTINUE` (R347). -/
  | vitContinue
  /-- `STEP` (R347). -/
  | vitStep
  /-- `SKEIN` (R261). -/
  | vitSkein (core panel idx : Nat)
  /-- `REGS` (R262). -/
  | vitRegs (rs : List VReg)
  /-- `SREGS` (R261). -/
  | vitSregs (rs : List SReg)
  /-- `FLAGS` (R261). -/
  | vitFlags
  /-- `SLICES` (R261). -/
  | vitSlices
  /-- `PATTERN` (R374). -/
  | vitPattern
  /-- `POISON` (R376). -/
  | vitPoison (v : VReg)
  /-- `ACCESSIONS` (R376). -/
  | vitAccessions
  /-- `CABINET` (R371). -/
  | vitCabinet
  /-- `MEM` (R261). -/
  | vitMem (addr len : Nat)
  /-- `SCRATCH` (R261). -/
  | vitScratch (addr len : Nat)
  /-- `ACC` (R373). -/
  | vitAcc (n : Nat) (row : Option Nat) (c0 c1 : Option Nat)
  /-- `TRACKER` (R375). -/
  | vitTracker (addr : Nat)
  /-- `FUTURE` (R372). -/
  | vitFuture (r : SReg)
  /-- `BATCH` (R261). -/
  | vitBatch
  /-- `SPOOL` (R261). -/
  | vitSpool (n : Nat)
  /-- `WORLD` (R261). -/
  | vitWorld
  /-- `IMAGE` (R382). -/
  | vitImage (addr : Nat)
  /-- `HOLDING_GRANT` (R291). -/
  | holdingGrant (id : Nat)
  /-- `PASS_THROUGH_ADD` (R290). -/
  | passThroughAdd (id : Nat)
  /-- `RING_HEAD_WRITE` (R357). -/
  | ringHeadWrite (ring : RingName) (head : BitVec 32)
  /-- `HOST_LINK_RECOVERY` (R367). -/
  | hostLinkRecovery
  /-- `PSEUDO_CHANNEL_FAILURE` (R298). -/
  | pseudoChannelFailure (die pc : Nat)
  deriving DecidableEq, Repr

end Sys2Proof
end

