-- ==== Sys2Proof/WellFormed.lean ====
section
/-! DEFINITION. The limits that the manual puts on operands of a word by itself (R87, R90, R102, R106 to R112, R154,
R178, R226): a word outside them is ILLEGAL at decode.  The limits that depend on the panel, the core or the rest of
the clause are in Decode.lean. -/

namespace Sys2Proof

/-- An operand that names a 64-bit or complex pair must be even (R16, R90). -/
def even (r : BitVec 6) : Bool := r.toNat % 2 == 0

/-- A vector second operand of a pair word is even; a scalar may be any (R99). -/
def VSrc.even : VSrc → Bool
  | .v r => Sys2Proof.even r
  | .s _ => true

/-- 0x200 is the literal escape and no immediate (R87). -/
def Imm.ok : Imm → Bool
  | .short i => i != 0x200
  | .lit _ => true

/-- Bits of an element (Table 3.11). -/
def ElemFmt.width : ElemFmt → Nat
  | .f64 | .int64 => 64
  | .f32 | .int32 | .uint32 => 32
  | .f16 | .bf16 | .int16 | .uint16 => 16
  | .e4m3 | .e5m2 | .int8 | .uint8 => 8
  | .e2m1 | .int4 => 4

/-- Formats that `VPACK` reads and `VUNPK` writes (R171). -/
def ElemFmt.laneWide : ElemFmt → Bool
  | .f32 | .int32 | .uint32 => true
  | _ => false

/-- A 64-bit format occupies an even pair (R170). -/
def ElemFmt.regOk (f : ElemFmt) (r : VReg) : Bool := f.width != 64 || even r

/-- `r` is a multiple of the registers that hold one packed element group (R171). -/
def packOk (narrow : ElemFmt) (r : VReg) : Bool :=
  decide (narrow.width < 32) && r.toNat % (32 / narrow.width) == 0

/-- An even destination for `.d` (R178). -/
def Size.regOk (z : Size) (d : VReg) : Bool := z != .d || even d

/-- The destination of an atomic (R106, Table of major 0x11). -/
def atomRegOk (op : AtomOp) (wide : Bool) (d : VReg) : Bool :=
  match op, wide with
  | .cas, true => d.toNat % 4 == 0
  | .cas, false | _, true => even d
  | _, false => true

/-- `RED` takes neither `xchg` nor `cas` (R106). -/
def AtomOp.redOk : AtomOp → Bool
  | .xchg | .cas => false
  | _ => true

/-- A scratchpad operand is two consecutive scalars, the last at or below `s59` (R90, R215). -/
def MatSrc.ok : MatSrc → Bool
  | .regs _ => true
  | .pad s => decide (s.toNat ≤ 58)

/-- Formats that carry a block scale (R225). -/
def DrainFmt.quant : DrainFmt → Bool
  | .f32 | .bf16 => false
  | _ => true

/-- Bits of an element of a drained row (R225). -/
def DrainFmt.bits : DrainFmt → Nat
  | .f32 => 32
  | .bf16 => 16
  | .mxfp8e4 | .mxfp8e5 | .dbx8 => 8
  | .mxfp4 | .dbx4 => 4

/-- Registers that one band of a register drain fills (R226). -/
def DrainFmt.regs (f : DrainFmt) : Nat := f.bits

/-- The operands of `MDRAIN` (Table 3.17, R226). -/
def drainOk (f : DrainFmt) (t : DrainTgt) (d sc sp : BitVec 6) : Bool :=
  (f.quant || sc == 0) &&
  match t with
  | .regs => sp == 0 && decide (d.toNat + f.regs ≤ 64) &&
      (!f.quant || decide (sc.toNat < d.toNat) || decide (d.toNat + f.regs ≤ sc.toNat))
  | .pad | .glob => true

/-- System registers that `SYSR` reads (Table 4.5, R143). -/
def SysReg.readable : SysReg → Bool
  | .haltreq | .errpost => false
  | _ => true

/-- System registers that `SYSW` writes (Table 4.5, R143). -/
def SysReg.writable : SysReg → Bool
  | .haltreq | .errpost | .tscratch _ => true
  | _ => false

/-- Selectors that `XWRITE` may name (Table 4.7, R143). -/
def XSel.writable : XSel → Bool
  | .v _ | .s _ | .patternA | .patternB | .meldopen | .regionPc | .regionCount | .status => true
  | .accession _ w => w == 0
  | _ => false

/-- Only a reducing collective names an operation (Table 3.19). -/
def CollKind.reduces : CollKind → Bool
  | .allreduce | .redscat => true
  | .allgather | .alltoall => false

/-- The word keeps within the limits on its own operands.  A constructor that is not listed has operands whose types
admit only what its encoding admits. -/
def WellFormed : Instr → Bool
  | .meld a => decide (a.toNat ≤ 57)
  | .saddI _ _ i | .sandI _ _ i | .sorI _ _ i | .sxorI _ _ i | .scmpEqI _ _ i | .scmpNeI _ _ i | .scmpLtI _ _ i
  | .scmpLeI _ _ i | .scmpLtuI _ _ i | .scmpLeuI _ _ i => i.ok
  | .vaddI _ _ i | .vmulI _ _ i | .vandI _ _ i | .vorI _ _ i | .vxorI _ _ i | .vminI _ _ i | .vmaxI _ _ i
  | .vminuI _ _ i | .vmaxuI _ _ i => i.ok
  | .vmovi _ i => i.ok
  | .vfms _ a b _ | .vaddmin _ a b _ => decide (a.toNat ≤ b.toNat)
  | .vfnma _ a b _ | .vfaddmin _ a b _ => decide (b.toNat < a.toNat)
  | .vdadd d a b | .vdmul d a b | .vdfma d a b | .vcadd d a b | .vcmul d a b | .vcfma d a b =>
    even d && even a && b.even
  | .vred o d a | .vscan o d a => o != .addd || (even d && even a)
  | .vcvt dst src _ d a => dst != src && dst.regOk d && src.regOk a
  | .vpack dst src _ _ a => src.laneWide && packOk dst a
  | .vunpk dst src _ d _ => dst.laneWide && packOk src d
  | .vqdbx _ d _ => even d
  | .vdqdbx _ _ a => even a
  | .ld z d _ _ _ | .ldSpec z d _ _ _ | .ldByp z d _ _ _ | .ldAcqCore z d _ _ _ | .ldAcqQuad z d _ _ _
  | .ldAcqDie z d _ _ _ | .ldAcqPkg z d _ _ _ | .ldAcqPod z d _ _ _ | .st z d _ _ _ | .stRelCore z d _ _ _
  | .stRelQuad z d _ _ _ | .stRelDie z d _ _ _ | .stRelPkg z d _ _ _ | .stRelPod z d _ _ _ | .ldp z d _ _ _
  | .ldpSpec z d _ _ _ | .stp z d _ _ _ | .ldc z d _ _ _ => z.regOk d
  | .atom op w d _ _ _ | .atomp op w d _ _ _ => atomRegOk op w d
  | .red op w d _ _ _ => op.redOk && atomRegOk op w d
  | .ldtol k _ b _ _ => k != 32 || decide (b.toNat ≤ 58)
  | .cpy _ _ _ x | .cpySpl _ _ x => decide (x.toNat ≤ 58)
  | .splcfg _ a => decide (a.toNat ≤ 58)
  | .mmatS d _ a b _ _ _ => decide (d.toNat ≤ 59) && a.ok && b.ok
  | .mmatPair d acc a b _ _ _ => decide (d.toNat ≤ 59) && acc == 0 && a.ok && b.ok
  | .mload _ a _ =>
    match a with
    | .regs v => decide (v.toNat ≤ 62)
    | .pad s => decide (s.toNat ≤ 58)
  | .mdrain f t _ d sc sp _ => drainOk f t d sc sp
  | .coll k r _ d a => decide (d.toNat ≤ 59) && decide (a.toNat ≤ 56) && (k.reduces || r == .addi)
  | .cseal d a | .copen d a => decide (d.toNat ≤ 59) && decide (a.toNat ≤ 56)
  | .sysr _ sel => sel.readable
  | .sysw sel _ => sel.writable
  | .xwrite sel _ _ => sel.writable
  | _ => true

end Sys2Proof
end

