-- ==== Sys2Proof/Decode.lean ====
section
/-! DEFINITION. From words to instructions and back (R68 to R112), and the checks that a clause passes before any of its
words issues (R70 to R78, R113, R114).  Every register number and code leaves the word here; nothing after this file
sees an encoding. -/

namespace Sys2Proof

/-- Bits `[lo+n-1:lo]` of a word. -/
abbrev fld (w : Word) (lo n : Nat) : BitVec n := w.extractLsb' lo n

/-- Bit `lo` of a word. -/
abbrev bit (w : Word) (lo : Nat) : Bool := w.getLsbD lo

/-- The instruction where the reserved fields are as they must be (R88, R113). -/
def chk (p : Bool) (i : Instr) : Option Instr := if p then some i else none

/-- Types of major 0x04 (R95). -/
def ElemTy.ofCode : Nat → Option ElemTy
  | 0 => some .w
  | 1 => some .h2
  | 2 => some .b4
  | _ => none

/-- The code of types of major 0x04 (R95). -/
def ElemTy.code : ElemTy → BitVec 2
  | .w => 0
  | .h2 => 1
  | .b4 => 2

/-- Access sizes (R88). -/
def Size.ofCode : Nat → Option Size
  | 0 => some .b
  | 1 => some .h
  | 2 => some .w
  | 3 => some .d
  | _ => none

/-- The code of access sizes (R88). -/
def Size.code : Size → BitVec 2
  | .b => 0
  | .h => 1
  | .w => 2
  | .d => 3

/-- Conditions of `VCMP` (R103). -/
def Cond.ofCode : Nat → Option Cond
  | 0 => some .eq
  | 1 => some .ne
  | 2 => some .lt
  | 3 => some .le
  | 4 => some .gt
  | 5 => some .ge
  | _ => none

/-- The code of conditions of `VCMP` (R103). -/
def Cond.code : Cond → BitVec 3
  | .eq => 0
  | .ne => 1
  | .lt => 2
  | .le => 3
  | .gt => 4
  | .ge => 5

/-- Conditions of `VFCMP` (R103). -/
def FCond.ofCode : Nat → Option FCond
  | 0 => some .eq
  | 1 => some .ne
  | 2 => some .lt
  | 3 => some .le
  | 4 => some .gt
  | 5 => some .ge
  | 6 => some .ord
  | 7 => some .un
  | _ => none

/-- The code of conditions of `VFCMP` (R103). -/
def FCond.code : FCond → BitVec 3
  | .eq => 0
  | .ne => 1
  | .lt => 2
  | .le => 3
  | .gt => 4
  | .ge => 5
  | .ord => 6
  | .un => 7

/-- Reductions (R101). -/
def RedOp.ofCode : Nat → Option RedOp
  | 0 => some .add
  | 1 => some .and
  | 2 => some .or
  | 3 => some .xor
  | 4 => some .min
  | 5 => some .max
  | 6 => some .minu
  | 7 => some .maxu
  | 8 => some .addf
  | 9 => some .minf
  | 10 => some .maxf
  | 11 => some .addd
  | _ => none

/-- The code of reductions (R101). -/
def RedOp.code : RedOp → BitVec 4
  | .add => 0
  | .and => 1
  | .or => 2
  | .xor => 3
  | .min => 4
  | .max => 5
  | .minu => 6
  | .maxu => 7
  | .addf => 8
  | .minf => 9
  | .maxf => 10
  | .addd => 11

/-- Element formats (Table 3.11). -/
def ElemFmt.ofCode : Nat → Option ElemFmt
  | 0 => some .f32
  | 1 => some .f64
  | 2 => some .f16
  | 3 => some .bf16
  | 4 => some .e4m3
  | 5 => some .e5m2
  | 6 => some .e2m1
  | 7 => some .int8
  | 8 => some .int4
  | 9 => some .int16
  | 10 => some .int32
  | 11 => some .uint8
  | 12 => some .uint16
  | 13 => some .uint32
  | 14 => some .int64
  | _ => none

/-- The code of element formats (Table 3.11). -/
def ElemFmt.code : ElemFmt → BitVec 4
  | .f32 => 0
  | .f64 => 1
  | .f16 => 2
  | .bf16 => 3
  | .e4m3 => 4
  | .e5m2 => 5
  | .e2m1 => 6
  | .int8 => 7
  | .int4 => 8
  | .int16 => 9
  | .int32 => 10
  | .uint8 => 11
  | .uint16 => 12
  | .uint32 => 13
  | .int64 => 14

/-- Rounding modifiers (R102). -/
def CvtMod.ofCode : Nat → Option CvtMod
  | 0 => some .rm
  | 1 => some .rne
  | 2 => some .rz
  | 3 => some .rup
  | 4 => some .rdn
  | 5 => some .sat
  | 6 => some .rneSat
  | 7 => some .rzSat
  | _ => none

/-- The code of rounding modifiers (R102). -/
def CvtMod.code : CvtMod → BitVec 3
  | .rm => 0
  | .rne => 1
  | .rz => 2
  | .rup => 3
  | .rdn => 4
  | .sat => 5
  | .rneSat => 6
  | .rzSat => 7

/-- Block formats (Table 3.12). -/
def BlockFmt.ofCode : Nat → Option BlockFmt
  | 0 => some .dbx8
  | 1 => some .dbx4
  | 2 => some .mxfp8e4
  | 3 => some .mxfp8e5
  | 4 => some .mxfp4
  | 5 => some .mxint8
  | _ => none

/-- The code of block formats (Table 3.12). -/
def BlockFmt.code : BlockFmt → BitVec 4
  | .dbx8 => 0
  | .dbx4 => 1
  | .mxfp8e4 => 2
  | .mxfp8e5 => 3
  | .mxfp4 => 4
  | .mxint8 => 5

/-- Atomic operations (R106). -/
def AtomOp.ofCode : Nat → Option AtomOp
  | 0 => some .add
  | 1 => some .addf
  | 2 => some .min
  | 3 => some .max
  | 4 => some .minu
  | 5 => some .maxu
  | 6 => some .and
  | 7 => some .or
  | 8 => some .xor
  | 9 => some .xchg
  | 10 => some .cas
  | _ => none

/-- The code of atomic operations (R106). -/
def AtomOp.code : AtomOp → BitVec 4
  | .add => 0
  | .addf => 1
  | .min => 2
  | .max => 3
  | .minu => 4
  | .maxu => 5
  | .and => 6
  | .or => 7
  | .xor => 8
  | .xchg => 9
  | .cas => 10

/-- Scopes (Table 1.5). -/
def Scope.ofCode : Nat → Option Scope
  | 0 => some .core
  | 1 => some .quad
  | 2 => some .die
  | 3 => some .pkg
  | 4 => some .pod
  | _ => none

/-- The code of scopes (Table 1.5). -/
def Scope.code : Scope → BitVec 3
  | .core => 0
  | .quad => 1
  | .die => 2
  | .pkg => 3
  | .pod => 4

/-- Fence semantics (Table 3.14). -/
def Sem.ofCode : Nat → Option Sem
  | 1 => some .acq
  | 2 => some .rel
  | 3 => some .ar
  | _ => none

/-- The code of fence semantics (Table 3.14). -/
def Sem.code : Sem → BitVec 2
  | .acq => 1
  | .rel => 2
  | .ar => 3

/-- Copy directions (R203). -/
def CopyDir.ofCode : Nat → Option CopyDir
  | 0 => some .g2p
  | 1 => some .p2g
  | 2 => some .g2g
  | 3 => some .p2p
  | _ => none

/-- The code of copy directions (R203). -/
def CopyDir.code : CopyDir → BitVec 3
  | .g2p => 0
  | .p2g => 1
  | .g2g => 2
  | .p2p => 3

/-- Drain formats (Table 3.17). -/
def DrainFmt.ofCode : Nat → Option DrainFmt
  | 0 => some .f32
  | 1 => some .bf16
  | 2 => some .mxfp8e4
  | 3 => some .mxfp8e5
  | 4 => some .mxfp4
  | 5 => some .dbx8
  | 6 => some .dbx4
  | _ => none

/-- The code of drain formats (Table 3.17). -/
def DrainFmt.code : DrainFmt → BitVec 3
  | .f32 => 0
  | .bf16 => 1
  | .mxfp8e4 => 2
  | .mxfp8e5 => 3
  | .mxfp4 => 4
  | .dbx8 => 5
  | .dbx4 => 6

/-- Drain targets (Table 3.17). -/
def DrainTgt.ofCode : Nat → Option DrainTgt
  | 0 => some .regs
  | 1 => some .pad
  | 2 => some .glob
  | _ => none

/-- The code of drain targets (Table 3.17). -/
def DrainTgt.code : DrainTgt → BitVec 2
  | .regs => 0
  | .pad => 1
  | .glob => 2

/-- Kinds of collective (Table 3.19). -/
def CollKind.ofCode : Nat → Option CollKind
  | 0 => some .allreduce
  | 1 => some .allgather
  | 2 => some .redscat
  | 3 => some .alltoall
  | _ => none

/-- The code of kinds of collective (Table 3.19). -/
def CollKind.code : CollKind → BitVec 3
  | .allreduce => 0
  | .allgather => 1
  | .redscat => 2
  | .alltoall => 3

/-- Operations of a collective (Table 3.19). -/
def CollOp.ofCode : Nat → Option CollOp
  | 0 => some .addi
  | 1 => some .addf
  | 2 => some .addd
  | 3 => some .mini
  | 4 => some .maxi
  | 5 => some .minf
  | 6 => some .maxf
  | _ => none

/-- The code of operations of a collective (Table 3.19). -/
def CollOp.code : CollOp → BitVec 4
  | .addi => 0
  | .addf => 1
  | .addd => 2
  | .mini => 3
  | .maxi => 4
  | .minf => 5
  | .maxf => 6

/-- Scopes of a collective (Table 3.19). -/
def CollScope.ofCode : Nat → Option CollScope
  | 2 => some .die
  | 3 => some .pkg
  | 4 => some .pod
  | _ => none

/-- The code of scopes of a collective (Table 3.19). -/
def CollScope.code : CollScope → BitVec 3
  | .die => 2
  | .pkg => 3
  | .pod => 4

/-- `SGET` selectors (Table 4.2). -/
def Selector.ofCode : Nat → Option Selector
  | 0x000 => some .status
  | 0x001 => some .skein
  | 0x002 => some .panel
  | 0x003 => some .panelX
  | 0x004 => some .panelY
  | 0x005 => some .panelZ
  | 0x006 => some .core
  | 0x007 => some .launch
  | 0x008 => some .world
  | 0x009 => some .gangs
  | 0x00A => some .region
  | 0x00B => some .batch
  | 0x00C => some .cycles
  | 0x040 => some .gridX
  | 0x041 => some .gridY
  | 0x042 => some .gridZ
  | 0x043 => some .skeins
  | 0x044 => some .seed
  | 0x045 => some .ctrbase
  | 0x046 => some .cbank
  | 0x047 => some .scratch
  | 0x048 => some .accs
  | _ => none

/-- The code of an `SGET` selector (Table 4.2). -/
def Selector.code : Selector → BitVec 10
  | .status => 0x000
  | .skein => 0x001
  | .panel => 0x002
  | .panelX => 0x003
  | .panelY => 0x004
  | .panelZ => 0x005
  | .core => 0x006
  | .launch => 0x007
  | .world => 0x008
  | .gangs => 0x009
  | .region => 0x00A
  | .batch => 0x00B
  | .cycles => 0x00C
  | .gridX => 0x040
  | .gridY => 0x041
  | .gridZ => 0x042
  | .skeins => 0x043
  | .seed => 0x044
  | .ctrbase => 0x045
  | .cbank => 0x046
  | .scratch => 0x047
  | .accs => 0x048

/-- Trap skein system registers (Table 4.5). -/
def SysReg.ofCode (c : BitVec 11) : Option SysReg :=
  match c.toNat with
  | 0x000 => some .trapcause
  | 0x001 => some .trappc
  | 0x002 => some .trapaddr
  | 0x003 => some .trapbase
  | 0x004 => some .halted
  | 0x005 => some .trapq
  | 0x006 => some .haltreq
  | 0x00C => some .errpost
  | n => if 0x008 ≤ n ∧ n ≤ 0x00B then some (.tscratch (c.extractLsb' 0 2)) else none

/-- The code of a trap skein system register (Table 4.5). -/
def SysReg.code : SysReg → BitVec 11
  | .trapcause => 0x000
  | .trappc => 0x001
  | .trapaddr => 0x002
  | .trapbase => 0x003
  | .halted => 0x004
  | .trapq => 0x005
  | .haltreq => 0x006
  | .tscratch n => (0b000000010 : BitVec 9) ++ n
  | .errpost => 0x00C

/-- State selectors (Table 4.7). -/
def XSel.ofCode (c : BitVec 11) : Option XSel :=
  let n := c.toNat
  if n < 0x040 then some (.v (c.extractLsb' 0 6))
  else if n < 0x080 then some (.s (c.extractLsb' 0 6))
  else if h : 0x080 ≤ n ∧ n < 0x08C then some (.f ⟨n - 0x080, by omega⟩)
  else if n = 0x090 then some .pending
  else if 0x0A0 ≤ n ∧ n ≤ 0x0A7 then some (.pc (c.extractLsb' 0 3))
  else if n = 0x0A8 then some .gangmap
  else if n = 0x0A9 then some .exited
  else if n = 0x0B0 then some .patternA
  else if n = 0x0B1 then some .patternB
  else if n = 0x0B2 then some .meldopen
  else if n = 0x0B8 then some .regionPc
  else if n = 0x0B9 then some .regionCount
  else if n = 0x0BA then some .stop
  else if 0x0C0 ≤ n ∧ n ≤ 0x0FF then some (.accession (c.extractLsb' 2 4) (c.extractLsb' 0 2))
  else if n = 0x100 then some .status
  else if n = 0x101 then some .batchstate
  else if 0x110 ≤ n ∧ n ≤ 0x11F then some (.oplog (c.extractLsb' 2 2) (c.extractLsb' 0 2))
  else none

/-- The code of a state selector (Table 4.7). -/
def XSel.code : XSel → BitVec 11
  | .v n => (0b00000 : BitVec 5) ++ n
  | .s n => (0b00001 : BitVec 5) ++ n
  | .f n => BitVec.ofNat 11 (0x080 + n)
  | .pending => 0x090
  | .pc n => (0b00010100 : BitVec 8) ++ n
  | .gangmap => 0x0A8
  | .exited => 0x0A9
  | .patternA => 0x0B0
  | .patternB => 0x0B1
  | .meldopen => 0x0B2
  | .regionPc => 0x0B8
  | .regionCount => 0x0B9
  | .stop => 0x0BA
  | .accession i w => (0b00011 : BitVec 5) ++ i ++ w
  | .status => 0x100
  | .batchstate => 0x101
  | .oplog e w => (0b0010001 : BitVec 7) ++ e ++ w

/-! ### The formats (Table 3.4) -/

/-- V3 and S3: `vd`, `va`, `vb`, `bs`, `fn`. -/
def fmtV3 (c : Bool) (maj : BitVec 5) (d a b : BitVec 6) (bs : Bool) (fn : BitVec 7) : Word :=
  BitVec.ofBool c ++ maj ++ d ++ a ++ b ++ BitVec.ofBool bs ++ fn
/-- V4: `vd`, `va`, `vb`, `vc`, `fn`. -/
def fmtV4 (c : Bool) (maj : BitVec 5) (d a b e : BitVec 6) (fn : BitVec 2) : Word :=
  BitVec.ofBool c ++ maj ++ d ++ a ++ b ++ e ++ fn
/-- VI and SI: `vd`, `va`, `fn`, `imm10`. -/
def fmtVI (c : Bool) (maj : BitVec 5) (d a : BitVec 6) (fn : BitVec 4) (imm : BitVec 10) : Word :=
  BitVec.ofBool c ++ maj ++ d ++ a ++ fn ++ imm
/-- SM: `sd`, `fn`, `imm18`. -/
def fmtSM (c : Bool) (maj : BitVec 5) (d : BitVec 6) (fn : BitVec 2) (imm : BitVec 18) : Word :=
  BitVec.ofBool c ++ maj ++ d ++ fn ++ imm
/-- CB: `fn`, `sa`, `off15`. -/
def fmtCB (c : Bool) (maj : BitVec 5) (fn : BitVec 5) (a : BitVec 6) (off : BitVec 15) : Word :=
  BitVec.ofBool c ++ maj ++ fn ++ a ++ off
/-- CV: `vd`, `va`, `src`, `dst`, `mod`, `op`. -/
def fmtCV (c : Bool) (maj : BitVec 5) (d a : BitVec 6) (src dst : BitVec 4) (m op : BitVec 3) : Word :=
  BitVec.ofBool c ++ maj ++ d ++ a ++ src ++ dst ++ m ++ op
/-- M: `dv`, `sbase`, `voff`, `ov`, `sz`, `var`, `fs`, `lit`. -/
def fmtM (c : Bool) (maj : BitVec 5) (d b o : BitVec 6) (ov : Bool) (z : BitVec 2) (var : BitVec 3) (fs lit : Bool) : Word :=
  BitVec.ofBool c ++ maj ++ d ++ b ++ o ++ BitVec.ofBool ov ++ z ++ var ++ BitVec.ofBool fs ++ BitVec.ofBool lit
/-- MA: `dv`, `sbase`, `voff`, `op`, `kind`, `fs`, `sz`. -/
def fmtMA (c : Bool) (maj : BitVec 5) (d b o : BitVec 6) (op : BitVec 4) (kind : BitVec 2) (fs sz : Bool) : Word :=
  BitVec.ofBool c ++ maj ++ d ++ b ++ o ++ op ++ kind ++ BitVec.ofBool fs ++ BitVec.ofBool sz
/-- MB: `dv`, `sbase`, `voff`, `op`, `k`, `fs`. -/
def fmtMB (c : Bool) (maj : BitVec 5) (d b o : BitVec 6) (op : Bool) (k : BitVec 6) (fs : Bool) : Word :=
  BitVec.ofBool c ++ maj ++ d ++ b ++ o ++ BitVec.ofBool op ++ k ++ BitVec.ofBool fs
/-- X of majors 0x13 to 0x15: `op`, `q`, three six-bit fields, two low bits. -/
def fmtX (c : Bool) (maj : BitVec 5) (op q : BitVec 3) (a b x : BitVec 6) (lo : BitVec 2) : Word :=
  BitVec.ofBool c ++ maj ++ op ++ q ++ a ++ b ++ x ++ lo
/-- Table 3.16: `d`, `acc`, `op`, `as`, `bs`, `a`, `b`, `x`. -/
def fmtMM (c : Bool) (d : BitVec 6) (acc : BitVec 2) (op : BitVec 3) (as bs : Bool) (a b : BitVec 6) (x : Bool) : Word :=
  BitVec.ofBool c ++ (0x16 : BitVec 5) ++ d ++ acc ++ op ++ BitVec.ofBool as ++ BitVec.ofBool bs ++ a ++ b ++
    BitVec.ofBool x
/-- Table 3.17: `dst`, `acc`, `fmt`, `tgt`, `sc`, `sp`, `fs`. -/
def fmtMD (c : Bool) (d : BitVec 6) (acc : BitVec 2) (f : BitVec 3) (t : BitVec 2) (sc sp : BitVec 6) (fs : Bool) : Word :=
  BitVec.ofBool c ++ (0x17 : BitVec 5) ++ d ++ acc ++ f ++ t ++ sc ++ sp ++ BitVec.ofBool fs
/-- Table 3.19: `op`, `d`, `a`, `scope`, `kind`, `rop`, a reserved bit. -/
def fmtFU (c : Bool) (op : BitVec 3) (d a : BitVec 6) (scope kind : BitVec 3) (rop : BitVec 4) : Word :=
  BitVec.ofBool c ++ (0x18 : BitVec 5) ++ op ++ d ++ a ++ scope ++ kind ++ rop ++ (0 : BitVec 1)
/-- Table 3.20: `op`, `x`, `a`, `sel`. -/
def fmtSY (c : Bool) (op : BitVec 3) (x a : BitVec 6) (sel : BitVec 11) : Word :=
  BitVec.ofBool c ++ (0x19 : BitVec 5) ++ op ++ x ++ a ++ sel
/-- Table 3.18: the extension word of `MMAT`. -/
def fmtExt (da db kk : BitVec 6) : Word := da ++ db ++ kk ++ (0 : BitVec 14)
/-- Table 3.1: the clause header. -/
def fmtHeader (wait : BitVec 12) (setA setB len : BitVec 4) (gap : BitVec 2) : Word :=
  (0 : BitVec 1) ++ (0x1F : BitVec 5) ++ wait ++ setA ++ setB ++ len ++ gap

/-! ### Operand forms in a word -/

/-- The immediate field of a VI or SI word (R86). -/
def immOf (i : BitVec 10) (l : Word) : Imm := if i = 0x200 then .lit l else .short i
def Imm.field : Imm → BitVec 10
  | .short i => i
  | .lit _ => 0x200
def Imm.lits : Imm → List Word
  | .short _ => []
  | .lit l => [l]

/-- The second operand of a V3 word (R88). -/
def vsrcOf (b : BitVec 6) (bs : Bool) : VSrc := if bs then .s b else .v b
def VSrc.num : VSrc → BitVec 6
  | .v r => r
  | .s r => r
def VSrc.bs : VSrc → Bool
  | .v _ => false
  | .s _ => true

/-- The lane offset of an M word (R88): with `ov` = 0 and `lit` = 1 the field `voff` is 0. -/
def offOf (o : BitVec 6) (ov lit : Bool) (l : Word) : Option Off :=
  match ov, lit with
  | false, false => some (.imm o)
  | false, true => if o = 0 then some (.lit l) else none
  | true, false => some (.vec o)
  | true, true => some (.vecLit o l)
def Off.num : Off → BitVec 6
  | .imm n => n
  | .lit _ => 0
  | .vec v => v
  | .vecLit v _ => v
def Off.ov : Off → Bool
  | .imm _ | .lit _ => false
  | .vec _ | .vecLit _ _ => true
def Off.isLit : Off → Bool
  | .imm _ | .vec _ => false
  | .lit _ | .vecLit _ _ => true
def Off.lits : Off → List Word
  | .imm _ | .vec _ => []
  | .lit l | .vecLit _ l => [l]

/-- A matrix operand (Table 3.16). -/
def matOf (pad : Bool) (r : BitVec 6) : MatSrc := if pad then .pad r else .regs r
def MatSrc.num : MatSrc → BitVec 6
  | .regs r => r
  | .pad r => r
def MatSrc.isPad : MatSrc → Bool
  | .regs _ => false
  | .pad _ => true

/-! ### Decoding by major opcode (Table 3.5) -/

/-- Major 0x00 (R91). -/
def decControl (w : Word) : Option Instr :=
  let a := fld w 15 6
  let off := fld w 0 15
  match (fld w 21 5).toNat with
  | 0x00 => chk (a == 0 && off == 0) .nop
  | 0x01 => chk (a == 0) (.bra off)
  | 0x02 => some (.bruZ a off)
  | 0x03 => some (.bruNz a off)
  | 0x04 => some (.bruNeg a off)
  | 0x05 => some (.bruNneg a off)
  | 0x06 => some (.bruv a off)
  | 0x07 => some (.brs a off)
  | 0x08 => some (.brzm a off)
  | 0x09 => chk (a == 0) (.call off)
  | 0x0A => chk (a == 0 && off == 0) .ret
  | 0x0B => chk (off == 0) (.jmpi a)
  | 0x0C => chk (a == 0 && off == 0) .exit
  | 0x0D => chk (a == 0 && off == 0) .yield
  | 0x0E => chk (off == 0) (.split a)
  | 0x0F => chk (off == 0) (.regang a)
  | 0x10 => chk (off == 0) (.meld a)
  | 0x11 => chk (a == 0 && off == 0) .meldx
  | 0x12 => chk (a == 0 && off == 0) .region
  | n => chk (decide (0x18 ≤ n) && fld w 24 2 == 3) (.vdrop (fld w 18 6) (fld w 12 6) (fld w 6 6) (fld w 0 6))

/-- Major 0x01 (R92). -/
def decScalar (d a b : SReg) (bs : Bool) (fn : BitVec 7) : Option Instr :=
  if bs then none else
  match fn.toNat with
  | 0x00 => some (.sadd d a b)
  | 0x01 => some (.ssub d a b)
  | 0x02 => some (.smul d a b)
  | 0x03 => some (.smulh d a b)
  | 0x04 => some (.smulhu d a b)
  | 0x05 => some (.sdiv d a b)
  | 0x06 => some (.sdivu d a b)
  | 0x07 => some (.srem d a b)
  | 0x08 => some (.sremu d a b)
  | 0x09 => some (.sand d a b)
  | 0x0A => some (.sor d a b)
  | 0x0B => some (.sxor d a b)
  | 0x0C => some (.sandn d a b)
  | 0x0D => some (.sshl d a b)
  | 0x0E => some (.sshr d a b)
  | 0x0F => some (.ssra d a b)
  | 0x10 => some (.smin d a b)
  | 0x11 => some (.smax d a b)
  | 0x12 => some (.sminu d a b)
  | 0x13 => some (.smaxu d a b)
  | 0x14 => some (.scmpEq d a b)
  | 0x15 => some (.scmpNe d a b)
  | 0x16 => some (.scmpLt d a b)
  | 0x17 => some (.scmpLe d a b)
  | 0x18 => some (.scmpLtu d a b)
  | 0x19 => some (.scmpLeu d a b)
  | 0x1A => some (.ssel d a b)
  | 0x1B => chk (b == 0) (.spopc d a)
  | 0x1C => chk (b == 0) (.sclz d a)
  | 0x1D => chk (b == 0) (.sctz d a)
  | 0x1E => some (.sbfe d a b)
  | 0x1F => some (.sbfi d a b)
  | _ => none

/-- Major 0x02 (R93); a shift amount is at most 63 and never a literal (R87). -/
def decScalarImm (d a : SReg) (fn : BitVec 4) (i : BitVec 10) (l : Word) : Option Instr :=
  match fn.toNat with
  | 0 => some (.saddI d a (immOf i l))
  | 1 => some (.sandI d a (immOf i l))
  | 2 => some (.sorI d a (immOf i l))
  | 3 => some (.sxorI d a (immOf i l))
  | 4 => chk (i.extractLsb' 6 4 == 0) (.sshlI d a (i.extractLsb' 0 6))
  | 5 => chk (i.extractLsb' 6 4 == 0) (.sshrI d a (i.extractLsb' 0 6))
  | 6 => chk (i.extractLsb' 6 4 == 0) (.ssraI d a (i.extractLsb' 0 6))
  | 7 => some (.scmpEqI d a (immOf i l))
  | 8 => some (.scmpNeI d a (immOf i l))
  | 9 => some (.scmpLtI d a (immOf i l))
  | 10 => some (.scmpLeI d a (immOf i l))
  | 11 => some (.scmpLtuI d a (immOf i l))
  | 12 => some (.scmpLeuI d a (immOf i l))
  | _ => none

/-- Major 0x03 (R94). -/
def decMove (w : Word) : Option Instr :=
  let d := fld w 20 6
  let a := fld w 12 6
  match (fld w 18 2).toNat, (fld w 10 2).toNat with
  | 0, _ => some (.smovi d (fld w 0 18))
  | 1, _ => some (.slui d (fld w 0 18))
  | 2, 0 => chk (fld w 0 10 == 0) (.smov d a)
  | 2, 1 => if a = 0 then (Selector.ofCode (fld w 0 10).toNat).map (.sget d) else none
  | 2, 2 => chk (d == 0 && fld w 0 10 == 0) (.sput a)
  | _, _ => none

/-- Major 0x04 (R95): the operation and the type. -/
def decVInt (d a b : VReg) (bs : Bool) (op : BitVec 5) (ty : BitVec 2) : Option Instr :=
  match ElemTy.ofCode ty.toNat with
  | none => none
  | some t =>
    let s := vsrcOf b bs
    match op.toNat with
    | 0 => some (.vadd t d a s)
    | 1 => some (.vsub t d a s)
    | 2 => some (.vmul t d a s)
    | 3 => some (.vmulh t d a s)
    | 4 => some (.vmulhu t d a s)
    | 5 => chk (t == .w) (.vand d a s)
    | 6 => chk (t == .w) (.vor d a s)
    | 7 => chk (t == .w) (.vxor d a s)
    | 8 => chk (t == .w) (.vandn d a s)
    | 9 => some (.vshl t d a s)
    | 10 => some (.vshr t d a s)
    | 11 => some (.vsra t d a s)
    | 12 => some (.vmin t d a s)
    | 13 => some (.vmax t d a s)
    | 14 => some (.vminu t d a s)
    | 15 => some (.vmaxu t d a s)
    | 16 => some (.vabsd t d a s)
    | 17 => some (.vaddsat t d a s)
    | 18 => some (.vsubsat t d a s)
    | 19 => chk (b == 0 && !bs) (.vpopc t d a)
    | 20 => chk (b == 0 && !bs) (.vclz t d a)
    | 21 => chk (t == .w) (.vbfe d a s)
    | 22 => chk (t == .w) (.vbfi d a s)
    | 23 => chk (t == .w && a == 0) (.vmov d s)
    | 24 => chk (t == .w && a == 0 && b == 0 && !bs) (.vidx d)
    | _ => none

/-- Major 0x05 (R96); a shift amount is at most 31 and never a literal (R87). -/
def decVImm (d a : VReg) (fn : BitVec 4) (i : BitVec 10) (l : Word) : Option Instr :=
  match fn.toNat with
  | 0 => some (.vaddI d a (immOf i l))
  | 1 => some (.vmulI d a (immOf i l))
  | 2 => some (.vandI d a (immOf i l))
  | 3 => some (.vorI d a (immOf i l))
  | 4 => some (.vxorI d a (immOf i l))
  | 5 => chk (i.extractLsb' 5 5 == 0) (.vshlI d a (i.extractLsb' 0 5))
  | 6 => chk (i.extractLsb' 5 5 == 0) (.vshrI d a (i.extractLsb' 0 5))
  | 7 => chk (i.extractLsb' 5 5 == 0) (.vsraI d a (i.extractLsb' 0 5))
  | 8 => some (.vminI d a (immOf i l))
  | 9 => some (.vmaxI d a (immOf i l))
  | 10 => some (.vminuI d a (immOf i l))
  | 11 => some (.vmaxuI d a (immOf i l))
  | 12 => chk (a == 0) (.vmovi d (immOf i l))
  | _ => none

/-- Major 0x06 (R97). -/
def decVFp (d a b : VReg) (bs : Bool) (fn : BitVec 7) : Option Instr :=
  let s := vsrcOf b bs
  match fn.toNat with
  | 0 => some (.vfadd d a s)
  | 1 => some (.vfsub d a s)
  | 2 => some (.vfmul d a s)
  | 3 => some (.vfmin d a s)
  | 4 => some (.vfmax d a s)
  | 5 => chk (b == 0 && !bs) (.vfabs d a)
  | 6 => chk (b == 0 && !bs) (.vfneg d a)
  | 7 => chk (b == 0 && !bs) (.vfclass d a)
  | 8 => some (.vfscale d a s)
  | 9 => chk (b == 0 && !bs) (.vfrint d a)
  | _ => none

/-- Major 0x07 (R98): the order of the encoded `va` and `vb` carries one bit of the operation. -/
def decVFour (d a b e : VReg) (fn : BitVec 2) : Option Instr :=
  match fn.toNat with
  | 0 => some (.vfma d a b e)
  | 1 => if a.toNat ≤ b.toNat then some (.vfms d a b e) else some (.vfnma d a b e)
  | 2 => some (.vmad d a b e)
  | _ => if a.toNat ≤ b.toNat then some (.vaddmin d a b e) else some (.vfaddmin d a b e)

/-- Major 0x08 (R99). -/
def decVPair (d a b : VReg) (bs : Bool) (fn : BitVec 7) : Option Instr :=
  let s := vsrcOf b bs
  match fn.toNat with
  | 0 => some (.vdadd d a s)
  | 1 => some (.vdmul d a s)
  | 2 => some (.vdfma d a s)
  | 3 => some (.vcadd d a s)
  | 4 => some (.vcmul d a s)
  | 5 => some (.vcfma d a s)
  | _ => none

/-- Major 0x09 (R100): the function and `fs`. -/
def decVTrn (d a b : VReg) (bs : Bool) (fn : BitVec 6) (fs : Bool) : Option Instr :=
  match fn.toNat with
  | 0 => some (.vfdiv d a (vsrcOf b bs) fs)
  | 1 => chk (b == 0 && !bs) (.vfsqrt d a fs)
  | 2 => chk (b == 0 && !bs) (.vexp2 d a fs)
  | 3 => chk (b == 0 && !bs) (.vlog2 d a fs)
  | 4 => chk (b == 0 && !bs) (.vrcp d a fs)
  | 5 => chk (b == 0 && !bs) (.vrsq d a fs)
  | 6 => chk (b == 0 && !bs) (.vsinp d a fs)
  | 7 => chk (b == 0 && !bs) (.vcosp d a fs)
  | 8 => chk (b == 0 && !bs) (.vrng d a fs)
  | _ => none

/-- Major 0x0A (R101): `hi` is fn[6:4]. -/
def decVLane (d a b : VReg) (bs : Bool) (hi : BitVec 3) (lo : BitVec 4) : Option Instr :=
  match hi.toNat with
  | 0 =>
    match lo.toNat with
    | 0 => chk bs (.vshup d a b)
    | 1 => chk bs (.vshdn d a b)
    | 2 => chk bs (.vrot d a b)
    | 3 => chk (!bs) (.vperm d a b)
    | 4 => chk bs (.vbcast d a b)
    | _ => none
  | 1 => if b == 0 && !bs then (RedOp.ofCode lo.toNat).map (.vred · d a) else none
  | 2 => if b == 0 && !bs then (RedOp.ofCode lo.toNat).map (.vscan · d a) else none
  | _ => none

/-- Major 0x0B (R102). -/
def decVCvt (d a : VReg) (src dst : BitVec 4) (m op : BitVec 3) : Option Instr :=
  match op.toNat with
  | 3 => if src == 0 && m == 0 then (BlockFmt.ofCode dst.toNat).map (.vqdbx · d a) else none
  | 4 => if dst == 0 && m == 0 then (BlockFmt.ofCode src.toNat).map (.vdqdbx · d a) else none
  | n =>
    match ElemFmt.ofCode dst.toNat, ElemFmt.ofCode src.toNat, CvtMod.ofCode m.toNat with
    | some t, some s, some r =>
      match n with
      | 0 => some (.vcvt t s r d a)
      | 1 => some (.vpack t s r d a)
      | 2 => some (.vunpk t s r d a)
      | _ => none
    | _, _, _ => none

/-- Major 0x0C (R103): the family fn[6:4] and the condition; fn[3] is reserved. -/
def decVCmp (d a b : BitVec 6) (bs : Bool) (fam : BitVec 3) (r : Bool) (k : BitVec 3) : Option Instr :=
  if r then none else
  match fam.toNat with
  | 0 => (Cond.ofCode k.toNat).map (.vcmp · d a (vsrcOf b bs))
  | 1 => (Cond.ofCode k.toNat).map (.vcmpu · d a (vsrcOf b bs))
  | 2 => (FCond.ofCode k.toNat).map (.vfcmp · d a (vsrcOf b bs))
  | 3 => chk (k == 0 && bs) (.vsel d a b)
  | _ => none

/-- Major 0x0D (R104). -/
def decTrap (w : Word) : Option Instr :=
  let d := fld w 20 6
  let a := fld w 14 6
  let b := fld w 8 6
  let bs := bit w 7
  match (fld w 0 7).toNat with
  | 0 => if bs then chk (d == 0 && a == 0) (.chkScalar b) else chk (d == 0 && b == 0) (.chk a)
  | 1 => chk (b == 0 && !bs) (.ptst d a)
  | 2 => chk (d == 0 && !bs) (.trap (fld w 8 12))
  | 3 => chk (fld w 7 19 == 0) .dbrk
  | _ => none

/-- Major 0x0E (Table 3.13). -/
def decLoad (d : VReg) (b : SReg) (o : Off) (z : Size) (var : BitVec 3) (fs : Bool) : Option Instr :=
  match var.toNat with
  | 0 => some (.ld z d b o fs)
  | 1 => some (.ldSpec z d b o fs)
  | 2 => some (.ldByp z d b o fs)
  | 3 => some (.ldAcqCore z d b o fs)
  | 4 => some (.ldAcqQuad z d b o fs)
  | 5 => some (.ldAcqDie z d b o fs)
  | 6 => some (.ldAcqPkg z d b o fs)
  | 7 => some (.ldAcqPod z d b o fs)
  | _ => none

/-- Major 0x0F (Table 3.13). -/
def decStore (d : VReg) (b : SReg) (o : Off) (z : Size) (var : BitVec 3) (fs : Bool) : Option Instr :=
  match var.toNat with
  | 0 => some (.st z d b o fs)
  | 1 => some (.stRelCore z d b o fs)
  | 2 => some (.stRelQuad z d b o fs)
  | 3 => some (.stRelDie z d b o fs)
  | 4 => some (.stRelPkg z d b o fs)
  | 5 => some (.stRelPod z d b o fs)
  | _ => none

/-- Major 0x10 (Table 3.13). -/
def decPad (d : VReg) (b : SReg) (o : Off) (z : Size) (var : BitVec 3) (fs : Bool) : Option Instr :=
  match var.toNat with
  | 0 => some (.ldp z d b o fs)
  | 1 => some (.ldpSpec z d b o fs)
  | 2 => some (.stp z d b o fs)
  | 3 => some (.ldc z d b o fs)
  | _ => none

/-- The fields that the M format shares (R88). -/
def decM (w l : Word) (f : VReg → SReg → Off → Size → BitVec 3 → Bool → Option Instr) : Option Instr :=
  match offOf (fld w 8 6) (bit w 7) (bit w 0) l, Size.ofCode (fld w 5 2).toNat with
  | some o, some z => f (fld w 20 6) (fld w 14 6) o z (fld w 2 3) (bit w 1)
  | _, _ => none

/-- Major 0x11 (R106). -/
def decAtom (d : VReg) (b : SReg) (o : VReg) (op : BitVec 4) (kind : BitVec 2) (fs sz : Bool) : Option Instr :=
  match AtomOp.ofCode op.toNat with
  | none => none
  | some op =>
    match kind.toNat with
    | 0 => some (.atom op sz d b o fs)
    | 1 => some (.atomp op sz d b o fs)
    | 2 => some (.red op sz d b o fs)
    | _ => none

/-- Major 0x12 (R107). -/
def decBounded (d : VReg) (b : SReg) (o : VReg) (op : Bool) (k : BitVec 6) (fs : Bool) : Option Instr :=
  if op then some (.ldtol k d b o fs) else chk (k == 0 && !fs) (.redbv d b o)

/-- Major 0x13 (Table 3.14). -/
def decFence (op q : BitVec 3) (a b x : BitVec 6) (lo : BitVec 2) : Option Instr :=
  if lo != 0 then none else
  match op.toNat with
  | 0 =>
    if a.extractLsb' 0 4 == 0 && b == 0 && x == 0 then
      match Sem.ofCode (a.extractLsb' 4 2).toNat, Scope.ofCode q.toNat with
      | some s, some p => some (.fence s p)
      | _, _ => none
    else none
  | 1 => chk (decide (q.toNat ≤ 1)) (.cflush (q == 1) a b x)
  | 2 => chk (decide (q.toNat ≤ 1)) (.cinv (q == 1) a b x)
  | 3 => chk (decide (q.toNat ≤ 1) && x == 0) (.pref (q == 1) a b)
  | _ => none

/-- Major 0x14 (R109). -/
def decBarrier (op q : BitVec 3) (a b : BitVec 6) (lo : BitVec 8) : Option Instr :=
  if lo != 0 then none else
  match op.toNat with
  | 5 => chk (q == 0) (.waitm a b)
  | n =>
    match Scope.ofCode q.toNat with
    | none => none
    | some p =>
      match n with
      | 0 => some (.bari p a b)
      | 1 => chk (b == 0) (.bara p a)
      | 2 => some (.barw p a b)
      | 3 => chk (b == 0) (.bar p a)
      | 4 => some (.bexp p a b)
      | _ => none

/-- Major 0x15 (Table 3.15). -/
def decCopy (op q : BitVec 3) (a b x : BitVec 6) (lo : BitVec 2) : Option Instr :=
  if lo != 0 then none else
  match op.toNat with
  | 0 => (CopyDir.ofCode q.toNat).map (.cpy · a b x)
  | 1 => chk (a == 0) (.cpySpl q b x)
  | 2 => if q.getLsbD 2 then none else (Size.ofCode q.toNat).map (.cpyg · a b x)
  | 3 => chk (q == 0 && b == 0 && x == 0) (.seal a)
  | 4 => chk (q == 0 && b == 0 && x == 0) (.waitb a)
  | 5 => chk (b == 0 && x == 0) (.splcfg q a)
  | 6 => chk (b == 0 && x == 0) (.splget q a)
  | _ => chk (a == 0 && b == 0 && x == 0) (.splrel q)

/-- Major 0x16 (Tables 3.16 and 3.18). -/
def decMatrix (d : SReg) (acc : BitVec 2) (op : BitVec 3) (as bs : Bool) (a b : BitVec 6) (x : Bool) (l : Word) :
    Option Instr :=
  match op.toNat with
  | 0 => chk (x && fld l 0 14 == 0) (.mmatS d acc (matOf as a) (matOf bs b) (fld l 26 6) (fld l 20 6) (fld l 14 6))
  | 1 => chk (x && fld l 0 14 == 0) (.mmatPair d acc (matOf as a) (matOf bs b) (fld l 26 6) (fld l 20 6) (fld l 14 6))
  | 2 => chk (d == 0 && !as && !bs && a == 0 && b == 0 && !x) (.mzero acc)
  | 3 => chk (d == 0 && !bs && b == 0) (.mload acc (matOf as a) x)
  | _ => none

/-- Major 0x17 (Table 3.17). -/
def decDrain (d : BitVec 6) (acc : BitVec 2) (f : BitVec 3) (t : BitVec 2) (sc sp : BitVec 6) (fs : Bool) : Option Instr :=
  match DrainFmt.ofCode f.toNat, DrainTgt.ofCode t.toNat with
  | some f, some t => some (.mdrain f t acc d sc sp fs)
  | _, _ => none

/-- Major 0x18 (Table 3.19). -/
def decFuture (op : BitVec 3) (d a : SReg) (scope kind : BitVec 3) (rop : BitVec 4) (r : Bool) : Option Instr :=
  if r then none else
  let bare := scope == 0 && kind == 0 && rop == 0
  match op.toNat with
  | 0 => chk (d == 0 && bare) (.fwait a)
  | 1 => chk bare (.ftest d a)
  | 2 => chk (d == 0 && bare) (.fcancel a)
  | 3 =>
    match CollKind.ofCode kind.toNat, CollOp.ofCode rop.toNat, CollScope.ofCode scope.toNat with
    | some k, some r, some p => some (.coll k r p d a)
    | _, _, _ => none
  | 4 => chk bare (.cseal d a)
  | 5 => chk bare (.copen d a)
  | _ => none

/-- Major 0x19 (Table 3.20). -/
def decSystem (op : BitVec 3) (x a : BitVec 6) (sel : BitVec 11) : Option Instr :=
  match op.toNat with
  | 0 => if a = 0 then (SysReg.ofCode sel).map (.sysr x) else none
  | 1 => if a = 0 then (SysReg.ofCode sel).map (.sysw · x) else none
  | 2 => chk (x == 0 && a == 0 && sel == 0) .rft
  | 3 => (XSel.ofCode sel).map (.xread x a)
  | 4 => (XSel.ofCode sel).map (.xwrite · a x)
  | 5 =>
    match sel.toNat with
    | 0 => some (.xresumePc a x)
    | 1 => chk (x == 0) (.xresumeEntry a)
    | _ => none
  | _ => none

/-- The word's instruction by its codes and reserved fields; `l` is the word in the slot after it. -/
def decodeCodes (w l : Word) : Option Instr :=
  let d := fld w 20 6
  let a := fld w 14 6
  let b := fld w 8 6
  match (fld w 26 5).toNat with
  | 0x00 => decControl w
  | 0x01 => decScalar d a b (bit w 7) (fld w 0 7)
  | 0x02 => decScalarImm d a (fld w 10 4) (fld w 0 10) l
  | 0x03 => decMove w
  | 0x04 => decVInt d a b (bit w 7) (fld w 2 5) (fld w 0 2)
  | 0x05 => decVImm d a (fld w 10 4) (fld w 0 10) l
  | 0x06 => decVFp d a b (bit w 7) (fld w 0 7)
  | 0x07 => decVFour d a b (fld w 2 6) (fld w 0 2)
  | 0x08 => decVPair d a b (bit w 7) (fld w 0 7)
  | 0x09 => decVTrn d a b (bit w 7) (fld w 1 6) (bit w 0)
  | 0x0A => decVLane d a b (bit w 7) (fld w 4 3) (fld w 0 4)
  | 0x0B => decVCvt d a (fld w 10 4) (fld w 6 4) (fld w 3 3) (fld w 0 3)
  | 0x0C => decVCmp d a b (bit w 7) (fld w 4 3) (bit w 3) (fld w 0 3)
  | 0x0D => decTrap w
  | 0x0E => decM w l decLoad
  | 0x0F => decM w l decStore
  | 0x10 => decM w l decPad
  | 0x11 => decAtom d a b (fld w 4 4) (fld w 2 2) (bit w 1) (bit w 0)
  | 0x12 => decBounded d a b (bit w 7) (fld w 1 6) (bit w 0)
  | 0x13 => decFence (fld w 23 3) (fld w 20 3) a b (fld w 2 6) (fld w 0 2)
  | 0x14 => decBarrier (fld w 23 3) (fld w 20 3) a b (fld w 0 8)
  | 0x15 => decCopy (fld w 23 3) (fld w 20 3) a b (fld w 2 6) (fld w 0 2)
  | 0x16 => decMatrix d (fld w 18 2) (fld w 15 3) (bit w 14) (bit w 13) (fld w 7 6) (fld w 1 6) (bit w 0) l
  | 0x17 => decDrain d (fld w 18 2) (fld w 15 3) (fld w 13 2) (fld w 7 6) (fld w 1 6) (bit w 0)
  | 0x18 => decFuture (fld w 23 3) (fld w 17 6) (fld w 11 6) (fld w 8 3) (fld w 5 3) (fld w 1 4) (bit w 0)
  | 0x19 => decSystem (fld w 23 3) (fld w 17 6) (fld w 11 6) (fld w 0 11)
  | 0x1F => chk (!bit w 31) (.clauseHeader (fld w 14 12) (fld w 10 4) (fld w 6 4) (fld w 2 4) (fld w 0 2))
  | _ => none

/-- Decode one word: the chain bit and the instruction, or the refusal that R113 makes ILLEGAL. -/
def decodeWord (w l : Word) : Option (Bool × Instr) :=
  match decodeCodes w l with
  | some i => if WellFormed i then some (bit w 31, i) else none
  | none => none

/-- The instruction of a table word: bits [31:0] are the word, the bits above it the slot after it. -/
def decodeTableWord (_nbits w : Nat) : Option Instr :=
  (decodeWord (BitVec.ofNat 32 w) (BitVec.ofNat 32 (w >>> 32))).map Prod.snd

/-- The words of an instruction with chain bit `c`: its word, then its literal or extension word where it has one.  An
event of the machine has no word. -/
def encode (c : Bool) : Instr → List Word
  | .clauseHeader wait setA setB len gap => [fmtHeader wait setA setB len gap]
  | .nop => [fmtCB c 0x00 0x00 0 0]
  | .bra off => [fmtCB c 0x00 0x01 0 off]
  | .bruZ a off => [fmtCB c 0x00 0x02 a off]
  | .bruNz a off => [fmtCB c 0x00 0x03 a off]
  | .bruNeg a off => [fmtCB c 0x00 0x04 a off]
  | .bruNneg a off => [fmtCB c 0x00 0x05 a off]
  | .bruv a off => [fmtCB c 0x00 0x06 a off]
  | .brs a off => [fmtCB c 0x00 0x07 a off]
  | .brzm a off => [fmtCB c 0x00 0x08 a off]
  | .call off => [fmtCB c 0x00 0x09 0 off]
  | .ret => [fmtCB c 0x00 0x0A 0 0]
  | .jmpi a => [fmtCB c 0x00 0x0B a 0]
  | .exit => [fmtCB c 0x00 0x0C 0 0]
  | .yield => [fmtCB c 0x00 0x0D 0 0]
  | .split a => [fmtCB c 0x00 0x0E a 0]
  | .regang a => [fmtCB c 0x00 0x0F a 0]
  | .meld a => [fmtCB c 0x00 0x10 a 0]
  | .meldx => [fmtCB c 0x00 0x11 0 0]
  | .region => [fmtCB c 0x00 0x12 0 0]
  | .vdrop a b e d => [BitVec.ofBool c ++ (0x00 : BitVec 5) ++ (0b11 : BitVec 2) ++ a ++ b ++ e ++ d]
  | .sadd d a b => [fmtV3 c 0x01 d a b false 0x00]
  | .ssub d a b => [fmtV3 c 0x01 d a b false 0x01]
  | .smul d a b => [fmtV3 c 0x01 d a b false 0x02]
  | .smulh d a b => [fmtV3 c 0x01 d a b false 0x03]
  | .smulhu d a b => [fmtV3 c 0x01 d a b false 0x04]
  | .sdiv d a b => [fmtV3 c 0x01 d a b false 0x05]
  | .sdivu d a b => [fmtV3 c 0x01 d a b false 0x06]
  | .srem d a b => [fmtV3 c 0x01 d a b false 0x07]
  | .sremu d a b => [fmtV3 c 0x01 d a b false 0x08]
  | .sand d a b => [fmtV3 c 0x01 d a b false 0x09]
  | .sor d a b => [fmtV3 c 0x01 d a b false 0x0A]
  | .sxor d a b => [fmtV3 c 0x01 d a b false 0x0B]
  | .sandn d a b => [fmtV3 c 0x01 d a b false 0x0C]
  | .sshl d a b => [fmtV3 c 0x01 d a b false 0x0D]
  | .sshr d a b => [fmtV3 c 0x01 d a b false 0x0E]
  | .ssra d a b => [fmtV3 c 0x01 d a b false 0x0F]
  | .smin d a b => [fmtV3 c 0x01 d a b false 0x10]
  | .smax d a b => [fmtV3 c 0x01 d a b false 0x11]
  | .sminu d a b => [fmtV3 c 0x01 d a b false 0x12]
  | .smaxu d a b => [fmtV3 c 0x01 d a b false 0x13]
  | .scmpEq d a b => [fmtV3 c 0x01 d a b false 0x14]
  | .scmpNe d a b => [fmtV3 c 0x01 d a b false 0x15]
  | .scmpLt d a b => [fmtV3 c 0x01 d a b false 0x16]
  | .scmpLe d a b => [fmtV3 c 0x01 d a b false 0x17]
  | .scmpLtu d a b => [fmtV3 c 0x01 d a b false 0x18]
  | .scmpLeu d a b => [fmtV3 c 0x01 d a b false 0x19]
  | .ssel d a b => [fmtV3 c 0x01 d a b false 0x1A]
  | .spopc d a => [fmtV3 c 0x01 d a 0 false 0x1B]
  | .sclz d a => [fmtV3 c 0x01 d a 0 false 0x1C]
  | .sctz d a => [fmtV3 c 0x01 d a 0 false 0x1D]
  | .sbfe d a b => [fmtV3 c 0x01 d a b false 0x1E]
  | .sbfi d a b => [fmtV3 c 0x01 d a b false 0x1F]
  | .saddI d a i => fmtVI c 0x02 d a 0 i.field :: i.lits
  | .sandI d a i => fmtVI c 0x02 d a 1 i.field :: i.lits
  | .sorI d a i => fmtVI c 0x02 d a 2 i.field :: i.lits
  | .sxorI d a i => fmtVI c 0x02 d a 3 i.field :: i.lits
  | .sshlI d a n => [fmtVI c 0x02 d a 4 ((0 : BitVec 4) ++ n)]
  | .sshrI d a n => [fmtVI c 0x02 d a 5 ((0 : BitVec 4) ++ n)]
  | .ssraI d a n => [fmtVI c 0x02 d a 6 ((0 : BitVec 4) ++ n)]
  | .scmpEqI d a i => fmtVI c 0x02 d a 7 i.field :: i.lits
  | .scmpNeI d a i => fmtVI c 0x02 d a 8 i.field :: i.lits
  | .scmpLtI d a i => fmtVI c 0x02 d a 9 i.field :: i.lits
  | .scmpLeI d a i => fmtVI c 0x02 d a 10 i.field :: i.lits
  | .scmpLtuI d a i => fmtVI c 0x02 d a 11 i.field :: i.lits
  | .scmpLeuI d a i => fmtVI c 0x02 d a 12 i.field :: i.lits
  | .smovi d i => [fmtSM c 0x03 d 0 i]
  | .slui d i => [fmtSM c 0x03 d 1 i]
  | .smov d a => [fmtSM c 0x03 d 2 (a ++ (0 : BitVec 2) ++ (0 : BitVec 10))]
  | .sget d sel => [fmtSM c 0x03 d 2 ((0 : BitVec 6) ++ (1 : BitVec 2) ++ sel.code)]
  | .sput a => [fmtSM c 0x03 0 2 (a ++ (2 : BitVec 2) ++ (0 : BitVec 10))]
  | .vadd t d a b => [fmtV3 c 0x04 d a b.num b.bs ((0 : BitVec 5) ++ t.code)]
  | .vsub t d a b => [fmtV3 c 0x04 d a b.num b.bs ((1 : BitVec 5) ++ t.code)]
  | .vmul t d a b => [fmtV3 c 0x04 d a b.num b.bs ((2 : BitVec 5) ++ t.code)]
  | .vmulh t d a b => [fmtV3 c 0x04 d a b.num b.bs ((3 : BitVec 5) ++ t.code)]
  | .vmulhu t d a b => [fmtV3 c 0x04 d a b.num b.bs ((4 : BitVec 5) ++ t.code)]
  | .vand d a b => [fmtV3 c 0x04 d a b.num b.bs ((5 : BitVec 5) ++ (0 : BitVec 2))]
  | .vor d a b => [fmtV3 c 0x04 d a b.num b.bs ((6 : BitVec 5) ++ (0 : BitVec 2))]
  | .vxor d a b => [fmtV3 c 0x04 d a b.num b.bs ((7 : BitVec 5) ++ (0 : BitVec 2))]
  | .vandn d a b => [fmtV3 c 0x04 d a b.num b.bs ((8 : BitVec 5) ++ (0 : BitVec 2))]
  | .vshl t d a b => [fmtV3 c 0x04 d a b.num b.bs ((9 : BitVec 5) ++ t.code)]
  | .vshr t d a b => [fmtV3 c 0x04 d a b.num b.bs ((10 : BitVec 5) ++ t.code)]
  | .vsra t d a b => [fmtV3 c 0x04 d a b.num b.bs ((11 : BitVec 5) ++ t.code)]
  | .vmin t d a b => [fmtV3 c 0x04 d a b.num b.bs ((12 : BitVec 5) ++ t.code)]
  | .vmax t d a b => [fmtV3 c 0x04 d a b.num b.bs ((13 : BitVec 5) ++ t.code)]
  | .vminu t d a b => [fmtV3 c 0x04 d a b.num b.bs ((14 : BitVec 5) ++ t.code)]
  | .vmaxu t d a b => [fmtV3 c 0x04 d a b.num b.bs ((15 : BitVec 5) ++ t.code)]
  | .vabsd t d a b => [fmtV3 c 0x04 d a b.num b.bs ((16 : BitVec 5) ++ t.code)]
  | .vaddsat t d a b => [fmtV3 c 0x04 d a b.num b.bs ((17 : BitVec 5) ++ t.code)]
  | .vsubsat t d a b => [fmtV3 c 0x04 d a b.num b.bs ((18 : BitVec 5) ++ t.code)]
  | .vpopc t d a => [fmtV3 c 0x04 d a 0 false ((19 : BitVec 5) ++ t.code)]
  | .vclz t d a => [fmtV3 c 0x04 d a 0 false ((20 : BitVec 5) ++ t.code)]
  | .vbfe d a b => [fmtV3 c 0x04 d a b.num b.bs ((21 : BitVec 5) ++ (0 : BitVec 2))]
  | .vbfi d a b => [fmtV3 c 0x04 d a b.num b.bs ((22 : BitVec 5) ++ (0 : BitVec 2))]
  | .vmov d b => [fmtV3 c 0x04 d 0 b.num b.bs ((23 : BitVec 5) ++ (0 : BitVec 2))]
  | .vidx d => [fmtV3 c 0x04 d 0 0 false ((24 : BitVec 5) ++ (0 : BitVec 2))]
  | .vaddI d a i => fmtVI c 0x05 d a 0 i.field :: i.lits
  | .vmulI d a i => fmtVI c 0x05 d a 1 i.field :: i.lits
  | .vandI d a i => fmtVI c 0x05 d a 2 i.field :: i.lits
  | .vorI d a i => fmtVI c 0x05 d a 3 i.field :: i.lits
  | .vxorI d a i => fmtVI c 0x05 d a 4 i.field :: i.lits
  | .vshlI d a n => [fmtVI c 0x05 d a 5 ((0 : BitVec 5) ++ n)]
  | .vshrI d a n => [fmtVI c 0x05 d a 6 ((0 : BitVec 5) ++ n)]
  | .vsraI d a n => [fmtVI c 0x05 d a 7 ((0 : BitVec 5) ++ n)]
  | .vminI d a i => fmtVI c 0x05 d a 8 i.field :: i.lits
  | .vmaxI d a i => fmtVI c 0x05 d a 9 i.field :: i.lits
  | .vminuI d a i => fmtVI c 0x05 d a 10 i.field :: i.lits
  | .vmaxuI d a i => fmtVI c 0x05 d a 11 i.field :: i.lits
  | .vmovi d i => fmtVI c 0x05 d 0 12 i.field :: i.lits
  | .vfadd d a b => [fmtV3 c 0x06 d a b.num b.bs 0]
  | .vfsub d a b => [fmtV3 c 0x06 d a b.num b.bs 1]
  | .vfmul d a b => [fmtV3 c 0x06 d a b.num b.bs 2]
  | .vfmin d a b => [fmtV3 c 0x06 d a b.num b.bs 3]
  | .vfmax d a b => [fmtV3 c 0x06 d a b.num b.bs 4]
  | .vfabs d a => [fmtV3 c 0x06 d a 0 false 5]
  | .vfneg d a => [fmtV3 c 0x06 d a 0 false 6]
  | .vfclass d a => [fmtV3 c 0x06 d a 0 false 7]
  | .vfscale d a b => [fmtV3 c 0x06 d a b.num b.bs 8]
  | .vfrint d a => [fmtV3 c 0x06 d a 0 false 9]
  | .vfma d a b e => [fmtV4 c 0x07 d a b e 0]
  | .vfms d a b e => [fmtV4 c 0x07 d a b e 1]
  | .vfnma d a b e => [fmtV4 c 0x07 d a b e 1]
  | .vmad d a b e => [fmtV4 c 0x07 d a b e 2]
  | .vaddmin d a b e => [fmtV4 c 0x07 d a b e 3]
  | .vfaddmin d a b e => [fmtV4 c 0x07 d a b e 3]
  | .vdadd d a b => [fmtV3 c 0x08 d a b.num b.bs 0]
  | .vdmul d a b => [fmtV3 c 0x08 d a b.num b.bs 1]
  | .vdfma d a b => [fmtV3 c 0x08 d a b.num b.bs 2]
  | .vcadd d a b => [fmtV3 c 0x08 d a b.num b.bs 3]
  | .vcmul d a b => [fmtV3 c 0x08 d a b.num b.bs 4]
  | .vcfma d a b => [fmtV3 c 0x08 d a b.num b.bs 5]
  | .vfdiv d a b fs => [fmtV3 c 0x09 d a b.num b.bs ((0 : BitVec 6) ++ BitVec.ofBool fs)]
  | .vfsqrt d a fs => [fmtV3 c 0x09 d a 0 false ((1 : BitVec 6) ++ BitVec.ofBool fs)]
  | .vexp2 d a fs => [fmtV3 c 0x09 d a 0 false ((2 : BitVec 6) ++ BitVec.ofBool fs)]
  | .vlog2 d a fs => [fmtV3 c 0x09 d a 0 false ((3 : BitVec 6) ++ BitVec.ofBool fs)]
  | .vrcp d a fs => [fmtV3 c 0x09 d a 0 false ((4 : BitVec 6) ++ BitVec.ofBool fs)]
  | .vrsq d a fs => [fmtV3 c 0x09 d a 0 false ((5 : BitVec 6) ++ BitVec.ofBool fs)]
  | .vsinp d a fs => [fmtV3 c 0x09 d a 0 false ((6 : BitVec 6) ++ BitVec.ofBool fs)]
  | .vcosp d a fs => [fmtV3 c 0x09 d a 0 false ((7 : BitVec 6) ++ BitVec.ofBool fs)]
  | .vrng d a fs => [fmtV3 c 0x09 d a 0 false ((8 : BitVec 6) ++ BitVec.ofBool fs)]
  | .vshup d a b => [fmtV3 c 0x0A d a b true 0]
  | .vshdn d a b => [fmtV3 c 0x0A d a b true 1]
  | .vrot d a b => [fmtV3 c 0x0A d a b true 2]
  | .vperm d a b => [fmtV3 c 0x0A d a b false 3]
  | .vbcast d a b => [fmtV3 c 0x0A d a b true 4]
  | .vred o d a => [fmtV3 c 0x0A d a 0 false ((1 : BitVec 3) ++ o.code)]
  | .vscan o d a => [fmtV3 c 0x0A d a 0 false ((2 : BitVec 3) ++ o.code)]
  | .vcvt dst src m d a => [fmtCV c 0x0B d a src.code dst.code m.code 0]
  | .vpack dst src m d a => [fmtCV c 0x0B d a src.code dst.code m.code 1]
  | .vunpk dst src m d a => [fmtCV c 0x0B d a src.code dst.code m.code 2]
  | .vqdbx blk d a => [fmtCV c 0x0B d a 0 blk.code 0 3]
  | .vdqdbx blk d a => [fmtCV c 0x0B d a blk.code 0 0 4]
  | .vcmp k d a b => [fmtV3 c 0x0C d a b.num b.bs ((0 : BitVec 3) ++ (0 : BitVec 1) ++ k.code)]
  | .vcmpu k d a b => [fmtV3 c 0x0C d a b.num b.bs ((1 : BitVec 3) ++ (0 : BitVec 1) ++ k.code)]
  | .vfcmp k d a b => [fmtV3 c 0x0C d a b.num b.bs ((2 : BitVec 3) ++ (0 : BitVec 1) ++ k.code)]
  | .vsel d a b => [fmtV3 c 0x0C d a b true ((3 : BitVec 3) ++ (0 : BitVec 1) ++ (0 : BitVec 3))]
  | .chk a => [fmtV3 c 0x0D 0 a 0 false 0]
  | .chkScalar b => [fmtV3 c 0x0D 0 0 b true 0]
  | .ptst d a => [fmtV3 c 0x0D d a 0 false 1]
  | .trap code => [BitVec.ofBool c ++ (0x0D : BitVec 5) ++ (0 : BitVec 6) ++ code ++ (0 : BitVec 1) ++ (2 : BitVec 7)]
  | .dbrk => [fmtV3 c 0x0D 0 0 0 false 3]
  | .ld z d b o fs => [fmtM c 0x0E d b o.num o.ov z.code 0 fs o.isLit] ++ o.lits
  | .ldSpec z d b o fs => [fmtM c 0x0E d b o.num o.ov z.code 1 fs o.isLit] ++ o.lits
  | .ldByp z d b o fs => [fmtM c 0x0E d b o.num o.ov z.code 2 fs o.isLit] ++ o.lits
  | .ldAcqCore z d b o fs => [fmtM c 0x0E d b o.num o.ov z.code 3 fs o.isLit] ++ o.lits
  | .ldAcqQuad z d b o fs => [fmtM c 0x0E d b o.num o.ov z.code 4 fs o.isLit] ++ o.lits
  | .ldAcqDie z d b o fs => [fmtM c 0x0E d b o.num o.ov z.code 5 fs o.isLit] ++ o.lits
  | .ldAcqPkg z d b o fs => [fmtM c 0x0E d b o.num o.ov z.code 6 fs o.isLit] ++ o.lits
  | .ldAcqPod z d b o fs => [fmtM c 0x0E d b o.num o.ov z.code 7 fs o.isLit] ++ o.lits
  | .st z d b o fs => [fmtM c 0x0F d b o.num o.ov z.code 0 fs o.isLit] ++ o.lits
  | .stRelCore z d b o fs => [fmtM c 0x0F d b o.num o.ov z.code 1 fs o.isLit] ++ o.lits
  | .stRelQuad z d b o fs => [fmtM c 0x0F d b o.num o.ov z.code 2 fs o.isLit] ++ o.lits
  | .stRelDie z d b o fs => [fmtM c 0x0F d b o.num o.ov z.code 3 fs o.isLit] ++ o.lits
  | .stRelPkg z d b o fs => [fmtM c 0x0F d b o.num o.ov z.code 4 fs o.isLit] ++ o.lits
  | .stRelPod z d b o fs => [fmtM c 0x0F d b o.num o.ov z.code 5 fs o.isLit] ++ o.lits
  | .ldp z d b o fs => [fmtM c 0x10 d b o.num o.ov z.code 0 fs o.isLit] ++ o.lits
  | .ldpSpec z d b o fs => [fmtM c 0x10 d b o.num o.ov z.code 1 fs o.isLit] ++ o.lits
  | .stp z d b o fs => [fmtM c 0x10 d b o.num o.ov z.code 2 fs o.isLit] ++ o.lits
  | .ldc z d b o fs => [fmtM c 0x10 d b o.num o.ov z.code 3 fs o.isLit] ++ o.lits
  | .atom op w d b o fs => [fmtMA c 0x11 d b o op.code 0 fs w]
  | .atomp op w d b o fs => [fmtMA c 0x11 d b o op.code 1 fs w]
  | .red op w d b o fs => [fmtMA c 0x11 d b o op.code 2 fs w]
  | .redbv d b o => [fmtMB c 0x12 d b o false 0 false]
  | .ldtol k d b o fs => [fmtMB c 0x12 d b o true k fs]
  | .fence s p => [fmtX c 0x13 0 p.code (s.code ++ (0 : BitVec 4)) 0 0 0]
  | .cflush m a b x => [fmtX c 0x13 1 (if m then 1 else 0) a b x 0]
  | .cinv m a b x => [fmtX c 0x13 2 (if m then 1 else 0) a b x 0]
  | .pref m a b => [fmtX c 0x13 3 (if m then 1 else 0) a b 0 0]
  | .bari p a x => [fmtX c 0x14 0 p.code a x 0 0]
  | .bara p a => [fmtX c 0x14 1 p.code a 0 0 0]
  | .barw p a x => [fmtX c 0x14 2 p.code a x 0 0]
  | .bar p a => [fmtX c 0x14 3 p.code a 0 0 0]
  | .bexp p a x => [fmtX c 0x14 4 p.code a x 0 0]
  | .waitm a x => [fmtX c 0x14 5 0 a x 0 0]
  | .cpy q a b x => [fmtX c 0x15 0 q.code a b x 0]
  | .cpySpl n b x => [fmtX c 0x15 1 n 0 b x 0]
  | .cpyg e a b x => [fmtX c 0x15 2 ((0 : BitVec 1) ++ e.code) a b x 0]
  | .seal a => [fmtX c 0x15 3 0 a 0 0 0]
  | .waitb a => [fmtX c 0x15 4 0 a 0 0 0]
  | .splcfg n a => [fmtX c 0x15 5 n a 0 0 0]
  | .splget n a => [fmtX c 0x15 6 n a 0 0 0]
  | .splrel n => [fmtX c 0x15 7 n 0 0 0 0]
  | .mmatS d acc a b da db kk => [fmtMM c d acc 0 a.isPad b.isPad a.num b.num true, fmtExt da db kk]
  | .mmatPair d acc a b da db kk => [fmtMM c d acc 1 a.isPad b.isPad a.num b.num true, fmtExt da db kk]
  | .mzero acc => [fmtMM c 0 acc 2 false false 0 0 false]
  | .mload acc a fs => [fmtMM c 0 acc 3 a.isPad false a.num 0 fs]
  | .mdrain f t acc d sc sp fs => [fmtMD c d acc f.code t.code sc sp fs]
  | .fwait a => [fmtFU c 0 0 a 0 0 0]
  | .ftest d a => [fmtFU c 1 d a 0 0 0]
  | .fcancel a => [fmtFU c 2 0 a 0 0 0]
  | .coll k r p d a => [fmtFU c 3 d a p.code k.code r.code]
  | .cseal d a => [fmtFU c 4 d a 0 0 0]
  | .copen d a => [fmtFU c 5 d a 0 0 0]
  | .sysr x sel => [fmtSY c 0 x 0 sel.code]
  | .sysw sel x => [fmtSY c 1 x 0 sel.code]
  | .rft => [fmtSY c 2 0 0 0]
  | .xread x a sel => [fmtSY c 3 x a sel.code]
  | .xwrite sel a x => [fmtSY c 4 x a sel.code]
  | .xresumePc a x => [fmtSY c 5 x a 0]
  | .xresumeEntry a => [fmtSY c 5 0 a 1]
  | _ => []
/-! ### A clause (R70 to R78, R113, R114) -/

/-- What the checks of a clause read of its skein: the trap skein (R42, R337), the accumulators allotted (R27), and
whether `MMAT.pair` is valid here (R221). -/
structure DecCtx where
  trap : Bool
  accs : Nat
  pairOk : Bool
  deriving DecidableEq, Repr

/-- A decoded word in its packet. -/
structure PWord where
  slot : Nat
  chain : Bool
  instr : Instr
  deriving DecidableEq, Repr

/-- The words call for a slot of their own after them (R86). -/
def takesLit (i : Instr) : Bool := (encode false i).length == 2

/-- The major opcode of a word (R68). -/
def major (i : Instr) : Nat := (fld ((encode false i).headD 0) 26 5).toNat

/-- Pipes (Table 3.5). -/
inductive Pipe where
  | scl | valu | vfma | trn | lane | cvt | mem | eng
  deriving DecidableEq, Repr

/-- The pipe of a word; `NOP`, `VDROP` and the header use none (R77, R89). -/
def pipe (i : Instr) : Option Pipe :=
  match i with
  | .nop | .vdrop _ _ _ _ | .clauseHeader _ _ _ _ _ => none
  | .fwait _ | .ftest _ _ | .fcancel _ => some .scl
  | _ =>
    match major i with
    | 0x00 | 0x01 | 0x02 | 0x03 | 0x0D | 0x19 => some .scl
    | 0x04 | 0x05 | 0x0C => some .valu
    | 0x06 | 0x07 | 0x08 => some .vfma
    | 0x09 => some .trn
    | 0x0A => some .lane
    | 0x0B => some .cvt
    | 0x0E | 0x0F | 0x10 | 0x11 | 0x12 | 0x13 | 0x14 | 0x15 => some .mem
    | 0x16 | 0x17 | 0x18 => some .eng
    | _ => none

/-- A range of registers that a word writes. -/
structure Dest where
  vec : Bool
  first : Nat
  count : Nat
  deriving DecidableEq, Repr

/-- One scalar. -/
def destS (s : SReg) : Dest := ⟨false, s.toNat, 1⟩
/-- `n` vector registers. -/
def destV (v : VReg) (n : Nat) : Dest := ⟨true, v.toNat, n⟩

/-- The registers that a word writes, by their encoded numbers (R78, R154). -/
def dests (i : Instr) : List Dest :=
  match i with
  | .call _ => [destS regLr]
  | .meld _ => [destS regPm]
  | .sput _ => []
  | .vcmp _ d _ _ | .vcmpu _ d _ _ | .vfcmp _ d _ _ => [destS d]
  | .ptst d _ => [destS d]
  | .vdadd d _ _ | .vdmul d _ _ | .vdfma d _ _ | .vcadd d _ _ | .vcmul d _ _ | .vcfma d _ _ | .vqdbx _ d _ =>
    [destV d 2]
  | .vred o d _ | .vscan o d _ => [destV d (if o == .addd then 2 else 1)]
  | .vcvt dst _ _ d _ => [destV d (if dst.width == 64 then 2 else 1)]
  | .vunpk _ src _ d _ => [destV d (32 / src.width)]
  | .ld z d _ _ _ | .ldSpec z d _ _ _ | .ldByp z d _ _ _ | .ldAcqCore z d _ _ _ | .ldAcqQuad z d _ _ _
  | .ldAcqDie z d _ _ _ | .ldAcqPkg z d _ _ _ | .ldAcqPod z d _ _ _ | .ldp z d _ _ _ | .ldpSpec z d _ _ _
  | .ldc z d _ _ _ => [destV d (if z == .d then 2 else 1)]
  | .atom _ w d _ _ _ | .atomp _ w d _ _ _ => [destV d (if w then 2 else 1)]
  | .ldtol _ d _ _ _ => [destV d 1]
  | .seal a | .splget _ a => [destS a]
  | .mmatS d _ _ _ _ _ _ | .mmatPair d _ _ _ _ _ _ => [destS d]
  | .mdrain f .regs _ d sc _ _ => if f.quant then [destV d f.regs, destV sc 1] else [destV d f.regs]
  | .ftest d _ | .coll _ _ _ d _ | .cseal d _ | .copen d _ => [destS d]
  | .sysr x _ => [destS x]
  | .xread x _ sel =>
    match sel with
    | .v _ | .oplog _ _ => [destV x 1]
    | _ => [destS x]
  | i =>
    let d := fld ((encode false i).headD 0) 20 6
    match major i with
    | 0x01 | 0x02 | 0x03 => [destS d]
    | 0x04 | 0x05 | 0x06 | 0x07 | 0x09 | 0x0A | 0x0B | 0x0C => [destV d 1]
    | _ => []

/-- Two ranges have a register in common. -/
def Dest.meets (a b : Dest) : Bool :=
  a.vec == b.vec && decide (a.first < b.first + b.count) && decide (b.first < a.first + a.count)

/-- The words that only the trap skein may execute (R42). -/
def privileged : Instr → Bool
  | .sysr _ _ | .sysw _ _ | .rft | .xread _ _ _ | .xwrite _ _ _ | .xresumePc _ _ | .xresumeEntry _ | .cseal _ _
  | .copen _ _ => true
  | _ => false

/-- The words that the trap skein may not execute (R337). -/
def needsPanel : Instr → Bool
  | .bar _ _ | .bara _ _ | .coll _ _ _ _ _ | .mmatS _ _ _ _ _ _ _ | .mmatPair _ _ _ _ _ _ _ | .mzero _ | .mload _ _ _
  | .mdrain _ _ _ _ _ _ _ | .cpySpl _ _ _ | .splcfg _ _ | .splget _ _ | .splrel _ => true
  | _ => false

/-- The accumulator that a word names (R27). -/
def accOf : Instr → Option Nat
  | .mmatS _ acc _ _ _ _ _ | .mmatPair _ acc _ _ _ _ _ | .mzero acc | .mload acc _ _ | .mdrain _ _ acc _ _ _ _ =>
    some acc.toNat
  | _ => none

/-- The twelve control words (R74). -/
def isControl : Instr → Bool
  | .bra _ | .bruZ _ _ | .bruNz _ _ | .bruNeg _ _ | .bruNneg _ _ | .bruv _ _ | .brs _ _ | .brzm _ _ | .call _ | .ret
  | .jmpi _ | .exit | .split _ | .regang _ | .rft => true
  | _ => false

/-- The word may stand in a clause of this skein (R27, R42, R113, R221, R337). -/
def DecCtx.allows (x : DecCtx) (i : Instr) : Bool :=
  (x.trap || !privileged i) && (!x.trap || !needsPanel i) &&
  (match accOf i with | some a => decide (a < x.accs) | none => true) &&
  (match i with | .mmatPair _ _ _ _ _ _ _ => x.pairOk | .clauseHeader _ _ _ _ _ => false | _ => true)

/-- The word calls for a literal or an extension word by its bits alone, whether or not an encoding assigns it a function
(R86, R111); a shift amount never does (R87). -/
def callsLit (w : Word) : Bool :=
  match (fld w 26 5).toNat with
  | 0x02 => fld w 0 10 == 0x200 && !decide (4 ≤ (fld w 10 4).toNat ∧ (fld w 10 4).toNat ≤ 6)
  | 0x05 => fld w 0 10 == 0x200 && !decide (5 ≤ (fld w 10 4).toNat ∧ (fld w 10 4).toNat ≤ 7)
  | 0x0E | 0x0F | 0x10 => bit w 0
  | 0x16 => bit w 0 && decide ((fld w 15 3).toNat < 2)
  | _ => false

/-- A slot of a packet that holds a word: its number, its chain bit, and its instruction, none where the word is refused. -/
structure PSlot where
  slot : Nat
  chain : Bool
  instr : Option Instr
  deriving DecidableEq, Repr

/-- What the word `w` in slot `k` decodes to, the slot after it being `l`; `last` says that it is slot 2, where no word may
call for a literal (R86).  DESIGN CHOICE: nonzero reserved bits of an extension word refuse the `MMAT` word that calls
for it, in the slot of that word; R86 does not say which of the two slots the trap reports (log 44). -/
def slotWord (k : Nat) (w l : Word) (last : Bool) : PSlot :=
  match decodeWord w l with
  | some (c, i) => ⟨k, c, if last && takesLit i then none else some i⟩
  | none => ⟨k, bit w 31, none⟩

/-- The words of a packet from slot `k` on; a literal slot is no word, whether or not the word before it is refused
(R86, R114). -/
def packetWords : Nat → List Word → List PSlot
  | _, [] => []
  | k, [w] => [slotWord k w 0 true]
  | k, w :: l :: rest =>
    slotWord k w l false :: if callsLit w then packetWords (k + 2) rest else packetWords (k + 1) (l :: rest)

/-- The word of a slot as it is issued. -/
def PSlot.word (p : PSlot) : Option PWord := p.instr.map fun i => ⟨p.slot, p.chain, i⟩

/-- The issue groups of a packet (R76). -/
def groups : List PWord → List (List PWord)
  | [] => []
  | w :: t =>
    match groups t with
    | g :: gs => if w.chain then (w :: g) :: gs else [w] :: g :: gs
    | [] => [[w]]

/-- The instructions chained after a word with chain bit `c` in its group, from the slots after it (R77).  DESIGN CHOICE: a
word that no encoding assigns has no pipe and no destination (log 44). -/
def chained : Bool → List PSlot → List Instr
  | false, _ | true, [] => []
  | true, p :: t => p.instr.toList ++ chained p.chain t

/-- Two words of one group collide in pipe or destination (R77, R78, R154). -/
def collide (a b : Instr) : Bool :=
  ((pipe a).isSome && pipe a == pipe b) || (dests a).any fun x => (dests b).any x.meets

/-- The slot of the first offending word of a packet (R113).  `last` says that it is the clause's last packet, `ctl`
that an earlier word of it is a control word (R74). -/
def firstBad (x : DecCtx) (last : Bool) : Bool → List PSlot → Option Nat
  | _, [] => none
  | ctl, p :: t =>
    match p.instr with
    | none => some p.slot
    | some i =>
      if !x.allows i || (isControl i && (!last || ctl)) || (p.chain && t.isEmpty) ||
          (chained p.chain t).any (collide i) then some p.slot
      else firstBad x last (ctl || isControl i) t

/-- The packet and slot of a clause's first offending word, its header apart (R113); `k` is the first packet's place in
the clause, and only there is slot 0 the header. -/
def clauseBad (x : DecCtx) : Nat → List (List Word) → Option (Nat × Nat)
  | _, [] => none
  | k, p :: ps =>
    match firstBad x ps.isEmpty false (if k = 0 then packetWords 1 p.tail else packetWords 0 p) with
    | some s => some (k, s)
    | none => clauseBad x (k + 1) ps

/-- A packet is a clause's first exactly when its slot 0 has C = 0 and MAJ = 0x1F (R72). -/
def isHeader (w : Word) : Bool := fld w 26 6 == 0x1F

/-- The packets of a clause by its header: `len` + 1 (R71). -/
def clauseLen (w : Word) : Nat := (fld w 2 4).toNat + 1

end Sys2Proof
end

