-- ==== Sys2Proof/Machine/Float.lean ====
section
/-! DEFINITION. Floating-point formats and their exact arithmetic: every result is computed without error and rounded
once (R45, R47 to R53). -/

namespace Sys2Proof.Machine

/-- Rounding modes (R47). -/
inductive Rm where
  | rne | rz | rup | rdn
  deriving DecidableEq, Repr

/-- The mode that the RM field names (Table 1.3). -/
def Rm.ofBits (b : BitVec 2) : Rm :=
  match b.toNat with
  | 0 => .rne
  | 1 => .rz
  | 2 => .rup
  | _ => .rdn

/-- The sticky flags NV DZ OF UF NX as bits 4 to 0 (R49, R211). -/
abbrev FpFlags := BitVec 5
def fNV : FpFlags := 16
def fDZ : FpFlags := 8
def fOF : FpFlags := 4
def fUF : FpFlags := 2
def fNX : FpFlags := 1

/-- How the top exponent code is used (Table 2.1). -/
inductive FmtKind where
  | ieee | e5m2 | e4m3 | e2m1
  deriving DecidableEq, Repr

/-- A format by its widths and bias (Table 2.1). -/
structure Fmt where
  kind : FmtKind
  ebits : Nat
  fbits : Nat
  bias : Nat
  deriving DecidableEq, Repr

def f64 : Fmt := ⟨.ieee, 11, 52, 1023⟩
def f32 : Fmt := ⟨.ieee, 8, 23, 127⟩
def f16 : Fmt := ⟨.ieee, 5, 10, 15⟩
def bf16 : Fmt := ⟨.ieee, 8, 7, 127⟩
def e5m2 : Fmt := ⟨.e5m2, 5, 2, 15⟩
def e4m3 : Fmt := ⟨.e4m3, 4, 3, 7⟩
def e2m1 : Fmt := ⟨.e2m1, 2, 1, 1⟩

/-- The sign bit's place. -/
def Fmt.signPos (f : Fmt) : Nat := f.ebits + f.fbits
/-- Exponent field of all ones. -/
def Fmt.eTop (f : Fmt) : Nat := 2 ^ f.ebits - 1
/-- The canonical NaN; E2M1 has none, and a NaN converts to +0 (R170, Table 2.1). -/
def Fmt.nan (f : Fmt) : Nat :=
  match f.kind with
  | .ieee | .e5m2 => f.eTop <<< f.fbits + 2 ^ (f.fbits - 1)
  | .e4m3 => 0x7F
  | .e2m1 => 0
/-- The largest finite value's bits. -/
def Fmt.maxBits (f : Fmt) : Nat :=
  match f.kind with
  | .ieee | .e5m2 => f.eTop <<< f.fbits - 1
  | .e4m3 => 0x7E
  | .e2m1 => 7
/-- Infinity's bits, where there is one. -/
def Fmt.infBits (f : Fmt) : Nat := f.eTop <<< f.fbits
/-- DAZ and FTZ act on binary32 and binary64 only (R52). -/
def Fmt.flushes (f : Fmt) : Bool := f == f32 || f == f64

/-- An exact number ±m × 2^e, an infinity, or a NaN with its signalling mark.  A zero is m = 0 with its sign. -/
inductive Num where
  | fin (neg : Bool) (m : Nat) (e : Int)
  | inf (neg : Bool)
  | nan (signalling : Bool)
  deriving DecidableEq, Repr

/-- The value of a pattern (R45). -/
def Fmt.decode (f : Fmt) (x : Nat) : Num :=
  let neg := bitsOf x f.signPos 1 == 1
  let e := bitsOf x f.fbits f.ebits
  let m := bitsOf x 0 f.fbits
  let fin := if e = 0 then Num.fin neg m (1 - (f.bias : Int) - f.fbits)
    else Num.fin neg (m + 2 ^ f.fbits) ((e : Int) - f.bias - f.fbits)
  match f.kind with
  | .ieee =>
    if e = f.eTop then (if m = 0 then .inf neg else .nan (m < 2 ^ (f.fbits - 1))) else fin
  | .e5m2 => if e = f.eTop then (if m = 0 then .inf neg else .nan false) else fin
  | .e4m3 => if e = f.eTop && m = 7 then .nan false else fin
  | .e2m1 => fin

/-- The pattern is subnormal. -/
def Fmt.subnormal (f : Fmt) (x : Nat) : Bool := bitsOf x f.fbits f.ebits == 0 && bitsOf x 0 f.fbits != 0

/-- The value of a pattern under DAZ (R52). -/
def Fmt.read (f : Fmt) (daz : Bool) (x : Nat) : Num :=
  if daz && f.flushes && f.subnormal x then .fin (bitsOf x f.signPos 1 == 1) 0 0 else f.decode x

/-- Drop the low `sh` bits of `m`, rounding; the second component says that bits were lost (R47). -/
def shiftRound (rm : Rm) (neg : Bool) (m sh : Nat) : Nat × Bool :=
  let d := m >>> sh
  let r := m % 2 ^ sh
  let up :=
    match rm with
    | .rne => decide (2 * r > 2 ^ sh) || (decide (2 * r = 2 ^ sh) && d % 2 == 1)
    | .rz => false
    | .rup => !neg && r != 0
    | .rdn => neg && r != 0
  (if up then d + 1 else d, r != 0)

/-- Round m × 2^e to a multiple of 2^q. -/
def roundAt (rm : Rm) (neg : Bool) (m : Nat) (e q : Int) : Nat × Bool :=
  if q ≤ e then (m <<< (e - q).toNat, false) else shiftRound rm neg m (q - e).toNat

/-- How a destination takes a result (R48, R52). -/
structure Round where
  fmt : Fmt
  rm : Rm
  ftz : Bool
  sat : Bool
  deriving DecidableEq, Repr

/-- A sign bit over the other bits. -/
def Fmt.signed (f : Fmt) (neg : Bool) (x : Nat) : Nat := if neg then x + 2 ^ f.signPos else x

/-- What overflow delivers (Table 2.3). -/
def Round.overflow (d : Round) (neg : Bool) : Nat :=
  let f := d.fmt
  match f.kind with
  | .e2m1 => f.signed neg f.maxBits
  | .e4m3 => if d.sat then f.signed neg f.maxBits else f.nan
  | .ieee | .e5m2 =>
    let toInf :=
      match d.rm with
      | .rne => true
      | .rz => false
      | .rup => !neg
      | .rdn => neg
    f.signed neg (if d.sat || !toInf then f.maxBits else f.infBits)

/-- Round ±m × 2^e once to the destination: the bits, and OF UF NX (R47 to R49, R52).  A nonzero value that the low bit of
`m` only stands for (a remainder) must carry at least three bits more than the format. -/
def Round.apply (d : Round) (neg : Bool) (m : Nat) (e : Int) : Nat × FpFlags :=
  let f := d.fmt
  if m = 0 then (f.signed neg 0, 0) else
  let top : Int := e + Nat.log2 m
  let emin : Int := 1 - (f.bias : Int)
  let free := roundAt d.rm neg m e (top - f.fbits)
  -- smaller than the smallest normal after rounding with an unbounded exponent
  let tiny := decide (top < emin) && decide ((free.1 : Int) < 2 ^ (emin - (top - f.fbits)).toNat)
  let q : Int := if top < emin then emin - f.fbits else top - f.fbits
  let r := roundAt d.rm neg m e q
  if tiny && d.ftz && f.flushes then (f.signed neg 0, fUF ||| fNX) else
  let bits : Nat :=
    if r.1 < 2 ^ f.fbits then r.1
    else ((q + f.fbits + f.bias).toNat <<< f.fbits) + (r.1 - 2 ^ f.fbits)
  if bits > f.maxBits then (d.overflow neg, fOF ||| fNX)
  else (f.signed neg bits, (if tiny && r.2 then fUF else 0) ||| (if r.2 then fNX else 0))

/-- The result of an operation before rounding. -/
inductive Exact where
  | num (n : Num)
  | invalid
  deriving DecidableEq, Repr

/-- Deliver an exact number to a destination; an infinity that E4M3 and E2M1 lack is R48's. -/
def Round.deliver (d : Round) (flags : FpFlags) : Num → Nat × FpFlags
  | .nan s => (d.fmt.nan, flags ||| (if s then fNV else 0) ||| (if d.fmt.kind == .e2m1 then fNV else 0))
  | .inf neg =>
    match d.fmt.kind with
    | .ieee | .e5m2 => (d.fmt.signed neg d.fmt.infBits, flags)
    | .e4m3 => if d.sat then (d.fmt.signed neg d.fmt.maxBits, flags ||| fNX) else (d.fmt.nan, flags ||| fNV)
    | .e2m1 => (d.fmt.signed neg d.fmt.maxBits, flags ||| fNX)
  | .fin neg m e => let r := d.apply neg m e; (r.1, flags ||| r.2)

/-- Deliver a NaN or an exact number. -/
def Round.deliverE (d : Round) : Exact → Nat × FpFlags
  | .num n => d.deliver 0 n
  | .invalid => (d.fmt.nan, fNV)

def Num.isNan : Num → Bool
  | .nan _ => true
  | _ => false
def Num.isSig : Num → Bool
  | .nan s => s
  | _ => false
def Num.isInf : Num → Bool
  | .inf _ => true
  | _ => false
def Num.neg : Num → Bool
  | .fin n _ _ => n
  | .inf n => n
  | .nan _ => false
def Num.negate : Num → Num
  | .fin n m e => .fin (!n) m e
  | .inf n => .inf (!n)
  | .nan s => .nan s
def Num.isZero : Num → Bool
  | .fin _ m _ => m == 0
  | _ => false

/-- NV for a signalling NaN among the sources (R49). -/
def sigFlag (ns : List Num) : FpFlags := if ns.any Num.isSig then fNV else 0

/-- An integer with a power of two as a number; `zneg` is the sign of zero. -/
def Num.ofInt (zneg : Bool) (i : Int) (e : Int) : Num :=
  if i = 0 then .fin zneg 0 e else .fin (decide (i < 0)) i.natAbs e

/-- The mantissa at a lower exponent. -/
def Num.mantAt (e : Int) : Num → Int
  | .fin n m x => let k : Int := (m <<< (x - e).toNat : Nat); if n then -k else k
  | _ => 0
def Num.exp : Num → Int
  | .fin _ _ e => e
  | _ => 0

/-- The exact sum of numbers that are not NaN (R50); none for ∞ − ∞. -/
def addNum (rm : Rm) (a b : Num) : Exact :=
  match a, b with
  | .inf x, .inf y => if x == y then .num (.inf x) else .invalid
  | .inf x, _ => .num (.inf x)
  | _, .inf y => .num (.inf y)
  | a, b =>
    let e := min a.exp b.exp
    let zneg := if a.isZero && b.isZero && a.neg == b.neg then a.neg else rm == .rdn
    .num (Num.ofInt zneg (a.mantAt e + b.mantAt e) e)

/-- The exact product of numbers that are not NaN; none for 0 × ∞. -/
def mulNum (a b : Num) : Exact :=
  let s := a.neg != b.neg
  match a, b with
  | .fin _ m e, .fin _ n g => .num (.fin s (m * n) (e + g))
  | a, b => if a.isZero || b.isZero then .invalid else .num (.inf s)

/-- a + b (R50). -/
def fpAdd (d : Round) (a b : Num) : Nat × FpFlags :=
  if a.isNan || b.isNan then (d.fmt.nan, sigFlag [a, b]) else d.deliverE (addNum d.rm a b)
/-- a − b. -/
def fpSub (d : Round) (a b : Num) : Nat × FpFlags := fpAdd d a b.negate
/-- a × b. -/
def fpMul (d : Round) (a b : Num) : Nat × FpFlags :=
  if a.isNan || b.isNan then (d.fmt.nan, sigFlag [a, b]) else d.deliverE (mulNum a b)

/-- The exact sum of products, rounded once: 0 × ∞, and ∞ − ∞ between products, set NV even beside a NaN addend (R49, R159,
R162). -/
def fpDot (d : Round) (ps : List (Num × Num)) (c : Option Num) : Nat × FpFlags :=
  let all := ps.flatMap (fun p => [p.1, p.2]) ++ c.toList
  let prods := ps.map fun p => if p.1.isNan || p.2.isNan then Exact.num (.nan false) else mulNum p.1 p.2
  let inf := fun (neg : Bool) => prods.any (· == .num (.inf neg))
  let bad := prods.any (· == .invalid) || (inf false && inf true)
  let flags := sigFlag all ||| (if bad then fNV else 0)
  if bad || all.any Num.isNan then (d.fmt.nan, flags) else
  let sum := (prods.filterMap (fun p => match p with | .num n => some n | .invalid => none) ++ c.toList).foldl
    (fun acc n =>
      match acc with
      | none => some (Exact.num n)
      | some (.num a) => some (addNum d.rm a n)
      | some .invalid => some .invalid) none
  match sum with
  | some x => let r := d.deliverE x; (r.1, flags ||| r.2)
  | none => (0, flags)

/-- Compare numbers that are not NaN: whether a < b, and whether a = b (−0 = +0). -/
def ltNum (a b : Num) : Bool :=
  match a, b with
  | .inf x, .inf y => x && !y
  | .inf x, _ => x
  | _, .inf y => !y
  | a, b => let e := min a.exp b.exp; decide (a.mantAt e < b.mantAt e)
def eqNum (a b : Num) : Bool :=
  match a, b with
  | .inf x, .inf y => x == y
  | .inf _, _ | _, .inf _ => false
  | a, b => let e := min a.exp b.exp; decide (a.mantAt e = b.mantAt e)

/-- minimumNumber and maximumNumber over patterns already under DAZ (R51): −0 is below +0. -/
def fpMin (f : Fmt) (x y : Nat) (a b : Num) : Nat × FpFlags :=
  let fl := sigFlag [a, b]
  match a.isNan, b.isNan with
  | true, true => (f.nan, fl)
  | true, false => (y, fl)
  | false, true => (x, fl)
  | false, false =>
    (if ltNum a b then x else if ltNum b a then y else if a.neg then x else y, fl)
def fpMax (f : Fmt) (x y : Nat) (a b : Num) : Nat × FpFlags :=
  let fl := sigFlag [a, b]
  match a.isNan, b.isNan with
  | true, true => (f.nan, fl)
  | true, false => (y, fl)
  | false, true => (x, fl)
  | false, false =>
    (if ltNum a b then y else if ltNum b a then x else if a.neg then y else x, fl)

/-- A pattern with DAZ applied (R51, R52). -/
def Fmt.dazBits (f : Fmt) (daz : Bool) (x : Nat) : Nat :=
  if daz && f.flushes && f.subnormal x then f.signed (bitsOf x f.signPos 1 == 1) 0 else x

/-- The largest r ≤ 2^k − 1 + r0 with r² ≤ n, bit by bit. -/
def isqrtFrom (n : Nat) : Nat → Nat → Nat
  | 0, r => r
  | k + 1, r => let s := r + 2 ^ k; isqrtFrom n k (if s * s ≤ n then s else r)
/-- The integer square root. -/
def isqrt (n : Nat) : Nat := isqrtFrom n (Nat.log2 n / 2 + 1) 0

/-- a / b, correctly rounded (R164): the quotient carries 64 bits more than asked, and its low bit the remainder. -/
def fpDiv (d : Round) (a b : Num) : Nat × FpFlags :=
  let s := a.neg != b.neg
  match a, b with
  | .nan _, _ | _, .nan _ => (d.fmt.nan, sigFlag [a, b])
  | .inf _, .inf _ => (d.fmt.nan, fNV)
  | .inf _, _ => (d.fmt.signed s d.fmt.infBits, 0)
  | _, .inf _ => (d.fmt.signed s 0, 0)
  | .fin _ m e, .fin _ n g =>
    if n = 0 then (if m = 0 then (d.fmt.nan, fNV) else (d.fmt.signed s d.fmt.infBits, fDZ))
    else
      let k := d.fmt.fbits + 64 + Nat.log2 n
      let q := (m <<< k) / n
      let r := (m <<< k) % n
      d.apply s (if r = 0 then 2 * q else 2 * q + 1) (e - g - k - 1)

/-- √a, correctly rounded (R164). -/
def fpSqrt (d : Round) (a : Num) : Nat × FpFlags :=
  match a with
  | .nan s => (d.fmt.nan, if s then fNV else 0)
  | .inf n => if n then (d.fmt.nan, fNV) else (d.fmt.infBits, 0)
  | .fin n m e =>
    if m = 0 then (d.fmt.signed n 0, 0)
    else if n then (d.fmt.nan, fNV)
    else
      let k : Nat := 2 * (d.fmt.fbits + 8) + (e % 2).toNat
      let x := m <<< k
      let r := isqrt x
      d.apply false (if r * r = x then 2 * r else 2 * r + 1) ((e - k) / 2 - 1)

/-- Round a number to an integral one (R157, R53): the integer and whether bits were lost. -/
def roundInt (rm : Rm) (neg : Bool) (m : Nat) (e : Int) : Nat × Bool := roundAt rm neg m e 0

/-- Convert to an integer of width `w`: saturate; NaN gives 0 (R53). -/
def toIntSat (rm : Rm) (signed : Bool) (w : Nat) : Num → Int × FpFlags
  | .nan _ => (0, fNV)
  | .inf n => (if n then (if signed then -(2 ^ (w - 1) : Int) else 0)
      else (if signed then 2 ^ (w - 1) - 1 else 2 ^ w - 1), fNV)
  | .fin n m e =>
    let r := roundInt rm n m e
    let i : Int := if n then -(r.1 : Int) else r.1
    let lo : Int := if signed then -(2 ^ (w - 1) : Int) else 0
    let hi : Int := if signed then 2 ^ (w - 1) - 1 else 2 ^ w - 1
    if i < lo then (lo, fNV) else if hi < i then (hi, fNV) else (i, if r.2 then fNX else 0)

/-- A dyadic number's ordering key for |x|: compare magnitudes. -/
def magLe (a b : Num) : Bool :=
  match a, b with
  | .fin _ m e, .fin _ n g => let k := min e g; decide (m <<< (e - k).toNat ≤ n <<< (g - k).toNat)
  | _, _ => true

end Sys2Proof.Machine
end

