-- ==== Sys2Proof/Config.lean ====
section
/-! DEFINITION. What the manual leaves open, as constants without a body: nothing in Lean can evaluate one of them
or prove a value of it, so a claim holds whatever they are.  Each is named in the assumption log. -/

namespace Sys2Proof.Config

/-- Which of the acts that the state enables comes next, where no rule orders them (R10; log 3). -/
opaque choice : Nat → Nat
/-- For how many steps a skein that may issue can be passed over where `choice` decides (R275; log 3). -/
opaque patience : Nat
/-- One free bit for a lane that may hold either of two values (R82, R85, R219; log 7). -/
opaque coin : Nat → Nat → Bool
/-- How many 2.4 GHz cycles a step takes on a die (Table 4.2 `cycles`; log 4). -/
opaque elapsed : Nat → Nat → Nat
/-- A byte that a transfer delivers where the manual fixes no value (log 11). -/
opaque freeByte : Nat → Nat → Byte
/-- The bytes of a per-context or world key, by context, world and creation number (R235, R350, R351; log 10). -/
opaque keyByte : Nat → Nat → Nat → Byte
/-- The byte of an SPDM response, a certificate chain or a signature (R360; log 10). -/
opaque evidenceByte : Nat → Nat → Byte
/-- The page frame the driver allocates for a page first touched (R303; log 2). -/
opaque freshFrame : Nat → Nat → BitVec 40
/-- Digests of firmware, fuses and configuration that the measurements are extended with (R361; log 10). -/
opaque digestByte : Nat → Nat → Byte
/-- The syndrome of an uncorrectable sector (R353; log 11). -/
opaque syndrome : Nat → BitVec 64

/-- Whether a pod barrier object, by context and address, is homed at a package, and whether a package takes part in a
collective, by context and tag (R364, R365; log 41). -/
opaque podObject : Nat → Nat → Nat → Bool
opaque podMember : Nat → Nat → Nat → Bool
/-- The size in bytes that the host has given the memory BAR (R355; log 50). -/
opaque memoryBar : Nat

/-- How many corrected errors of a row are too many, and how many spare rows a pseudo-channel has (R298; log 22). -/
opaque rowThreshold : Nat
opaque spareRows : Nat
/-- How many retired pseudo-channels a die's reserve capacity holds (R298; log 22). -/
opaque reserveUnits : Nat → Nat

end Sys2Proof.Config
end

