-- ==== Sys2Proof/Machine/Tab.lean ====
section
/-! DEFINITION. Sparse tables by number, in ascending order of the number, and byte memories in canonical form.
A table is a list of pairs; what an unlisted number holds is given where it is read. -/

namespace Sys2Proof.Machine

/-- A sparse table. -/
abbrev Tab (α : Type) := List (Nat × α)

namespace Tab

variable {α : Type}

/-- The entry at `k`, or none. -/
def find? (k : Nat) : Tab α → Option α
  | [] => none
  | (j, v) :: t => if k = j then some v else find? k t

/-- The entry at `k`, or `d` where none is listed. -/
def get (d : α) (t : Tab α) (k : Nat) : α := (find? k t).getD d

/-- Write the entry at `k`, keeping the order. -/
def put (k : Nat) (v : α) : Tab α → Tab α
  | [] => [(k, v)]
  | (j, w) :: t => if k < j then (k, v) :: (j, w) :: t else if k = j then (k, v) :: t else (j, w) :: put k v t

/-- Remove the entry at `k`. -/
def del (k : Nat) : Tab α → Tab α
  | [] => []
  | (j, w) :: t => if k = j then del k t else (j, w) :: del k t

/-- Write `v l` at `key l` for each `l` of a list, in order. -/
def putAll {β : Type} (key : β → Nat) (v : β → α) : List β → Tab α → Tab α
  | [], t => t
  | l :: ls, t => putAll key v ls (put (key l) (v l) t)

/-- Change the entry at `k`, which is `d` where none is listed. -/
def upd (d : α) (k : Nat) (f : α → α) (t : Tab α) : Tab α := put k (f (get d t k)) t

/-- The numbers listed. -/
def keys (t : Tab α) : List Nat := t.map Prod.fst

/-- The entries that a test accepts. -/
def sub (p : Nat → α → Bool) (t : Tab α) : Tab α := t.filter fun kv => p kv.1 kv.2

/-- Apply `f` to every entry. -/
def mapv (f : α → α) (t : Tab α) : Tab α := t.map fun kv => (kv.1, f kv.2)

end Tab

/-- Byte memory: pairs of address and byte, addresses strictly rising, no entry equal to what an unlisted address reads
as, so that equal memories are equal lists. -/
abbrev Memory := List Host.Cell

namespace Memory

/-- What an unlisted address reads as (log 1). -/
def unlisted : Byte := 0

/-- Read one byte. -/
def read (a : Nat) : Memory → Byte
  | [] => unlisted
  | (j, b) :: t => if a = j then b else read a t

/-- Write one byte, keeping the canonical form. -/
def write (a : Nat) (b : Byte) : Memory → Memory
  | [] => if b = unlisted then [] else [(a, b)]
  | (j, c) :: t =>
    if a < j then (if b = unlisted then (j, c) :: t else (a, b) :: (j, c) :: t)
    else if a = j then (if b = unlisted then t else (a, b) :: t)
    else (j, c) :: write a b t

/-- The canonical form, from a lower bound on. -/
def wfFrom : Nat → Memory → Bool
  | _, [] => true
  | lo, (j, c) :: t => decide (lo ≤ j) && c != unlisted && wfFrom (j + 1) t

/-- The canonical form. -/
def wf (m : Memory) : Bool := wfFrom 0 m

/-- `n` bytes from address `a` on. -/
def readN (m : Memory) (a : Nat) : Nat → List Byte
  | 0 => []
  | n + 1 => m.read a :: readN m (a + 1) n

/-- Write a list of bytes from address `a` on. -/
def writeN (a : Nat) : List Byte → Memory → Memory
  | [], m => m
  | b :: bs, m => writeN (a + 1) bs (m.write a b)

end Memory

/-- A list of bytes as a number, the first byte lowest (R3). -/
def leNat : List Byte → Nat
  | [] => 0
  | b :: bs => b.toNat + 256 * leNat bs

/-- `n` bytes of a number, the lowest first (R3). -/
def leBytes : Nat → Nat → List Byte
  | 0, _ => []
  | n + 1, x => BitVec.ofNat 8 x :: leBytes n (x / 256)

/-- `n` bytes of a number, the highest first. -/
def beBytes (n x : Nat) : List Byte := (leBytes n x).reverse

/-- A list of bytes as a number, the first byte highest. -/
def beNat (bs : List Byte) : Nat := leNat bs.reverse

/-- The numbers below `n`. -/
def upto (n : Nat) : List Nat := List.range n

/-- The first number below `n` that a test accepts. -/
def firstFree (n : Nat) (p : Nat → Bool) : Option Nat := (List.range n).find? p

end Sys2Proof.Machine
end

