-- ==== Sys2Proof/Machine/State.lean ====
section
/-! DEFINITION. Everything that the manual gives the machine, as plain data, and the machine right after power-on.
A table lists what differs from the value its reader gives for an unlisted number. -/

namespace Sys2Proof.Machine

/-! ### Registers and in-flight results of a skein -/

/-- One lane of a vector register: 32 bits and a poison bit (R15, R29). -/
structure Lane where
  val : Word
  poison : Bool
  deriving DecidableEq, Repr

/-- A scalar: 64 bits, a poison bit, and the operation it is pending on (R15, R19). -/
structure Scalar where
  val : Dword
  poison : Bool
  pend : Option Nat
  deriving DecidableEq, Repr

/-- What a fixed-latency word leaves to become visible (R79 to R81, R21, R34, R133): vector lanes (each at register
number × 32 + lane) with the cabinet slot of the result if it is tagged, a scalar likewise, sticky flags NV DZ OF UF NX
as bits 4 to 0, the status word, the pattern table, a dropped register. -/
inductive Effect where
  | vec (ws : List (Nat × Lane)) (tag : Option Nat)
  | scalar (r : Nat) (v : Scalar) (tag : Option Nat)
  | sticky (f : BitVec 5)
  | status (w : Dword)
  | pattern (isOpen : Bool) (a b : Dword)
  | drop (r : Nat)
  deriving DecidableEq, Repr

/-- An effect with the skein issue cycle it is visible from, and the issue cycle and slot of the word that issued it
(R78, R81). -/
structure Pending where
  vis : Nat
  at_ : Nat
  slot : Nat
  eff : Effect
  deriving DecidableEq, Repr

/-- Where a clause is broken off: packets remaining, setB, setA; all 0 where there is no record (R73, Table 4.7). -/
structure ClauseRec where
  left : BitVec 4
  setB : BitVec 4
  setA : BitVec 4
  deriving DecidableEq, Repr

/-- An outstanding sealed batch, or the open one (R23, R205, Table 7.9). -/
structure Batch where
  num : BitVec 32
  copies : Nat
  failed : Bool
  code : Byte
  addr : Dword
  dests : List (Nat × Nat)
  deriving DecidableEq, Repr

/-- An operand log entry (R24, Table 12.3), and the lanes of its destination at which a later write has won (R85). -/
structure LogEntry where
  valid : Bool
  cont : Bool
  write : Bool
  flag : BitVec 4
  code : Byte
  replays : Byte
  mask : BitVec 32
  pc : Pc
  slot : BitVec 2
  word : Word
  literal : Word
  sbase : Dword
  sx : Dword
  page : Dword
  pm : Word
  isOpen : Bool
  patA : Dword
  patB : Dword
  voff : Tab Word
  data0 : Tab Word
  data1 : Tab Word
  instr : Instr
  order : Nat
  lines : List Nat
  lost : List Nat
  deriving DecidableEq, Repr

/-- What a gang waits on while its next group is not issued (R71, R76). -/
inductive Wait where
  | flags (mask : BitVec 12)
  | future (s : SReg)
  | flagFull (f : Nat)
  | logFull
  | logLine
  | earlier
  | queueFull
  | batch
  | spool (n : Nat)
  | barrier
  | monitor (pad : Option Nat) (line : Nat)
  | regang
  | atomicLine
  | haltreq
  deriving DecidableEq, Repr

/-- The control transfer that takes effect at the end of the packet (R74, R122). -/
inductive Ctl where
  | move (t : Pc)
  | part (taken : BitVec 8) (t : Pc)
  | exit
  | regang (mask : BitVec 8)
  | endTrap
  deriving DecidableEq, Repr

/-- How far a gang has come with its clause (R70, R71), and the continuation of a clause of which `n` packets remain
(R73). -/
inductive Phase where
  | empty | fetched | running
  | resume (n : BitVec 4)
  deriving DecidableEq, Repr

/-- A gang's place in its clause: the fetched packets from the current one on, the flags of the clause, the next slot of
the current packet, what the end of the packet does, and what the gang waits on; `stop` holds it for the debugger, and
`passed` says that its present packet has reported its breakpoint (R346). -/
structure Cursor where
  phase : Phase
  packets : List (List Word)
  setA : BitVec 4
  setB : BitVec 4
  first : Bool
  slot : Nat
  gapDone : Bool
  ctl : Option Ctl
  region : Bool
  arrivedAt : Option (Pc × BitVec 8)
  wait : Option Wait
  woken : Bool
  stop : Bool
  passed : Bool
  deriving DecidableEq, Repr

/-- A skein (R15 to R26).  `bar` is the packet and slot of a `BAR` that has arrived or is on its way, and the phase it
recorded (R200, R201); `exitSlot` is the slot of the last `EXIT` (R205); `waited` counts the cycles of its partition for
which it has been ready without being chosen (R323); `servedAt` is the step of each gang's last issue step,
the model's own (log 3). -/
structure Skein where
  core : Nat
  slot : Nat
  panel : Nat
  idx : Nat
  v : Tab Lane
  s : Tab Scalar
  f : Tab Nat
  pc : Tab Pc
  gangmap : BitVec 24
  exited : BitVec 8
  status : Dword
  regionPc : Pc
  regionCount : BitVec 32
  regionRec : ClauseRec
  stopRec : ClauseRec
  meldOpen : Bool
  patA : Dword
  patB : Dword
  accession : Tab Dword
  openBatch : Batch
  batches : List Batch
  oplog : Tab LogEntry
  cycle : Nat
  pending : List Pending
  gangs : Tab Cursor
  halted : Bool
  haltReq : Bool
  stopped : Bool
  dbgHold : Bool
  yielded : Bool
  trapped : Bool
  exiting : Bool
  retired : Nat
  monitor : Option Nat
  bar : Option (Pc × Nat × Option (BitVec 24))
  vtag : Tab Nat
  stag : Tab Nat
  lastGang : Nat
  exitSlot : Nat
  waited : Nat
  servedAt : Tab Nat
  deriving DecidableEq, Repr

/-! ### Panels and launches -/

/-- An accumulator: 64 x 64 elements by row × 64 + column as bits, their poison bits, Q and the band cursor (R211). -/
structure Acc where
  elem : Tab Lane
  q : BitVec 5
  band : BitVec 3
  deriving DecidableEq, Repr

/-- A spool (R27, R207 to R209): the claims in order, each with its slot and whether its copy has completed. -/
structure Spool where
  base : Nat
  size : Nat
  count : Nat
  free : Nat
  filled : Nat
  nextClaim : Nat
  nextTake : Nat
  held : List Nat
  claims : List (Nat × Bool)
  deriving DecidableEq, Repr

/-- Where a panel stands in its life (R126, R317, R340, R343). -/
inductive PanelLife where
  | resident | saving | saved | restoring | ended
  deriving DecidableEq, Repr

/-- What a sealed kind-1 image stands for besides the state that Table 7.9 lays out (log 23): the operations behind its
pending scalars, a `BAR` that has arrived, a wait in `WAITM`, a failure of the open batch, the slot of the last `EXIT`, and
the order of its operand log entries. -/
structure SavedSkein where
  pend : Tab Nat
  bar : Option (Pc × Nat × Option (BitVec 24))
  monitor : Bool
  openFailed : Bool
  exitSlot : Nat
  orders : List Nat
  deriving DecidableEq, Repr

/-- A panel (R11, R27, R317).  `skeinsLeft` are the skeins that have not ended, `savedLeft` those of its save, `units` the
4 KiB units allotted to it (R280, R281), `lastSlots` the slot that it last issued from in each partition (R323). -/
structure Panel where
  launch : Nat
  core : Nat
  x : Nat
  y : Nat
  z : Nat
  index : Nat
  order : Nat
  logical : Nat
  slots : List Nat
  accBase : List Nat
  scratchUnits : Nat
  scratch : Memory
  accs : Tab Acc
  lent : Acc
  lentOn : Option Nat
  spools : Tab Spool
  life : PanelLife
  skeinsLeft : List Nat
  savedLeft : List Nat
  seg : Nat
  image : Nat
  imageSize : Nat
  group : Nat
  reserved : Bool
  units : List Nat
  lastSlots : Tab Nat
  deriving DecidableEq, Repr

/-- A bounded-value region (Table 11.3). -/
structure Region where
  base : Nat
  size : Nat
  ease : Word
  mode : Nat
  deriving DecidableEq, Repr

/-- The fields of a launch parameter block (Tables 11.1, 11.2). -/
structure Block where
  version : Nat
  flags : BitVec 16
  context : Nat
  code : Nat
  gx : Nat
  gy : Nat
  gz : Nat
  skeins : Nat
  scratch : Nat
  acc : Nat
  traversal : Nat
  swizzle : Nat
  qexp : Nat
  dcores : Nat
  world : Nat
  priority : Nat
  bcount : Nat
  seed : Dword
  ctrbase : Dword
  cbank : Nat
  cbsize : Nat
  deadline : Nat
  watchdog : Nat
  btable : Nat
  deps : List Nat
  digests : List (Nat × Nat)
  reserved : Bool
  deriving DecidableEq, Repr

/-- Where a launch stands (R307, R308, R326). -/
inductive LaunchLife where
  | waiting | running | closing | recording | ended
  deriving DecidableEq, Repr

/-- Status of a launch (Table 11.5). -/
inductive LaunchStatus where
  | ok | refused | depfail | watchdog | reset | aborted
  deriving DecidableEq, Repr

/-- A launch after acceptance (R307 to R328). -/
structure Launch where
  queue : Nat
  block : Block
  regions : List Region
  life : LaunchLife
  status : LaunchStatus
  digfail : Bool
  codeSize : Nat
  trapSize : Nat
  trapbase : Option Pc
  placed : Nat
  grant : List Nat
  quantum : Nat
  count : Nat
  victims : List Nat
  outDigest : List Byte
  codeDigest : List Byte
  attached : Bool
  deriving DecidableEq, Repr

/-- State of a context (Table 18.2). -/
inductive CtxLife where
  | running | saving | saved | restoring
  deriving DecidableEq, Repr

/-- A context (R350). -/
structure Context where
  root : Nat
  world : Nat
  mask : BitVec 16
  ways : Nat
  plan : Nat
  image : Nat
  imageSize : Nat
  keySlot : Option Nat
  creation : Nat
  counter : BitVec 32
  life : CtxLife
  quarantined : Bool
  tierOne : Bool
  collWait : Bool
  trapsQueued : Bool
  deriving DecidableEq, Repr

/-! ### Cores -/

/-- A trap queued on a core (R143, R330, R340, R343). -/
structure TrapRec where
  panel : Nat
  skein : Nat
  cause : Dword
  pc : BitVec 55
  addr : Dword
  names : Bool
  deriving DecidableEq, Repr

/-- An L1 line (R283): its valid 64-byte sectors, its bytes, when it was last used, and the lent unit whose way it takes
(R280, R281). -/
structure L1Line where
  valid : BitVec 4
  data : Tab Byte
  stamp : Nat
  way : Nat
  deriving DecidableEq, Repr

/-- A store-combining entry (R285): a sector and the bytes written to it. -/
structure ScbEntry where
  sector : Nat
  bytes : Tab Byte
  skeins : List Nat
  deriving DecidableEq, Repr

/-- A sector held withheld (Table 10.5), the launch it is held for, and the virtual pages that its sums were translated under
(R302). -/
structure Withheld where
  sums : Tab Word
  mag : Word
  share : Word
  draining : Bool
  launch : Nat
  pages : List Nat
  deriving DecidableEq, Repr

/-- A cabinet key (R36): the operation with the mode it ran in, the source slots, the immediate, the launch slot; and for a
scratchpad load the panel that it reads, since a bind must not be seen (R33; log 48). -/
structure Key where
  op : Nat
  srcs : List Nat
  imm : Word
  launchSlot : Nat
  pad : Option Nat
  deriving DecidableEq, Repr

/-- A cabinet entry (R35 to R40, R370): its key, the word that made it, the lanes that a load-rooted entry binds to, the
sticky flags, the recorded lines or granules, the same as addresses of the program, and the step of its last bind or creation
(R324). -/
structure CabEntry where
  key : Key
  word : Instr
  vec : List Word
  sticky : BitVec 5
  lines : List Nat
  shown : List Nat
  loadRooted : Bool
  last : Nat
  deriving DecidableEq, Repr

/-- A translation held by a core or a quad (R301), with what every entry of its walk permits (R300): read, write, fetch. -/
structure TlbEntry where
  ctx : Nat
  page : Nat
  pte : BitVec 64
  frame : Nat
  r : Bool
  w : Bool
  x : Bool
  deriving DecidableEq, Repr

/-- A core (R280 to R286, R316, R345, R348).  `icache` are the sectors of code as they were last fetched, which a later fetch
may see again (R75). -/
structure Core where
  world : Nat
  slots : List (Option Nat)
  trapQ : List TrapRec
  serving : Option TrapRec
  trapDead : Bool
  cause : Dword
  trapPc : BitVec 55
  trapAddr : Dword
  tscratch : Tab Dword
  brk : Tab Dword
  debugReg : Dword
  l1 : Tab L1Line
  icache : Tab (List Byte)
  scb : List ScbEntry
  withheld : Tab Withheld
  cabinet : Tab CabEntry
  queue : List Nat
  tlb : List TlbEntry
  stamp : Nat
  unused : Bool
  deriving DecidableEq, Repr

/-! ### Operations in flight -/

/-- One lane of an atomic (R189): lane, address, operand, swap operand, the keys its old value goes to. -/
structure AtomLane where
  lane : Nat
  addr : Nat
  x : Dword
  x2 : Dword
  lo : Nat
  hi : Option Nat
  deriving DecidableEq, Repr

/-- A pointer to a barrier object or a watched word (R198): scratchpad of a panel, a physical address, or
an address that is translated when it is used. -/
inductive Ptr where
  | pad (panel off : Nat)
  | phys (pa : Nat)
  | virt (va : Nat)
  deriving DecidableEq, Repr

/-- An update of a barrier object (R199, R200). -/
inductive ObjUpd where
  | init (expected : BitVec 32)
  | arrive
  | arriveWait
  | expect (n : BitVec 32)
  | subtract (n : BitVec 32)
  deriving DecidableEq, Repr

/-- One end of a copy (R203). -/
inductive CopyEnd where
  | glob (va : Nat)
  | pad (off : Nat)
  deriving DecidableEq, Repr

/-- A matrix operand as read at issue (R214 to R216): its descriptor, then the stream of register bytes with a poison mark
for each, or the two scalars of a scratchpad operand. -/
structure MatOp where
  desc : Dword
  pad : Bool
  first : Dword
  second : Dword
  stream : List (Byte × Bool)
  regs : Nat
  deriving DecidableEq, Repr

/-- A matrix product in the queue (R218 to R221). -/
structure Mmat where
  panel : Nat
  acc : Nat
  pair : Bool
  a : MatOp
  b : MatOp
  k : Nat
  begun : Bool
  steps : Nat
  qread : BitVec 5
  cancel : Bool
  stop : Bool
  deriving DecidableEq, Repr

/-- A collective (R231 to R233).  `out` is what it has come to for a participant in deterministic mode, until a commit
delivers it: its status and the bytes to write (R276, R278). -/
structure CollReq where
  kind : CollKind
  rop : CollOp
  scope : CollScope
  send : Nat
  recv : Nat
  count : Nat
  part : Nat
  n : Nat
  tag : Nat
  round : Nat
  bad : Bool
  out : Option (Dword × List (Nat × Byte))
  deriving DecidableEq, Repr

/-- A seal engine operation (R234 to R237). -/
structure SealReq where
  kind : Nat
  skein : Nat
  image : Nat
  off : Nat
  len : Nat
  ctx : Nat
  seg : Nat
  bad : Bool
  panel : Nat
  deriving DecidableEq, Repr

/-- A lane of a `REDBV` (R291): its lane, element address with the virtual page it was translated under (R302), addend, the
ease of its region, whether the region is passed through, and whether the addition has been sent to the home. -/
structure BAdd where
  lane : Nat
  pa : Nat
  page : Nat
  a : Word
  ease : Word
  pass : Bool
  sent : Bool
  deriving DecidableEq, Repr

/-- A lane of a load that has not been read: its lane, where it reads, whether at the home, and the registers that take
the value, each from a bit of it on (R16, R185). -/
structure LoadLane where
  lane : Nat
  pa : Nat
  home : Bool
  keys : List (Nat × Nat)
  deriving DecidableEq, Repr

/-- A load in flight (R185, R267): its space as the panel of a scratchpad or none, its size in bytes, the scope of its
acquire, the lanes not yet read, and the cabinet slot of its result. -/
structure LoadReq where
  pad : Option Nat
  size : Nat
  acq : Option Scope
  todo : List LoadLane
  got : List (Nat × Lane)
  tag : Option Nat
  deriving DecidableEq, Repr

/-- What an operation in flight does when its event comes. -/
inductive OpKind where
  /-- a load whose lanes may still be read (R185, R267; log 5) -/
  | load (r : LoadReq)
  /-- a transcendental or a load, its result fixed (R84, R163, R278) -/
  | result (load : Bool) (writes : List (Nat × Lane)) (sticky : BitVec 5) (tag : Option Nat)
  /-- a store accepted at issue (R188, Table 3.3) -/
  | store
  /-- global writes staged in a quantum, byte by byte (R277) -/
  | write (bytes : List (Nat × Byte))
  /-- an atomic (R189): its operation, width, whether it returns old values, and the panel whose scratchpad it acts on -/
  | atomic (op : AtomOp) (wide red : Bool) (pad : Option Nat) (lanes : List AtomLane)
  /-- a `REDBV`, by its lanes that are not yet accepted (R291) -/
  | redbv (adds : List BAdd)
  /-- an `LDTOL` (R294): tolerance, the register lanes that it writes, and the values that have come -/
  | ldtol (eps : Word) (keys : List Nat) (got : List (Nat × Lane))
  /-- a walker operation (R195) -/
  | walker (inv mem : Bool) (base len : Nat) (obj : Option Ptr) (ctx : Nat)
  /-- a barrier-object update (R199, R200), with the pointer as the word gave it -/
  | barrier (upd : ObjUpd) (p : Ptr) (scope : Scope) (va : Dword)
  /-- a copy (R203, R205, R208): what is left of it, its whole length, its object, its batch, its spool and claim, the page
  it has asked for, and a refusal of that page -/
  | copy (dst src : CopyEnd) (len full : Nat) (obj : Option Ptr) (batch : BitVec 32) (spool : Option (Nat × Nat))
      (asked : Option Nat) (refused : Bool)
  /-- a gather (R204): source and destination of each lane that is left -/
  | gather (size : Nat) (lanes : List (Nat × Nat)) (batch : BitVec 32) (asked : Option Nat) (refused : Bool)
  | mmat (m : Mmat)
  | mzero (panel acc : Nat)
  | mload (panel acc : Nat) (regs : Option (List Lane)) (base pitch : Nat)
  | mdrain (panel acc : Nat) (f : DrainFmt) (t : DrainTgt) (dst sc pitch : Nat) (keys : List Nat) (scKeys : List Nat)
      (got : List (Nat × Lane))
  | coll (c : CollReq)
  | cseal (r : SealReq)
  | copen (r : SealReq)
  deriving DecidableEq, Repr

/-- An operation in flight, with the packet, slot and word that issued it, the operand log entry that it replays (R335),
the lanes of its destination at which a later write has won (R85), and where it is staged the virtual pages that it was
translated under (R302). -/
structure Op where
  core : Nat
  sk : Nat
  panel : Nat
  launch : Nat
  flag : Option Nat
  kind : OpKind
  started : Bool
  staged : Bool
  place : Pc × Nat × Word
  entry : Option Nat
  lost : List Nat
  pages : List Nat
  deriving DecidableEq, Repr

/-- What a message of the bounded protocol says (R290 to R294). -/
inductive BKind where
  | request (ease : Word)
  | grant (share : Word)
  | refuse
  | baste
  | basteAck
  | drain (sums : List (Nat × Word)) (ends : Bool) (carry : Option (Nat × Nat))
  | drainAck
  | pass (elem : Nat) (a : Word) (op lane : Nat)
  | ldtol (op elem key : Nat)
  | unpick
  | answer (sums : List (Nat × Word))
  deriving DecidableEq, Repr

/-- A message between a core and the home of a bounded sector, with the launch it is sent for. -/
structure BMsg where
  sector : Nat
  core : Nat
  launch : Nat
  kind : BKind
  deriving DecidableEq, Repr

/-- The home's record of a bounded sector (R292, R294): holders with their shares, the remainder U, the ease, a baste in
progress as victim, asking core and its launch, an `LDTOL` in progress as operation, element and key, and the holders
whose answers it waits for. -/
structure HomeSector where
  holders : List (Nat × Word)
  rest : Word
  ease : Word
  basted : Option (Nat × Nat × Nat)
  asked : Option (Nat × Nat × Nat)
  waiting : List Nat
  deriving DecidableEq, Repr

/-! ### Memory below the cores -/

/-- An L2 sector at its home (Table 10.4, R297). -/
structure L2Sector where
  dirty : Bool
  poisoned : Bool
  data : List Byte
  deriving DecidableEq, Repr

/-- A write on its way to a die that the home's directory names (R268, R288). -/
structure GuestUpd where
  id : Nat
  die : Nat
  sector : Nat
  data : List Byte
  clock : List Nat
  deriving DecidableEq, Repr

/-- The memory system (R263, R268, R287 to R298, R305, R306). `dirs` are the guest copies that the homes' directories name
(R288), `sealed` the world under whose tag a sector stands and `reserved` the ways that each world has (R289, R351), `corrected`
counts a row's corrected errors, `reserve` the retirements that a die's reserve capacity has taken, `frames` the pages that the
driver has placed. -/
structure MemSys where
  hbm : Memory
  foyer : Memory
  host : Memory
  l2 : Tab L2Sector
  guest : Tab (List Byte)
  dirs : List Nat
  sealed : Tab Nat
  reserved : Tab Nat
  updates : List GuestUpd
  clocks : Tab Nat
  bad : List Nat
  homes : Tab HomeSector
  msgs : Tab BMsg
  corrected : Tab Nat
  spared : List Nat
  retired : List Nat
  failedPc : List Nat
  reserve : Tab Nat
  frames : Nat
  deriving DecidableEq, Repr

/-- A walk in progress (R301). -/
structure Walk where
  core : Nat
  ctx : Nat
  page : Nat
  deriving DecidableEq, Repr

/-! ### The host side -/

/-- A ring (R356). -/
structure Ring where
  base : Nat
  log2 : Nat
  head : BitVec 32
  tail : BitVec 32
  deriving DecidableEq, Repr

/-- A queue block (R357). -/
structure Queue where
  launch : Ring
  prov : Ring
  priority : Nat
  enable : Bool
  stopped : Bool
  lastServed : Nat
  deriving DecidableEq, Repr

/-- A migration engine block (Table 13.6). -/
structure MigEngine where
  va : Nat
  ctx : Nat
  hostpa : Nat
  dir : Nat
  size : Nat
  status : Nat
  deriving DecidableEq, Repr

/-- One MSI-X table entry (R358). -/
structure MsiEntry where
  addr : Nat
  data : Nat
  masked : Bool
  pending : Bool
  deriving DecidableEq, Repr

/-- A record that waits in the device for room in its ring, or for the quarantine to lift (R353, R357, R367). -/
structure HeldRecord where
  bytes : List Byte
  ctx : Option Nat
  deriving DecidableEq, Repr

/-- The host interface (R353 to R362, R367, R368, R378).  `readBack` is what the last read by the host or a peer returned, `moves`
what the migration engines are moving (R359). -/
structure HostIf where
  status : BitVec 64
  errRing : Ring
  faultRing : Ring
  overflow : BitVec 64
  errseq : BitVec 64
  queues : Tab Queue
  nextSeq : Nat
  heldErr : List HeldRecord
  heldFault : List HeldRecord
  heldProv : List (Nat × HeldRecord)
  mig : Tab MigEngine
  mailCmd : BitVec 64
  mailResp : BitVec 64
  msix : Tab MsiEntry
  sent : List (Nat × Nat)
  linkUp : Bool
  spdm : Bool
  ide : Bool
  ideKeys : List Nat
  kexDone : Bool
  coSignDue : Bool
  doe : List Byte
  meas : Tab (List Byte)
  creations : Nat
  keySlots : List Nat
  deadDies : BitVec 4
  readBack : List Byte
  moves : Tab MigEngine
  deriving DecidableEq, Repr

/-- A stitch link (R363). -/
structure Link where
  lanes : Nat
  trained : Bool
  authed : Bool
  keyed : Bool
  down : Bool
  deriving DecidableEq, Repr

/-- The fabric (R363 to R366, R368): links, node id, heartbeats sent on each link, packages lost, messages taken from each
package, send buffers that have come, spare cores. -/
structure Fabric where
  links : Tab Link
  node : Nat
  beats : Tab Nat
  lost : List Nat
  podSeq : Tab Nat
  podColl : List (Nat × Nat × List Byte)
  spares : Tab Nat
  deriving DecidableEq, Repr

/-- An opened container (R255 to R257). -/
structure Container where
  name : String
  code : List Word
  trap : List Word
  const : List Byte
  data : List Byte
  meta_ : List Nat
  symbols : List (String × Nat × Nat × Nat)
  deriving DecidableEq, Repr

/-- A breakpoint that the vitrine has set (R381). -/
structure BreakSet where
  num : Nat
  pc : Pc
  core : Option Nat
  deriving DecidableEq, Repr

/-- The vitrine (R259 to R262): the files at hand, what it has opened and read, the skein it has selected, its breakpoints,
what it has printed, its launch (0 before acceptance), the gang that `step` lets issue, and where the code was placed. -/
structure Vitrine where
  files : List (String × List Byte)
  opened : Option Container
  block : Option (List Byte)
  sel : Nat
  breaks : List BreakSet
  out : List String
  launched : Option Nat
  stepping : Option Nat
  codeBase : Nat
  deriving DecidableEq, Repr

/-! ### The whole machine -/

/-- What a word's issue came to, as the step reads it: done, held by a wait, ended by a precise trap, or ended by a
FAULT after issue (R115, R182, R329). -/
inductive Sig where
  | done
  | held (w : Wait)
  | trapped
  | faulted
  deriving DecidableEq, Repr

/-- Code that the driver has placed (R257, R327, R377): the address of its first byte, the bytes of its code section and of
its trap section. -/
structure Image where
  base : Nat
  code : List Byte
  trap : List Byte
  deriving DecidableEq, Repr

/-- An act of the machine: the next issue step of a gang; a row of the table that is an event, brought from outside; and what
the machine does of itself: the `n`th move of an operation in flight, of a skein, of a core, of a launch or of a context,
the arrival of a bounded-protocol message, a walk's end, a guest update, an eviction from L2, an acceptance, a migration's
end; and what comes from outside with no row of the table: a host read of 8 bytes of the control BAR (R355), code that the driver
has placed (R257, R377), the node id that the fabric manager gives (R364), an event of a die link (R353). -/
inductive Act where
  | issue (core slot gang : Nat)
  | event (i : Instr)
  | op (id n : Nat)
  | skein (k n : Nat)
  | core (c n : Nat)
  | launch (seq n : Nat)
  | context (ctx n : Nat)
  | message (id : Nat)
  | walk (id : Nat)
  | guest (die id : Nat)
  | evict (die sector : Nat)
  | accept (q : Nat)
  | migrated (engine : Nat)
  | hostRead (off : Nat)
  | driver (i : Image)
  | nodeId (n : Nat)
  | dieLink (link : Nat) (lane : Bool)
  deriving DecidableEq, Repr

/-- The machine. `quadTlbs` are the translations that back the cores of a quad (R301), `images` the code that the driver has
placed; `groupId` is the first name that the issuing group gives to an operation (R78). `savedOps` and `savedSkeins` are what a
stopped operation's record and a kind-1 payload of an image stand for, by the name that each sealing gives (Table 7.8; log 23);
`collBad` the collectives that have failed for every participant, by context, tag and round, with the number of participants
still to come (R233). `sched`, `curCore`, `curSlot`, `curGang`, `sig`, `tick`, `nextId` and `groupId` are the model's own (log
3). -/
structure State where
  sched : List Act
  curCore : Nat
  curSlot : Nat
  curGang : Nat
  sig : Sig
  tick : Nat
  nextId : Nat
  groupId : Nat
  skeins : Tab Skein
  panels : Tab Panel
  launches : Tab Launch
  contexts : Tab Context
  cores : Tab Core
  ops : Tab Op
  mem : MemSys
  walks : Tab Walk
  quadTlbs : Tab (List TlbEntry)
  images : List Image
  cycles : Tab Nat
  host : HostIf
  fabric : Fabric
  vit : Vitrine
  collRounds : Tab Nat
  collBad : List (Nat × Nat × Nat × Nat)
  savedOps : Tab Op
  savedSkeins : Tab SavedSkein
  deriving DecidableEq, Repr

/-- Why the machine stops.  No run from reset raises one: each guards a state that no run reaches, so it is safe. -/
inductive Fault where
  /-- Raised by `step` where the fetched words hold no instruction at the next slot, which the checks of the clause
  rule out (R113).  Safe. -/
  | noWord
  deriving DecidableEq, Repr

/-- Why the model gives an instruction no meaning. -/
inductive Refusal where
  /-- Raised by an arm of `exec` for an instruction that the model does not cover, named as the opcode table names it.
  Safe: no claim is made of the instruction. -/
  | notModelled (mnemonic : String)
  deriving DecidableEq, Repr

/-! ### Values at start and at reset -/

def Lane.zero : Lane := ⟨0, false⟩
def Scalar.zero : Scalar := ⟨0, false, none⟩
def ClauseRec.empty : ClauseRec := ⟨0, 0, 0⟩
def Batch.new (n : BitVec 32) : Batch := ⟨n, 0, false, 0, 0, []⟩
def Cursor.empty : Cursor :=
  ⟨.empty, [], 0xF, 0xF, false, 0, false, none, false, none, none, false, false, false⟩

/-- A skein at its start: Table 1.2, R14, R22, R23, R24. -/
def Skein.start (core slot panel idx : Nat) (entry : Pc) : Skein where
  core := core
  slot := slot
  panel := panel
  idx := idx
  v := []
  s := [(60, ⟨0xFFFFFFFF, false, none⟩)]
  f := []
  pc := [(0, entry), (1, entry), (2, entry), (3, entry), (4, entry), (5, entry), (6, entry), (7, entry)]
  gangmap := 0
  exited := 0
  status := 0
  regionPc := entry
  regionCount := 0
  regionRec := .empty
  stopRec := .empty
  meldOpen := false
  patA := 0
  patB := 0
  accession := []
  openBatch := .new 1
  batches := []
  oplog := []
  cycle := 0
  pending := []
  gangs := []
  halted := false
  haltReq := false
  stopped := false
  dbgHold := false
  yielded := false
  trapped := false
  exiting := false
  retired := 0
  monitor := none
  bar := none
  vtag := []
  stag := []
  lastGang := 0
  exitSlot := 0
  waited := 0
  servedAt := []

/-- The skein that a reader finds where none is listed. -/
def Skein.none_ : Skein := Skein.start 0 0 0 0 0

def Acc.zero : Acc := ⟨[], 0, 0⟩
def Spool.unconfigured : Spool := ⟨0, 0, 0, 0, 0, 0, 0, [], []⟩

def Block.zero : Block :=
  ⟨0, 0, 0, 0, 0, 0, 0, 0, 0, 0, 0, 0, 0, 0, 0, 0, 0, 0, 0, 0, 0, 0, 0, 0, [], [], false⟩

def Launch.none_ : Launch :=
  ⟨0, .zero, [], .ended, .ok, false, 0, 0, none, 0, [], 0, 0, [], [], [], false⟩

def Panel.none_ : Panel :=
  ⟨0, 0, 0, 0, 0, 0, 0, 0, [], [], 0, [], [], .zero, none, [], .ended, [], [], 0, 0, 0, 0, false, [], []⟩

def Context.none_ : Context := ⟨0, 0, 0, 0, 0, 0, 0, none, 0, 0, .running, false, false, false, false⟩

/-- A core as bring-up and a latch change leave it (R348), latched to `world`. -/
def Core.cleared (world : Nat) : Core where
  world := world
  slots := [none, none, none, none]
  trapQ := []
  serving := none
  trapDead := false
  cause := 0
  trapPc := 0
  trapAddr := 0
  tscratch := []
  brk := []
  debugReg := 0
  l1 := []
  icache := []
  scb := []
  withheld := []
  cabinet := []
  queue := []
  tlb := []
  stamp := 0
  unused := false

def Op.none_ : Op := ⟨0, 0, 0, 0, none, .store, false, false, (0, 0, 0), none, [], []⟩
def HomeSector.new (ease : Word) : HomeSector := ⟨[], ease, ease, none, none, []⟩
def Ring.zero : Ring := ⟨0, 0, 0, 0⟩
def Queue.zero : Queue := ⟨.zero, .zero, 0, false, false, 0⟩
def MigEngine.zero : MigEngine := ⟨0, 0, 0, 0, 0, 0⟩
def MsiEntry.zero : MsiEntry := ⟨0, 0, false, false⟩
def Link.untrained : Link := ⟨4, false, false, false, false⟩

/-- The memory system at power-on. -/
def MemSys.reset : MemSys :=
  ⟨[], [], [], [], [], [], [], [], [], [], [], [], [], [], [], [], [], [], 0⟩

/-- The host interface at power-on (R353, R355 to R358, R361, Tables 13.6, 13.8, 18.1, 18.2; log 6). -/
def HostIf.reset : HostIf where
  status := 0
  errRing := .zero
  faultRing := .zero
  overflow := 0
  errseq := 1
  queues := []
  nextSeq := 1
  heldErr := []
  heldFault := []
  heldProv := []
  mig := []
  mailCmd := 0
  mailResp := 0
  msix := []
  sent := []
  linkUp := true
  spdm := false
  ide := false
  ideKeys := []
  kexDone := false
  coSignDue := false
  doe := []
  meas := []
  creations := 1
  keySlots := []
  deadDies := 0
  readBack := []
  moves := []

/-- The fabric at power-on. -/
def Fabric.reset : Fabric := ⟨[], 0, [], [], [], [], []⟩

/-- The vitrine before any command. -/
def Vitrine.reset : Vitrine := ⟨[], none, none, 0, [], [], none, none, 0⟩

/-- The driver's default context of world 0 (R310), its page tables rooted at frame 0 (log 2). -/
def Context.default_ : Context :=
  { Context.none_ with mask := 0x1F, creation := 0 }

/-- The machine right after power-on: no launch, no panel, no skein, every core cleared, nothing served. -/
def State.reset : State where
  sched := []
  curCore := 0
  curSlot := 0
  curGang := 0
  sig := .done
  tick := 0
  nextId := 1
  groupId := 0
  skeins := []
  panels := []
  launches := []
  contexts := [(0, Context.default_)]
  cores := []
  ops := []
  mem := .reset
  walks := []
  quadTlbs := []
  images := []
  cycles := []
  host := .reset
  fabric := .reset
  vit := .reset
  collRounds := []
  collBad := []
  savedOps := []
  savedSkeins := []

end Sys2Proof.Machine
end

