-- ==== Sys2Proof/Machine/Operands.lean ====
section
/-! DEFINITION. Reading and writing the parts of the machine: the issuing skein and gang, registers under meld
translation, active lanes, poison, and the results on their way to visibility. -/

namespace Sys2Proof.Machine

/-- The three outcomes of a step, on this machine. -/
abbrev Out := Host.Outcome State Fault Refusal

/-! ### Places -/

/-- Skein slots 0 to 63 of a core and its trap skein as slot 64 (R42). -/
def trapSlot : Nat := 64
/-- The key of a skein. -/
def skKey (core slot : Nat) : Nat := core * 65 + slot

def State.curKey (s : State) : Nat := skKey s.curCore s.curSlot
def State.skein (s : State) (k : Nat) : Skein := Tab.get Skein.none_ s.skeins k
def State.hasSkein (s : State) (k : Nat) : Bool := (Tab.find? k s.skeins).isSome
/-- The issuing skein. -/
def State.me (s : State) : Skein := s.skein s.curKey
def State.setSkein (s : State) (k : Nat) (x : Skein) : State := { s with skeins := Tab.put k x s.skeins }
def State.setMe (s : State) (x : Skein) : State := s.setSkein s.curKey x
/-- Change a skein that is there. -/
def State.modSkein (s : State) (k : Nat) (f : Skein → Skein) : State :=
  match Tab.find? k s.skeins with
  | some x => s.setSkein k (f x)
  | none => s
def State.delSkein (s : State) (k : Nat) : State := { s with skeins := Tab.del k s.skeins }
def State.core (s : State) (c : Nat) : Core := Tab.get (Core.cleared 0) s.cores c
def State.setCore (s : State) (c : Nat) (x : Core) : State := { s with cores := Tab.put c x s.cores }
/-- The core of the issuing skein. -/
def State.myCore (s : State) : Core := s.core s.curCore
def State.panel (s : State) (p : Nat) : Panel := Tab.get Panel.none_ s.panels p
def State.setPanel (s : State) (p : Nat) (x : Panel) : State := { s with panels := Tab.put p x s.panels }
/-- The panel of the issuing skein; of the trap skein, the trapped panel (R41, R337). -/
def State.myPanel (s : State) : Panel := s.panel s.me.panel
def State.launch (s : State) (q : Nat) : Launch := Tab.get Launch.none_ s.launches q
def State.setLaunch (s : State) (q : Nat) (x : Launch) : State := { s with launches := Tab.put q x s.launches }
/-- The launch of the issuing skein. -/
def State.myLaunch (s : State) : Launch := s.launch s.myPanel.launch
def State.context (s : State) (c : Nat) : Context := Tab.get Context.none_ s.contexts c
def State.setContext (s : State) (c : Nat) (x : Context) : State := { s with contexts := Tab.put c x s.contexts }
/-- The context of the issuing skein's launch. -/
def State.myCtx (s : State) : Nat := s.myLaunch.block.context
def State.op (s : State) (id : Nat) : Option Op := Tab.find? id s.ops
def State.setOp (s : State) (id : Nat) (o : Op) : State := { s with ops := Tab.put id o s.ops }
def State.delOp (s : State) (id : Nat) : State := { s with ops := Tab.del id s.ops }
/-- A new operation in flight takes the next name. -/
def State.newOp (s : State) (o : Op) : State := { s with ops := Tab.put s.nextId o s.ops, nextId := s.nextId + 1 }
def State.setMem (s : State) (m : MemSys) : State := { s with mem := m }
def State.setHost (s : State) (h : HostIf) : State := { s with host := h }

/-- The cursor of a gang. -/
def Skein.cursor (k : Skein) (g : Nat) : Cursor := Tab.get Cursor.empty k.gangs g
def Skein.setCursor (k : Skein) (g : Nat) (c : Cursor) : Skein := { k with gangs := Tab.put g c k.gangs }
/-- The cursor of the issuing gang. -/
def State.cur (s : State) : Cursor := s.me.cursor s.curGang
def State.setCur (s : State) (c : Cursor) : State := s.setMe (s.me.setCursor s.curGang c)

/-! ### Gangs and lanes (R14) -/

/-- The gang of a slice (R14). -/
def Skein.gangOf (k : Skein) (sl : Nat) : Nat := bitsOf k.gangmap.toNat (3 * sl) 3
/-- A slice has not exited. -/
def Skein.live (k : Skein) (sl : Nat) : Bool := !k.exited.getLsbD sl
/-- A slice belongs to the gang. -/
def Skein.inGang (k : Skein) (g sl : Nat) : Bool := k.live sl && k.gangOf sl == g
/-- The slices of a gang, as a mask. -/
def Skein.gangMask (k : Skein) (g : Nat) : BitVec 8 :=
  BitVec.ofNat 8 ((List.range 8).foldl (fun m sl => if k.inGang g sl then m + 2 ^ sl else m) 0)
/-- The slices that have not exited, as a mask. -/
def Skein.liveMask (k : Skein) : BitVec 8 := ~~~k.exited
/-- The leaders of the gangs. -/
def Skein.leaders (k : Skein) : List Nat := (List.range 8).filter fun sl => k.live sl && k.gangOf sl == sl
/-- The scalar that register `r` shows; `zero` is 0 (R17). -/
def Skein.sreg (k : Skein) (r : SReg) : Scalar :=
  if r = regZero then Scalar.zero else Tab.get Scalar.zero k.s r.toNat
/-- Bits [31:0] of `em` and of `pm`. -/
def Skein.em (k : Skein) : Word := (k.sreg regEm).val.setWidth 32
def Skein.pm (k : Skein) : Word := (k.sreg regPm).val.setWidth 32
/-- Lane `l` is in the active set of gang `g` (R14). -/
def Skein.active (k : Skein) (g l : Nat) : Bool := k.em.getLsbD l && k.inGang g (l / 4)
/-- The lanes of the active set, ascending. -/
def Skein.activeLanes (k : Skein) (g : Nat) : List Nat := (List.range 32).filter (k.active g)
/-- The active lanes of the issuing gang. -/
def State.lanes (s : State) : List Nat := s.me.activeLanes s.curGang
/-- The lanes of a gang's slices (R122). -/
def Skein.gangLanes (k : Skein) (g : Nat) : Word :=
  BitVec.ofNat 32 ((List.range 32).foldl (fun m l => if k.inGang g (l / 4) then m + 2 ^ l else m) 0)

/-! ### Meld translation (R26) -/

/-- The pair list of a pattern: up to five, the count above 5 taken as 5. -/
def patPairs (p : Dword) : List (Nat × Nat) :=
  (List.range (min (bitsOf p.toNat 60 4) 5)).map fun i => (bitsOf p.toNat (12 * i + 6) 6, bitsOf p.toNat (12 * i) 6)
/-- The register that a pattern gives for `n`: its lowest-numbered matching pair. -/
def patFind (p : Dword) (n : Nat) : Nat :=
  match (patPairs p).find? (fun q => q.1 == n) with
  | some q => q.2
  | none => n
/-- `translate(n, l)` while the open bit is 1. -/
def translate (isOpen : Bool) (pm : Word) (a b : Dword) (n l : Nat) : Nat :=
  if isOpen then patFind (if pm.getLsbD l then b else a) n else n
/-- The register that field `n` names in lane `l`. -/
def Skein.trans (k : Skein) (n l : Nat) : Nat := translate k.meldOpen k.pm k.patA k.patB n l
/-- The key of lane `l` of register `n`. -/
def laneKey (n l : Nat) : Nat := n * 32 + l
/-- The key that field `n` names in lane `l`. -/
def Skein.key (k : Skein) (n l : Nat) : Nat := laneKey (k.trans n l) l
/-- The two registers of a pair named by field `n` in lane `l` (R16, R26). -/
def Skein.pairRegs (k : Skein) (n l : Nat) : Nat × Nat := let t := k.trans n l / 2 * 2; (t, t + 1)

/-- The lane that a key shows. -/
def Skein.lane (k : Skein) (key : Nat) : Lane := Tab.get Lane.zero k.v key

/-- The result that an operation in flight will write to a lane, once it is known. -/
def Op.lane? (o : Op) (key : Nat) : Option Lane :=
  if o.lost.contains key then none else
  match o.kind with
  | .result _ w _ _ => Tab.find? key w
  | .load r => Tab.find? key r.got
  | .ldtol _ _ got => Tab.find? key got
  | .mdrain _ _ _ _ _ _ _ _ _ got => Tab.find? key got
  | _ => none
/-- The register lanes that an operation in flight writes when it completes (R84). -/
def Op.dests (o : Op) : List Nat :=
  match o.kind with
  | .result _ w _ _ => w.map Prod.fst
  | .load r => r.got.map Prod.fst ++ r.todo.flatMap fun l => l.keys.map Prod.fst
  | .ldtol _ keys _ => keys
  | .atomic _ _ red _ ls => if red then [] else ls.flatMap fun l => l.lo :: l.hi.toList
  | .mdrain _ _ _ _ _ _ _ keys sc _ => keys ++ sc
  | _ => []
/-- The result on its way to a lane of a skein from a long-latency word that an earlier group issued, if any (R78). -/
def State.inFlight (s : State) (sk key : Nat) : Option Lane :=
  s.ops.findSome? fun p => if p.2.sk == sk && decide (p.1 < s.groupId) then p.2.lane? key else none
/-- The launch that a skein belongs to is in deterministic mode (Table 11.2). -/
def State.dmodeOf (s : State) (k : Nat) : Bool :=
  (s.launch (s.panel (s.skein k).panel).launch).block.flags.getLsbD 1
/-- A lane as a word reads it: where an outstanding long-latency word writes it, either value; in deterministic mode the
result, which every run then reads (R85, R279; log 7). -/
def State.readKey (s : State) (key : Nat) : Lane :=
  match s.inFlight s.curKey key with
  | some v => if s.dmodeOf s.curKey || Config.coin s.tick key then v else s.me.lane key
  | none => s.me.lane key
/-- Lane `l` of the vector field `r`. -/
def State.vlane (s : State) (r : VReg) (l : Nat) : Lane := s.readKey (s.me.key r.toNat l)
/-- Lane `l` of a V3 second operand: a scalar gives bits [31:0] to every lane (R150). -/
def State.vsrc (s : State) (b : VSrc) (l : Nat) : Lane :=
  match b with
  | .v r => s.vlane r l
  | .s r => let x := s.me.sreg r; ⟨x.val.setWidth 32, x.poison⟩
/-- Lane `l` of a pair: its value and the token of the pair (R16). -/
def State.vpair (s : State) (r : Nat) (l : Nat) : Scalar :=
  let (lo, hi) := s.me.pairRegs r l
  let a := s.readKey (laneKey lo l)
  let b := s.readKey (laneKey hi l)
  if a.poison then ⟨a.val.setWidth 64, true, none⟩
  else if b.poison then ⟨b.val.setWidth 64, true, none⟩
  else ⟨b.val ++ a.val, false, none⟩
/-- Lane `l` of a pair operand: a scalar gives all 64 bits (R99, R150). -/
def State.vpairSrc (s : State) (b : VSrc) (l : Nat) : Scalar :=
  match b with
  | .v r => s.vpair r.toNat l
  | .s r => s.me.sreg r
/-- A scalar source. -/
def State.sreg (s : State) (r : SReg) : Scalar := s.me.sreg r

/-! ### Poison (R29, R30) -/

/-- A token: fault code and accession index (R29). -/
def token (code accn : Nat) : Word := BitVec.ofNat 32 (code <<< 24 + accn <<< 19)
/-- Index of a token that no record stands behind. -/
def noAccn : Nat := 31
def tokenCode (t : Nat) : Nat := bitsOf t 24 8
def tokenAccn (t : Nat) : Nat := bitsOf t 19 5
/-- The token of the first poisoned lane, in operand order. -/
def firstLane : List Lane → Option Word
  | [] => none
  | x :: t => if x.poison then some x.val else firstLane t
/-- The token of the first poisoned scalar, in operand order. -/
def firstScalar : List Scalar → Option Dword
  | [] => none
  | x :: t => if x.poison then some x.val else firstScalar t
/-- A lane result: the first poisoned source's token, or the value. -/
def laneResult (srcs : List Lane) (v : Word) : Lane :=
  match firstLane srcs with
  | some t => ⟨t, true⟩
  | none => ⟨v, false⟩
/-- A scalar result. -/
def scalarResult (srcs : List Scalar) (v : Dword) : Scalar :=
  match firstScalar srcs with
  | some t => ⟨t, true, none⟩
  | none => ⟨v, false, none⟩
/-- A scalar operand as a lane (its token lies in [31:0]). -/
def Scalar.toLane (x : Scalar) : Lane := ⟨x.val.setWidth 32, x.poison⟩

/-! ### Results on their way (R79 to R83) -/

/-- A drop lands before the results that become visible in its cycle (R34). -/
def Pending.isDrop (p : Pending) : Bool :=
  match p.eff with
  | .drop _ => true
  | _ => false
/-- Insert by visibility cycle; among equal cycles the later issue lies later (R81). -/
def insertPending (p : Pending) : List Pending → List Pending
  | [] => [p]
  | q :: t => if p.vis < q.vis || (p.vis == q.vis && p.isDrop) then p :: q :: t else q :: insertPending p t
/-- An effect of the word in a slot, visible `lat` issue cycles after the present one. -/
def Skein.pend (k : Skein) (slot lat : Nat) (e : Effect) : Skein :=
  { k with pending := insertPending ⟨k.cycle + lat, k.cycle, slot, e⟩ k.pending }
def Skein.pendAll (k : Skein) (slot lat : Nat) (es : List Effect) : Skein := es.foldl (fun k e => k.pend slot lat e) k
/-- An effect of the issuing skein. -/
def State.pend (s : State) (lat : Nat) (e : Effect) : State := s.setMe (s.me.pend s.cur.slot lat e)
def State.pendAll (s : State) (lat : Nat) (es : List Effect) : State := s.setMe (s.me.pendAll s.cur.slot lat es)

/-- Write a list of lanes. -/
def putLanes : List (Nat × Lane) → Tab Lane → Tab Lane
  | [], v => v
  | w :: ws, v => putLanes ws (Tab.put w.1 w.2 v)
/-- The registers that a list of lane writes falls in. -/
def laneRegs (ws : List (Nat × Lane)) : List Nat := (ws.map fun w => w.1 / 32).eraseDups
/-- Set or clear the tags of registers. -/
def setTags (rs : List Nat) (tag : Option Nat) (t : Tab Nat) : Tab Nat :=
  rs.foldl (fun t r => match tag with | some n => Tab.put r n t | none => Tab.del r t) t
/-- Write lanes, and give their registers the tag of the result (R35, R40). -/
def Skein.setLanes (k : Skein) (ws : List (Nat × Lane)) (tag : Option Nat) : Skein :=
  { k with v := putLanes ws k.v, vtag := setTags (laneRegs ws) tag k.vtag }
/-- Write a scalar: `zero` discards, `em` and `pm` keep [31:0] and no poison (R17, R18).  DESIGN CHOICE: a pending scalar
that `SMOV` copies into `em` or `pm`, to which Table 1.2 gives no pending bit, leaves the low 32 bits of its handle there,
and the register is not pending (R19, R120; log 45). -/
def Skein.setScalar (k : Skein) (r : Nat) (v : Scalar) : Skein :=
  if r = 63 then k
  else if r = 60 ∨ r = 61 then { k with s := Tab.put r ⟨(v.val.setWidth 32).setWidth 64, false, none⟩ k.s }
  else { k with s := Tab.put r v k.s }
/-- Writable bits of the status word: NV to NX, DAZ, FTZ, RM (Table 1.3). -/
def statusMask : Dword := 0x1F0F
/-- OR sticky flags into the status word. -/
def stickyInto (w : Dword) (f : FpFlags) : Dword := w ||| ((f.setWidth 64) <<< 8)

/-- One effect becomes visible. -/
def Skein.apply (k : Skein) : Effect → Skein
  | .vec ws tag => k.setLanes ws tag
  | .scalar r v tag => { k.setScalar r v with stag := setTags (if r = 63 then [] else [r]) tag k.stag }
  | .sticky f => { k with status := stickyInto k.status f }
  | .status w => { k with status := w &&& statusMask }
  | .pattern o a b => { k with meldOpen := o, patA := a, patB := b }
  | .drop r => { k with v := k.v.filter (fun p => p.1 / 32 != r), vtag := Tab.del r k.vtag }

/-- The results due at issue cycle `u` become visible in order; the others stay on their way. -/
def applyUntil (u : Nat) : List Pending → Skein → Skein
  | [], k => { k with pending := [] }
  | p :: t, k => if p.vis ≤ u then applyUntil u t (k.apply p.eff) else { k with pending := p :: t }
/-- Results due at the skein's present issue cycle. -/
def Skein.due (k : Skein) : Bool :=
  match k.pending with
  | p :: _ => decide (p.vis ≤ k.cycle)
  | [] => false
/-- Every result due becomes visible (R79). -/
def Skein.settle (k : Skein) : Skein := applyUntil k.cycle k.pending k
/-- Every result already issued becomes visible, as a stop requires (R83). -/
def Skein.flush (k : Skein) : Skein := k.pending.foldl (fun k p => k.apply p.eff) { k with pending := [] }

/-- The lanes that the results among `ps` write. -/
def pendingKeys (ps : List Pending) : List Nat :=
  ps.flatMap fun p => match p.eff with | .vec ws _ => ws.map Prod.fst | _ => []
/-- The keys among `keys` at which a write wins over an outstanding word: the later write in deterministic mode, else
either (R85, R279; log 7). -/
def racedKeys (dmode : Bool) (tick : Nat) (keys : List Nat) : List Nat := keys.filter fun x => dmode || Config.coin tick x
/-- A write to the destination of an outstanding long-latency word: either value stays, lane by lane (R85). -/
def Op.raced (o : Op) (keys : List Nat) : Op :=
  match o.dests.filter keys.contains with
  | [] => o
  | ks => { o with lost := o.lost ++ ks }
/-- The same of a word in the operand log. -/
def LogEntry.raced (e : LogEntry) (keys : List Nat) : LogEntry :=
  if e.valid && !keys.isEmpty then { e with lost := e.lost ++ keys } else e
/-- Settle a skein, and race what it writes with its outstanding words. -/
def State.settleSkein (s : State) (k : Nat) (all : Bool) : State :=
  match Tab.find? k s.skeins with
  | none => s
  | some x =>
    let ps := if all then x.pending else x.pending.takeWhile fun p => decide (p.vis ≤ x.cycle)
    let keys := racedKeys (s.dmodeOf k) s.tick (pendingKeys ps)
    let y := if all then x.flush else x.settle
    { s with
      skeins := Tab.put k { y with oplog := Tab.mapv (·.raced keys) y.oplog } s.skeins
      ops := s.ops.map fun p => (p.1, if p.2.sk == k then p.2.raced keys else p.2) }
/-- What a completing word delivers to its registers, but where a later write has won (R84, R85). -/
def Op.keep (o : Op) (ws : List (Nat × Lane)) : List (Nat × Lane) := ws.filter fun w => !o.lost.contains w.1

/-! ### The words of one group (R78) -/

/-- The register lanes that the fixed-latency results of a slot of the present group write. -/
def Skein.slotKeys (k : Skein) (slot : Nat) : List Nat :=
  pendingKeys (k.pending.filter fun p => p.at_ == k.cycle && p.slot == slot)
/-- The register lanes that the words of a slot of the present group write. -/
def State.slotKeys (s : State) (slot : Nat) : List Nat :=
  s.me.slotKeys slot ++ s.ops.flatMap fun q =>
    if q.2.sk == s.curKey && decide (s.groupId ≤ q.1) && q.2.place.2.1 == slot then q.2.dests else []
/-- A result without the lanes of a list. -/
def Effect.without (keys : List Nat) : Effect → Effect
  | .vec ws t => .vec (ws.filter fun w => !keys.contains w.1) t
  | e => e
/-- The words of lower slots leave the lanes of a list to a word of a higher slot. -/
def State.yieldLanes (s : State) (slot : Nat) (keys : List Nat) : State :=
  if keys.isEmpty then s else
  let k := s.me
  let s := s.setMe { k with pending := k.pending.map fun p =>
    if p.at_ == k.cycle && decide (p.slot < slot) then { p with eff := p.eff.without keys } else p }
  { s with ops := s.ops.map fun q =>
      (q.1, if q.2.sk == s.curKey && decide (s.groupId ≤ q.1) && decide (q.2.place.2.1 < slot) then q.2.raced keys else q.2) }
/-- Where two destinations of a group translate to one register in a lane of a meld, the word in the higher slot supplies
the value (R78). -/
def State.resolveGroup (s : State) (slots : List Nat) : State :=
  if s.me.meldOpen then slots.foldl (fun s n => s.yieldLanes n (s.slotKeys n)) s else s

/-! ### Completion flags (R20, R84) -/

/-- The flag that a word with this fs bit counts on; 12 to 15 name none. -/
def State.flagOf (s : State) (fs : Bool) : Option Nat :=
  let n := (if fs then s.cur.setB else s.cur.setA).toNat
  if n < 12 then some n else none
def Skein.flag (k : Skein) (n : Nat) : Nat := Tab.get 0 k.f n
/-- The flag stands at 63: the word does not issue (R20). -/
def State.flagFull (s : State) (f : Option Nat) : Bool :=
  match f with
  | some n => decide (63 ≤ s.me.flag n)
  | none => false
def Skein.incFlag (k : Skein) : Option Nat → Skein
  | some n => { k with f := Tab.put n (k.flag n + 1) k.f }
  | none => k
def Skein.decFlag (k : Skein) : Option Nat → Skein
  | some n => { k with f := Tab.put n (k.flag n - 1) k.f }
  | none => k

/-! ### The operand log (R24) -/

/-- An entry in use by nothing. -/
def LogEntry.free : LogEntry :=
  ⟨false, false, false, 0, 0, 0, 0, 0, 0, 0, 0, 0, 0, 0, 0, false, 0, 0, [], [], [], .nop, 0, [], []⟩
/-- A skein's entry leaves the log, with its continuation, and its flag falls (R335). -/
def State.freeEntry (s : State) (k n : Nat) : State :=
  s.modSkein k fun x =>
    let e := Tab.get LogEntry.free x.oplog n
    let t := Tab.del n x.oplog
    let t := if (Tab.get LogEntry.free t (n + 1)).cont then Tab.del (n + 1) t else t
    { x with oplog := t }.decFlag (if e.flag.toNat < 12 then some e.flag.toNat else none)
/-- The entry that an operation replays leaves the log (R335). -/
def State.endEntry (s : State) (o : Op) : State := match o.entry with | some n => s.freeEntry o.sk n | none => s
/-- An operation completes: its flag falls (R20, R84), and a replay's entry leaves the log with the flag that it kept
(R335). -/
def State.endFlag (s : State) (o : Op) : State :=
  match o.entry with
  | some n => s.freeEntry o.sk n
  | none => s.modSkein o.sk fun k => k.decFlag o.flag

end Sys2Proof.Machine
end

