-- ==== Sys2Proof/Machine/Records.lean ====
section
/-! DEFINITION. Rings, records and interrupt messages (R334, R353, R354, R356 to R358). -/

namespace Sys2Proof.Machine

/-! ### Interrupt messages (R358) -/

def HostIf.msi (h : HostIf) (v : Nat) : MsiEntry := Tab.get MsiEntry.zero h.msix v
/-- Signal a vector: one message, or the pending bit while masked. -/
def HostIf.signal (h : HostIf) (v : Nat) : HostIf :=
  let e := h.msi v
  if e.masked then { h with msix := Tab.put v { e with pending := true } h.msix }
  else { h with sent := h.sent ++ [(v, e.data)] }
def State.signal (s : State) (v : Nat) : State := s.setHost (s.host.signal v)
/-- A change of a device status field signals vector 131 (R358). -/
def State.setStatus (s : State) (w : BitVec 64) : State :=
  if w = s.host.status then s else (s.setHost { s.host with status := w }).signal 131
/-- Write a field of the device status register (Table 13.8). -/
def putField (w : BitVec 64) (lo n v : Nat) : BitVec 64 :=
  BitVec.ofNat 64 (w.toNat - (bitsOf w.toNat lo n) <<< lo + (v % 2 ^ n) <<< lo)

/-! ### What is served (R355, R367, R368) -/

/-- The host link carries accesses; after a failure in stage 1 of bring-up nothing is served. -/
def HostIf.serves (h : HostIf) : Bool := h.linkUp && !h.status.getLsbD 1

/-! ### Rings (R356) -/

def Ring.entries (r : Ring) : Nat := 2 ^ r.log2
/-- A ring whose entry count the host has set (R356: log2 from 6 to 16). -/
def Ring.valid (r : Ring) : Bool := decide (6 ≤ r.log2) && decide (r.log2 ≤ 16)
/-- No entry is free; a ring that the host has not described has none (log 6). -/
def Ring.full (r : Ring) : Bool := !r.valid || decide ((r.tail - r.head).toNat = r.entries)
/-- Where the next record goes. -/
def Ring.slot (r : Ring) (size : Nat) : Nat := r.base + (r.tail.toNat % r.entries) * size
/-- Write bytes into host memory. -/
def State.hostWrite (s : State) (a : Nat) (bs : List Byte) : State :=
  s.setMem { s.mem with host := Memory.writeN a bs s.mem.host }

/-! ### Error records (Tables 13.2, 13.3) -/

/-- Error classes (Table 13.3). -/
inductive ErrClass where
  | corrected | uncorrectable | rowSpared | retired | coreFenced | laneDropped | linkDown | trapInTrap | unhandledTrap
  | saveTimeout | launchRefused | containerRefused | hostDenied | software | queueOverrun | packageLost | authFailed
  | bringUp
  deriving DecidableEq, Repr

def ErrClass.code : ErrClass → Nat
  | .corrected => 0x01
  | .uncorrectable => 0x02
  | .rowSpared => 0x03
  | .retired => 0x04
  | .coreFenced => 0x05
  | .laneDropped => 0x06
  | .linkDown => 0x07
  | .trapInTrap => 0x08
  | .unhandledTrap => 0x09
  | .saveTimeout => 0x0A
  | .launchRefused => 0x0B
  | .containerRefused => 0x0C
  | .hostDenied => 0x0D
  | .software => 0x0E
  | .queueOverrun => 0x0F
  | .packageLost => 0x10
  | .authFailed => 0x11
  | .bringUp => 0x12

/-- An event for the error ring: the unit is (kind, number) of Table 13.2. -/
structure ErrEvent where
  cls : ErrClass
  unitkind : Nat
  unit : Nat
  ctx : Option Nat
  launch : Nat
  addr : Option Nat
  detail : List Byte
  deriving DecidableEq, Repr

def padTo (n : Nat) (bs : List Byte) : List Byte := bs.take n ++ List.replicate (n - bs.length) 0

/-- The 64 bytes of a record, redacted for a protected context (R354). -/
def errBytes (s : State) (e : ErrEvent) (seq : BitVec 64) : List Byte :=
  let c := match e.ctx with | some c => s.context c | none => Context.none_
  let prot := c.world != 0
  let addrOk := e.addr.isSome && (!prot || c.mask.getLsbD 1)
  let detOk := !e.detail.isEmpty && (!prot || c.mask.getLsbD 2)
  let flags := (if addrOk then 1 else 0) + (if detOk then 2 else 0) + (if prot then 4 else 0)
  leBytes 8 seq.toNat ++ leBytes 1 e.cls.code ++ leBytes 1 e.unitkind ++ leBytes 2 e.unit ++ leBytes 1 c.world ++
    leBytes 1 flags ++ leBytes 2 1 ++ leBytes 8 e.launch ++ leBytes 8 (if addrOk then e.addr.getD 0 else 0) ++
    padTo 32 (if detOk then e.detail else [])

/-- Two records are of one class and unit (R353). -/
def sameUnit (a b : List Byte) : Bool := ((a.drop 8).take 4) == ((b.drop 8).take 4)
/-- One occurrence more, saturating (Table 13.2). -/
def bumpCount (r : List Byte) : List Byte :=
  r.take 14 ++ leBytes 2 (min 65535 (leNat ((r.drop 14).take 2) + 1)) ++ r.drop 16
/-- Merge into the newest held record of the same class and unit, if there is one. -/
def mergeHeld (r : List Byte) : List HeldRecord → Option (List HeldRecord)
  | [] => none
  | h :: t =>
    match mergeHeld r t with
    | some t' => some (h :: t')
    | none => if sameUnit h.bytes r then some ({ h with bytes := bumpCount h.bytes } :: t) else none

/-- A record of a context is held in the device: while the context is quarantined, and where it was destroyed so, which an id of
2^32 and above stands for, until a session and keys exist (R367). -/
def State.holds (s : State) : Option Nat → Bool
  | some c => (s.context c).quarantined || (decide (2 ^ 32 ≤ c) && !(s.host.spdm && s.host.ide))
  | none => false
/-- The held records of a context that is destroyed in quarantine stay held (R367). -/
def HostIf.orphan (h : HostIf) (ctx : Nat) : HostIf :=
  let f := fun (r : HeldRecord) => if r.ctx == some ctx then { r with ctx := some (ctx + 2 ^ 32) } else r
  { h with
    heldErr := h.heldErr.map f
    heldFault := h.heldFault.map f
    heldProv := h.heldProv.map fun q => (q.1, f q.2) }
/-- Put a record into the error ring; the caller has seen that there is room. -/
def State.writeErr (s : State) (bs : List Byte) : State :=
  let r := s.host.errRing
  let s := s.hostWrite (r.slot 64) bs
  (s.setHost { s.host with errRing := { r with tail := r.tail + 1 } }).signal 129

/-- Every event is written to the error ring, held for a quarantined context, merged or dropped (R353, R367). -/
def State.postError (s : State) (e : ErrEvent) : State :=
  let bs := errBytes s e s.host.errseq
  let held := s.holds e.ctx
  let next := s.setHost { s.host with errseq := s.host.errseq + 1 }
  if held then next.setHost { next.host with heldErr := next.host.heldErr ++ [⟨bs, e.ctx⟩] }
  else if s.host.errRing.full then
    match mergeHeld bs s.host.heldErr with
    | some hs => s.setHost { s.host with heldErr := hs }
    | none => s.setHost { s.host with overflow := s.host.overflow + 1 }
  else next.writeErr bs

/-! ### Page-fault records (R334) -/

/-- A page-fault record: context, page, code, access kind 0 read, 1 write, 2 both; the manual gives no layout (log 16). -/
def faultBytes (ctx page code kind : Nat) : List Byte :=
  leBytes 8 page ++ leBytes 4 ctx ++ leBytes 1 code ++ leBytes 1 kind ++ leBytes 18 0

/-- Write a page-fault record, or hold it while the ring is full or the context quarantined (R357, R367).  A record
equal to one that is held is merged with it. -/
def State.postFault (s : State) (ctx page code kind : Nat) : State :=
  let bs := faultBytes ctx page code kind
  let r := s.host.faultRing
  if (s.context ctx).quarantined || r.full then
    if s.host.heldFault.any (·.bytes == bs) then s
    else s.setHost { s.host with heldFault := s.host.heldFault ++ [⟨bs, some ctx⟩] }
  else
    let s := s.hostWrite (r.slot 32) bs
    (s.setHost { s.host with faultRing := { r with tail := r.tail + 1 } }).signal 128

/-- Write the held page-fault records that now may go. -/
def flushFaults : List HeldRecord → State → State
  | [], s => s.setHost { s.host with heldFault := [] }
  | h :: t, s =>
    let r := s.host.faultRing
    if r.full || s.holds h.ctx then
      let s' := flushFaults t s
      s'.setHost { s'.host with heldFault := h :: s'.host.heldFault }
    else
      let s := s.hostWrite (r.slot 32) h.bytes
      flushFaults t ((s.setHost { s.host with faultRing := { r with tail := r.tail + 1 } }).signal 128)
/-- Write the held error records that now may go, in sequence order. -/
def flushErrs : List HeldRecord → State → State
  | [], s => s.setHost { s.host with heldErr := [] }
  | h :: t, s =>
    if s.host.errRing.full || s.holds h.ctx then
      let s' := flushErrs t s
      s'.setHost { s'.host with heldErr := h :: s'.host.heldErr }
    else flushErrs t (s.writeErr h.bytes)

def State.queue (s : State) (q : Nat) : Queue := Tab.get Queue.zero s.host.queues q
def State.setQueue (s : State) (q : Nat) (x : Queue) : State :=
  s.setHost { s.host with queues := Tab.put q x s.host.queues }

end Sys2Proof.Machine
end

