-- ==== Sys2Proof/Machine/Memory.lean ====
section
/-! DEFINITION. The memory system below a memory word: page walks and translation (R299 to R302), home L2 slices and
guest copies (R263, R268, R287, R288, R297), the L1 and the store-combining buffer (R265, R283 to R286, R318), the
foyer (R306), the scratchpad, and what a write untags and wakes (R38, R202). -/

namespace Sys2Proof.Machine

/-! ### Physical addresses (log 2) -/

/-- Foyer bytes are numbered from here on; physical memory lies below (R300: frames give address bits [51:12]). -/
def foyerBase : Nat := 2 ^ 52
def isFoyer (pa : Nat) : Bool := decide (foyerBase ≤ pa)
/-- The die whose HBM holds a physical address (log 2). -/
def dieOf (pa : Nat) : Nat := bitsOf pa 37 2
/-- The die of a core (R12). -/
def coreDie (c : Nat) : Nat := c / 64 % 4
/-- The guest-table key of a sector on a die. -/
def guestKey (die sector : Nat) : Nat := sector * 4 + die

/-! ### Home L2 slices -/

/-- A byte at its home: the L2 copy, else HBM (R263, R287). -/
def MemSys.homeByte (m : MemSys) (pa : Nat) : Byte :=
  if isFoyer pa then m.foyer.read (pa - foyerBase) else
  match Tab.find? (pa / 64) m.l2 with
  | some x => x.data.getD (pa % 64) 0
  | none => m.hbm.read pa
/-- `n` bytes at their homes. -/
def MemSys.homeBytes (m : MemSys) (pa n : Nat) : List Byte := (List.range n).map fun i => m.homeByte (pa + i)
/-- A little-endian number at its home. -/
def MemSys.homeNat (m : MemSys) (pa n : Nat) : Nat := leNat (m.homeBytes pa n)
/-- The sector's data at its home. -/
def MemSys.homeSector (m : MemSys) (sector : Nat) : List Byte := m.homeBytes (sector * 64) 64
/-- The pseudo-channel that holds a physical address, 128 to a die (log 2). -/
def pcUnit (pa : Nat) : Nat := dieOf pa * 128 + pa / 256 % 128
/-- The sector is uncorrectable at its home (R297), or lies on a pseudo-channel that has failed with no reserve left
(R298). -/
def MemSys.isBad (m : MemSys) (sector : Nat) : Bool :=
  m.failedPc.contains (pcUnit (sector * 64)) ||
  match Tab.find? sector m.l2 with
  | some x => x.poisoned
  | none => m.bad.contains sector

/-! ### Die apply order (R268) -/

def MemSys.clock (m : MemSys) (die k : Nat) : Nat := Tab.get 0 m.clocks (die * 4 + k)
def MemSys.clockOf (m : MemSys) (die : Nat) : List Nat := (List.range 4).map (m.clock die)
def leClock (a b : List Nat) : Bool := (a.zip b).all fun p => decide (p.1 ≤ p.2)
/-- Join a clock into a die's. -/
def MemSys.joinClock (m : MemSys) (die : Nat) (c : List Nat) : MemSys :=
  { m with clocks := c.zipIdx.foldl (fun t p => Tab.put (die * 4 + p.2) (max (Tab.get 0 t (die * 4 + p.2)) p.1) t) m.clocks }
/-- Apply one guest update at its die. -/
def MemSys.applyGuest (m : MemSys) (u : GuestUpd) : MemSys :=
  let k := guestKey u.die u.sector
  ({ m with
    updates := m.updates.filter (·.id != u.id)
    guest := if (Tab.find? k m.guest).isSome then Tab.put k u.data m.guest else m.guest }).joinClock u.die u.clock
/-- No update that happens before `u` is still on its way to the same die. -/
def MemSys.mayApply (m : MemSys) (u : GuestUpd) : Bool :=
  m.updates.all fun v => v.id == u.id || v.die != u.die || !(leClock v.clock u.clock && decide (v.id < u.id))
/-- Apply at `die` every update that happens before what `src` has applied, in the order they were sent. -/
def MemSys.sync (m : MemSys) (die src : Nat) : MemSys :=
  if die = src then m else
  let c := m.clockOf src
  let us := m.updates.filter fun u => u.die == die && leClock u.clock c
  (us.foldl (fun m u => m.applyGuest u) m).joinClock die c

/-- A die that has read or written a sector at its home has applied there what happens before that, where it holds a guest
copy of the sector (R265, R268; log 21). -/
def MemSys.seen (m : MemSys) (die sector : Nat) : MemSys :=
  if (Tab.find? (guestKey die sector) m.guest).isSome then m.sync die (dieOf (sector * 64)) else m
/-- The scope reaches beyond a die. -/
def wide : Scope → Bool
  | .pkg | .pod => true
  | .core | .quad | .die => false
/-- A release or an acquire of a scope beyond the die: the die has then applied what every die had applied (R264, R268). -/
def MemSys.joinDies (m : MemSys) (die : Nat) : MemSys := (List.range 4).foldl (fun m d => m.sync die d) m

/-- Write bytes (place in the sector, byte) at the home of a sector, from a core of `die`, and send them to the dies that
its directory names; a die that has dropped its copy leaves the directory then (R268, R288).  A full-sector write replaces
a poisoned line (R297). -/
def MemSys.homeWrite (m : MemSys) (die sector : Nat) (bs : Tab Byte) (id : Nat) : MemSys :=
  if isFoyer (sector * 64) then
    { m with foyer := bs.foldl (fun f p => f.write (sector * 64 - foyerBase + p.1) p.2) m.foyer }
  else
    let home := dieOf (sector * 64)
    let m := m.sync home die
    let old := m.homeSector sector
    let data := (List.range 64).map fun i => Tab.get (old.getD i 0) bs i
    let bad := m.isBad sector && decide (bs.length < 64)
    let m := { m with
      l2 := Tab.put sector ⟨true, bad, data⟩ m.l2
      clocks := Tab.put (home * 4 + home) (m.clock home home + 1) m.clocks }
    let c := m.clockOf home
    let dies := (List.range 4).filter fun d => m.dirs.contains (guestKey d sector)
    { m with
      updates := m.updates ++ dies.map fun d => ⟨id * 4 + d, d, sector, data, c⟩
      dirs := m.dirs.filter fun k => k / 4 != sector || (Tab.find? k m.guest).isSome }

/-! ### Sets and ways of an L2 (R287, R289) -/

/-- The slice of a line: the exclusive OR of six fields of its address (R287). -/
def sliceOf (pa : Nat) : Nat :=
  [8, 13, 18, 23, 28, 33].foldl (fun x n => x ^^^ bitsOf pa n 5) 0
/-- The set of a line in its slice.  DESIGN CHOICE: R287 does not say how the 768 sets are addressed (log 46). -/
def setOf (line : Nat) : Nat := line / 32 % 768
/-- Two lines fall in one set of one slice. -/
def sameSet (a b : Nat) : Bool := setOf a == setOf b && sliceOf (a * 256) == sliceOf (b * 256)
/-- The world that a line belongs to (R289). -/
def MemSys.lineWorld (m : MemSys) (line : Nat) : Nat :=
  ((List.range 4).findSome? fun i => Tab.find? (4 * line + i) m.sealed).getD 0
/-- The lines of a die's L2 in the set of a line: home lines and guest lines. -/
def MemSys.setLines (m : MemSys) (die line : Nat) : List Nat :=
  let home := (m.l2.filter fun q => dieOf (q.1 * 64) == die).map fun q => q.1 / 4
  let guest := (m.guest.filter fun q => q.1 % 4 == die).map fun q => q.1 / 16
  ((home ++ guest).filter fun l => sameSet l line).eraseDups
/-- The lines of a list that the reserved ways of their world do not take; each needs a shared way. -/
def MemSys.sharing (m : MemSys) (ls : List Nat) : List Nat :=
  (ls.map m.lineWorld).eraseDups.flatMap fun w => (ls.filter fun l => m.lineWorld l == w).drop (Tab.get 0 m.reserved w)
/-- Ways that no world has reserved. -/
def MemSys.sharedWays (m : MemSys) : Nat := 16 - (m.reserved.foldl (fun n q => n + q.2) 0)

/-- Write a dirty sector back to HBM and mark it clean; an uncorrectable one stays (R287, R297). -/
def MemSys.writeBack (m : MemSys) (sector : Nat) : MemSys :=
  match Tab.find? sector m.l2 with
  | some x =>
    if x.dirty && !x.poisoned then
      { m with
        hbm := Memory.writeN (sector * 64) x.data m.hbm
        bad := m.bad.filter (· != sector)
        l2 := Tab.put sector { x with dirty := false } m.l2 }
    else m
  | none => m
/-- A sector leaves the home's L2 after its write-back; an uncorrectable one stays (R287, R297). -/
def MemSys.leaveHome (m : MemSys) (sector : Nat) : MemSys :=
  let m := m.writeBack sector
  match Tab.find? sector m.l2 with
  | some x => if x.poisoned then m else { m with l2 := Tab.del sector m.l2 }
  | none => m
/-- A die evicts a sector: its own, or a guest copy, which the directory still names (R287, R288). -/
def MemSys.evict (m : MemSys) (die sector : Nat) : MemSys :=
  if die = dieOf (sector * 64) then m.leaveHome sector else { m with guest := Tab.del (guestKey die sector) m.guest }
/-- Drop every L2 copy of a sector on every die, after its write-back (R195). -/
def MemSys.dropSector (m : MemSys) (sector : Nat) : MemSys :=
  let m := m.leaveHome sector
  { m with
    guest := (List.range 4).foldl (fun g d => Tab.del (guestKey d sector) g) m.guest
    dirs := m.dirs.filter fun k => k / 4 != sector
    updates := m.updates.filter (·.sector != sector) }

/-- Room for a line in a die's L2: where its set has no way left that it may take, a line of the set that holds one goes.
DESIGN CHOICE: the lowest such line; R287 names no order of replacement (log 46). -/
def MemSys.makeWay (m : MemSys) (die line : Nat) : MemSys :=
  let ls := m.setLines die line
  if ls.contains line || decide ((m.sharing (ls ++ [line])).length ≤ m.sharedWays) then m
  else
    match m.sharing ls with
    | v :: _ => (List.range 4).foldl (fun m i => m.evict die (4 * v + i)) m
    | [] => m

/-- Lines of a set go, at most `n`, until those that share ways have enough of them. -/
def MemSys.trimSet (die line : Nat) : Nat → MemSys → MemSys
  | 0, m => m
  | n + 1, m =>
    let ls := m.sharing (m.setLines die line)
    match ls with
    | v :: _ =>
      if ls.length ≤ m.sharedWays then m
      else MemSys.trimSet die line n ((List.range 4).foldl (fun m i => m.evict die (4 * v + i)) m)
    | [] => m
/-- A world's reserved ways are set, and hold no line of another world (R289, R351). -/
def MemSys.reserveWays (m : MemSys) (world ways : Nat) : MemSys :=
  let m := { m with reserved := Tab.upd 0 world (fun _ => ways) m.reserved }
  let home : List (Nat × Nat) := m.l2.map fun q => (dieOf (q.1 * 64), q.1 / 4)
  let guest : List (Nat × Nat) := m.guest.map fun q => (q.1 % 4, q.1 / 16)
  (home ++ guest).eraseDups.foldl (fun m l => MemSys.trimSet l.1 l.2 16 m) m

/-- The sector as die `die` serves it, and the memory after the fill of a clean or a guest copy (R268, R288). -/
def MemSys.dieSector (m : MemSys) (die sector : Nat) : MemSys × List Byte :=
  if isFoyer (sector * 64) then (m, m.homeSector sector) else
  let home := dieOf (sector * 64)
  let m := if (Tab.find? sector m.l2).isSome then m
    else
      let m := m.makeWay home (sector / 4)
      { m with l2 := Tab.put sector ⟨false, m.bad.contains sector, m.homeSector sector⟩ m.l2 }
  if home = die then (m, m.homeSector sector)
  else
    match Tab.find? (guestKey die sector) m.guest with
    | some d => (m, d)
    | none =>
      let m := (m.sync die home).makeWay die (sector / 4)
      let d := m.homeSector sector
      ({ m with
        guest := Tab.put (guestKey die sector) d m.guest
        dirs := if m.dirs.contains (guestKey die sector) then m.dirs else m.dirs ++ [guestKey die sector] }, d)

/-! ### Page walks (R299, R300) -/

/-- What an access needs (R300). -/
structure Need where
  r : Bool
  w : Bool
  x : Bool
  deriving DecidableEq, Repr

def needR : Need := ⟨true, false, false⟩
def needW : Need := ⟨false, true, false⟩
def needRW : Need := ⟨true, true, false⟩
def needX : Need := ⟨false, false, true⟩

/-- Fields of an entry (Table 10.8). -/
def pteV (e : BitVec 64) : Bool := e.getLsbD 0
def pteLeaf (e : BitVec 64) : Bool := e.getLsbD 10
def pteFrame (e : BitVec 64) : Nat := bitsOf e.toNat 12 40 <<< 12
def pteOwner (e : BitVec 64) : Nat := bitsOf e.toNat 60 2
def pteWorld (e : BitVec 64) : Nat := bitsOf e.toNat 52 8
def pteCache (e : BitVec 64) : Nat := bitsOf e.toNat 6 2

/-- The first check that an entry fails, as its code (R300; log 17). -/
def pteFault (level : Nat) (leaf : Bool) (n : Need) (world : Nat) (e : BitVec 64) : Option Nat :=
  if !pteV e then some 0x01
  else if bitsOf e.toNat 62 2 != 0 || bitsOf e.toNat 8 2 != 0 || bitsOf e.toNat 1 2 != 0 || pteOwner e == 3 ||
      decide (2 ≤ pteCache e) || (decide (3 ≤ level) && pteLeaf e) ||
      (leaf && pteFrame e % 2 ^ (12 + 9 * level) != 0) ||
      (n.r && !e.getLsbD 3) || (n.w && !e.getLsbD 4) || (n.x && !e.getLsbD 5) then some 0x02
  else if pteOwner e == 1 then some 0x06
  else if pteWorld e != 0 && pteWorld e != world then some 0x07
  else none

/-- Walk from `level` down: the leaf entry and the level it stands at, or the fault's code. -/
def walkFrom (m : MemSys) (world va : Nat) (n : Need) : Nat → Nat → Except Nat (BitVec 64 × Nat)
  | 0, table =>
    let e := BitVec.ofNat 64 (m.homeNat (table + 8 * bitsOf va 12 9) 8)
    match pteFault 0 true n world e with
    | some c => .error c
    | none => .ok (e, 0)
  | k + 1, table =>
    let e := BitVec.ofNat 64 (m.homeNat (table + 8 * bitsOf va (12 + 9 * (k + 1)) 9) 8)
    let leaf := pteLeaf e && decide (k + 1 ≤ 2)
    match pteFault (k + 1) leaf n world e with
    | some c => .error c
    | none => if leaf then .ok (e, k + 1) else walkFrom m world va n k (pteFrame e)

/-- The physical address that a leaf at `level` gives; owner 2 maps the foyer (R306). -/
def leafAddr (e : BitVec 64) (level va : Nat) : Nat :=
  let pa := pteFrame e + va % 2 ^ (12 + 9 * level)
  if pteOwner e == 2 then foyerBase + pa % 65536 else pa

/-- Bits [63:56] equal bit [56] (R176). -/
def canonical (va : Nat) : Bool := bitsOf va 56 8 == 0 || bitsOf va 56 8 == 0xFF

/-- A translated byte: its physical address and its leaf. -/
structure Xlat where
  pa : Nat
  pte : BitVec 64
  level : Nat
  deriving DecidableEq, Repr

/-- Entries of a core's TLB and of a quad's, and walkers of a die (R301). -/
def tlbEntries : Nat := 128
def quadEntries : Nat := 4096
def walkers : Nat := 1024
/-- The translations of a core's quad. -/
def State.quadTlb (s : State) (core : Nat) : List TlbEntry := Tab.get [] s.quadTlbs (core / 4)
/-- The page of a virtual address, as a TLB names it. -/
def pageOf (va : Nat) : Nat := va % 2 ^ 57 / 4096
/-- A translation that a core, or else its quad, holds. -/
def State.heldEntry (s : State) (core ctx page : Nat) : Option TlbEntry :=
  ((s.core core).tlb.find? fun t => t.ctx == ctx && t.page == page).or
    ((s.quadTlb core).find? fun t => t.ctx == ctx && t.page == page)
/-- The page that the entry gives permits the access. -/
def TlbEntry.permits (t : TlbEntry) (n : Need) : Bool := (t.r || !n.r) && (t.w || !n.w) && (t.x || !n.x)

/-- Translate for a core: its TLB, its quad's, else a walk (R301); a permission that any entry of the walk lacked is lacking
(R300). -/
def State.translateAt (s : State) (core ctx va : Nat) (n : Need) : Except Nat Xlat :=
  if !canonical va then .error 0x02 else
  let a := va % 2 ^ 57
  let c := s.core core
  match s.heldEntry core ctx (a / 4096) with
  | some t =>
    if !t.permits n then .error 0x02 else
    match pteFault 0 false n c.world t.pte with
    | some f => .error f
    | none => .ok ⟨if pteOwner t.pte == 2 then foyerBase + (t.frame + a % 4096) % 65536 else t.frame + a % 4096, t.pte, 0⟩
  | none =>
    match walkFrom s.mem c.world a n 4 (s.context ctx).root with
    | .error f => .error f
    | .ok (e, l) => .ok ⟨leafAddr e l a, e, l⟩

/-- A walk whose result the core's TLB will hold: one in flight for a page that neither it nor its quad's holds, where a
walker of the die is free (R301).  A page that the quad holds comes to the core with no walk. -/
def State.startWalk (s : State) (core ctx va : Nat) : State :=
  let page := pageOf va
  if (s.core core).tlb.any (fun t => t.ctx == ctx && t.page == page) ||
      s.walks.any (fun w => w.2.core == core && w.2.ctx == ctx && w.2.page == page) ||
      decide (walkers ≤ (s.walks.filter fun w => coreDie w.2.core == coreDie core).length) then s
  else { s with walks := Tab.put s.nextId ⟨core, ctx, page⟩ s.walks, nextId := s.nextId + 1 }

/-! ### Lineage of memory (R38) -/

/-- The slots that name one of `dead` among their sources, and so on (R370). -/
def dependents : Nat → Tab CabEntry → List Nat → List Nat
  | 0, _, dead => dead
  | n + 1, t, dead =>
    let more := (t.filter fun p => !dead.contains p.1 && p.2.key.srcs.any dead.contains).map Prod.fst
    if more.isEmpty then dead else dependents n t (dead ++ more)

/-- Untag entries: they leave the cabinet with every entry whose key names them, and no register of the core maps to
them any more as tagged (R40, R370). -/
def State.untag (s : State) (core : Nat) (p : Nat → CabEntry → Bool) : State :=
  let c := s.core core
  let first := (Tab.sub p c.cabinet).map Prod.fst
  if first.isEmpty then s else
  let dead := dependents c.cabinet.length c.cabinet first
  let keep := fun (t : Tab Nat) => t.filter fun q => !dead.contains q.2
  let clean := fun (ps : List Pending) => ps.map fun q =>
    match q.eff with
    | .vec ws (some n) => if dead.contains n then { q with eff := .vec ws none } else q
    | .scalar r v (some n) => if dead.contains n then { q with eff := .scalar r v none } else q
    | _ => q
  { s.setCore core { c with cabinet := c.cabinet.filter fun q => !dead.contains q.1 } with
    ops := s.ops.map fun q =>
      match q.2.kind with
      | .result l w f (some n) =>
        if q.2.core == core && dead.contains n then (q.1, { q.2 with kind := .result l w f none }) else q
      | .load r =>
        if q.2.core == core && r.tag.any dead.contains then (q.1, { q.2 with kind := .load { r with tag := none } }) else q
      | _ => q
    skeins := s.skeins.map fun q =>
      if q.1 / 65 == core then
        (q.1, { q.2 with vtag := keep q.2.vtag, stag := keep q.2.stag, pending := clean q.2.pending })
      else q }

/-- Recorded lines and granules are numbered apart: global lines as 2n, scratchpad granules of a panel as 2(n + panel ×
2^12) + 1. -/
def globLine (pa : Nat) : Nat := 2 * (pa / 256)
def padGranule (panel off : Nat) : Nat := 2 * (off / 256 + panel * 2 ^ 12) + 1

/-- A write to lines or granules untags the load-rooted entries that record one of them (R38). -/
def State.untagLines (s : State) (core : Nat) (lines : List Nat) : State :=
  s.untag core fun _ e => e.loadRooted && e.lines.any lines.contains
/-- An acquire, `CINV`, a shootdown or a latch change untags every load-rooted entry of the core (R38). -/
def State.untagLoads (s : State) (core : Nat) : State := s.untag core fun _ e => e.loadRooted

/-! ### Monitors (R202) -/

/-- A write to a watched line wakes the gangs that wait on it. -/
def wakeSkein (pad : Option Nat) (line : Nat) (k : Skein) : Skein :=
  { k with gangs := k.gangs.map fun p => (p.1, if p.2.wait == some (.monitor pad line) then { p.2 with woken := true } else p.2) }
def State.wakeLine (s : State) (pad : Option Nat) (line : Nat) : State :=
  { s with skeins := Tab.mapv (wakeSkein pad line) s.skeins }

/-! ### Writes at home -/

/-- Perform a write at its home (R263, R268, R202); a guest copy of the sector on the writer's die shows it once the write
is acknowledged (R265; log 21). -/
def State.performAtHome (s : State) (core sector : Nat) (bs : Tab Byte) : State :=
  let m := if isFoyer (sector * 64) then s.mem else s.mem.makeWay (dieOf (sector * 64)) (sector / 4)
  let m := (m.homeWrite (coreDie core) sector bs s.nextId).seen (coreDie core) sector
  ({ s with mem := m, nextId := s.nextId + 1 }).wakeLine none (sector * 64 / 256)

/-- Group bytes by sector. -/
def bySector (bs : List (Nat × Byte)) : Tab (Tab Byte) :=
  bs.foldl (fun t p => Tab.upd [] (p.1 / 64) (Tab.put (p.1 % 64) p.2) t) []

/-- Perform a list of byte writes at their homes, sector by sector. -/
def State.writeHome (s : State) (core : Nat) (bs : List (Nat × Byte)) : State :=
  (bySector bs).foldl (fun s p => s.performAtHome core p.1 p.2) s

/-! ### L1 and store-combining buffer -/

/-- The launch asked for quad-fused L1 (R286). -/
def State.fused (s : State) (launch : Nat) : Bool := (s.launch launch).block.flags.getLsbD 3
/-- The core whose L1 holds a line (R286). -/
def l1Home (fused : Bool) (core pa : Nat) : Nat := if fused then core / 4 * 4 + bitsOf pa 8 2 else core

/-- Units of the pool (R280). -/
def poolUnits : Nat := 112
/-- The units allotted to the panels of a core (R280). -/
def State.unitsOn (s : State) (core : Nat) : List Nat :=
  (s.panels.filter fun p => p.2.core == core && ((p.2.life != .ended && p.2.life != .saved) || p.2.reserved)).flatMap fun p => p.2.units
/-- 4 KiB units allotted on a core; the others are lent to the L1 (R280). -/
def State.unitsUsed (s : State) (core : Nat) : Nat :=
  (s.panels.filter fun p => p.2.core == core && ((p.2.life != .ended && p.2.life != .saved) || p.2.reserved)).foldl
    (fun n p => n + p.2.scratchUnits) 0
/-- The units lent to the L1, each a way of every set (R280). -/
def State.lentUnits (s : State) (core : Nat) : List Nat :=
  let used := s.unitsOn core
  (List.range poolUnits).filter fun u => !used.contains u

/-- Lines of a set. -/
def Core.setLines (c : Core) (set : Nat) : Tab L1Line := c.l1.filter fun p => p.1 % 16 == set
/-- A line holds a withheld sector. -/
def Core.holdsWithheld (c : Core) (line : Nat) : Bool := c.withheld.any fun p => p.1 / 4 == line
/-- The least recently used line of those that a test accepts. -/
def oldestLine (ls : Tab L1Line) : Option Nat :=
  (ls.foldl (fun best p =>
    match best with
    | none => some p
    | some q => if p.2.stamp < q.2.stamp then some p else best) none).map Prod.fst
/-- The line to replace in a set: the least recently used without a withheld sector, or where every way holds one, the
least recently used (R284). -/
def Core.lruLine (c : Core) (set : Nat) : Option Nat :=
  match oldestLine ((c.setLines set).filter fun p => !c.holdsWithheld p.1) with
  | some l => some l
  | none => oldestLine (c.setLines set)
def L1Line.empty (stamp way : Nat) : L1Line := ⟨0, [], stamp, way⟩
/-- Invalidate a line; one that holds a withheld sector keeps its way (R283). -/
def Core.dropLine (c : Core) (line : Nat) : Core :=
  match Tab.find? line c.l1 with
  | some x => { c with l1 := if c.holdsWithheld line then Tab.put line { x with valid := 0, data := [] } c.l1 else Tab.del line c.l1 }
  | none => c

/-- Fill a sector of a line of the L1 with data (R283). -/
def Core.fill (c : Core) (sector : Nat) (data : List Byte) : Core :=
  let x := Tab.get (L1Line.empty 0 0) c.l1 (sector / 4)
  { c with
    stamp := c.stamp + 1
    l1 := Tab.put (sector / 4)
      { x with
        valid := x.valid ||| (1 <<< (sector % 4))
        data := data.zipIdx.foldl (fun t p => Tab.put (sector % 4 * 64 + p.2) p.1 t) x.data
        stamp := c.stamp } c.l1 }

/-- Send a message of the bounded protocol. -/
def State.sendB (s : State) (m : BMsg) : State :=
  { s with mem := { s.mem with msgs := Tab.put s.nextId m s.mem.msgs }, nextId := s.nextId + 1 }
/-- A holding ends at its holder: its sums go to the home in a drain that ends it (R293). -/
def State.endHolding (s : State) (core sector : Nat) : State :=
  let c := s.core core
  match Tab.find? sector c.withheld with
  | some h =>
    (s.setCore core { c with withheld := Tab.del sector c.withheld }).sendB
      ⟨sector, core, h.launch, .drain h.sums true none⟩
  | none => s

/-- A line leaves the L1 with its holdings (R284). -/
def State.replaceLine (s : State) (core line : Nat) : State :=
  let s := (List.range 4).foldl (fun s i => s.endHolding core (4 * line + i)) s
  let c := s.core core
  s.setCore core { c with l1 := Tab.del line c.l1 }
/-- A way for a line: it has one, a lent unit's way of its set is free, or the line of R284 is replaced. -/
def State.makeRoom (s : State) (core line : Nat) : State :=
  let c := s.core core
  if (Tab.find? line c.l1).isSome then s else
  let taken := (c.setLines (line % 16)).map fun p => p.2.way
  let place := fun (s : State) (u : Nat) =>
    let c := s.core core
    s.setCore core { c with l1 := Tab.put line (L1Line.empty c.stamp u) c.l1 }
  match (s.lentUnits core).find? fun u => !taken.contains u with
  | some u => place s u
  | none =>
    match c.lruLine (line % 16) with
    | some v => place (s.replaceLine core v) (Tab.get (L1Line.empty 0 0) c.l1 v).way
    | none => s

/-- The L1 of a core holds a sector valid. -/
def Core.l1Has (c : Core) (sector : Nat) : Bool :=
  match Tab.find? (sector / 4) c.l1 with
  | some x => x.valid.getLsbD (sector % 4)
  | none => false
/-- A byte of a valid L1 sector. -/
def Core.l1Byte (c : Core) (pa : Nat) : Byte :=
  match Tab.find? (pa / 256) c.l1 with
  | some x => Tab.get 0 x.data (pa % 256)
  | none => 0
/-- A byte waiting in the store-combining buffer. -/
def Core.scbByte (c : Core) (pa : Nat) : Option Byte :=
  c.scb.findSome? fun e => if e.sector == pa / 64 then Tab.find? (pa % 64) e.bytes else none
/-- The cores whose accesses are accepted in one order at a line: the core, or its quad under quad-fused L1 (R286). -/
def quadOf (fused : Bool) (core : Nat) : List Nat := if fused then (List.range 4).map (core / 4 * 4 + ·) else [core]
/-- A byte that one of these cores has buffered; no two of them buffer one sector (`acceptSector`). -/
def State.bufferedByte (s : State) (fused : Bool) (core pa : Nat) : Option Byte :=
  (quadOf fused core).findSome? fun c => (s.core c).scbByte pa

/-- How a load reaches its bytes (Table 6.2): through L1, or at the home. -/
inductive Path where
  | l1 | home
  deriving DecidableEq, Repr

/-- A miss in L1: the die serves the sector, and it is filled unless it is withheld. -/
def State.fillSector (s : State) (hc : Nat) (fused : Bool) (core sector : Nat) : State :=
  let (m, d) := s.mem.dieSector (coreDie core) sector
  let s := s.setMem m
  if (Tab.find? sector (s.core hc).withheld).isSome then s
  else
    let s := s.makeRoom hc (sector / 4)
    s.setCore hc ((s.core hc).fill sector (d.zipIdx.map fun p => (s.bufferedByte fused core (sector * 64 + p.2)).getD p.1))
/-- Bring the sector of `pa` where a load will read it; what the core has buffered comes over what is filled (R265).  A
withheld sector, the foyer and a page not kept in L1 are not filled (R283, R300, R306). -/
def State.fetchSector (s : State) (core : Nat) (fused : Bool) (path : Path) (pa : Nat) : State :=
  let sector := pa / 64
  let hc := l1Home fused core pa
  if isFoyer pa then s else
  match path with
  | .home => s.setMem ((s.mem.dieSector (dieOf pa) sector).1.seen (coreDie core) sector)
  | .l1 =>
    let c := s.core hc
    match Tab.find? (sector / 4) c.l1 with
    | some x =>
      if x.valid.getLsbD (sector % 4) then
        s.setCore hc { c with stamp := c.stamp + 1, l1 := Tab.put (sector / 4) { x with stamp := c.stamp } c.l1 }
      else s.fillSector hc fused core sector
    | none => s.fillSector hc fused core sector
/-- The byte that a load reads after its sector was brought in: a buffered write, else L1, else the L2 that serves it (R265,
R268). -/
def State.loadByte (s : State) (core : Nat) (fused : Bool) (path : Path) (pa : Nat) : Byte :=
  match s.bufferedByte fused core pa with
  | some b => b
  | none =>
    match path with
    | .home => s.mem.homeByte pa
    | .l1 =>
      let c := s.core (l1Home fused core pa)
      if isFoyer pa then s.mem.homeByte pa
      else if c.l1Has (pa / 64) then c.l1Byte pa
      else
        match (if dieOf pa = coreDie core then none else Tab.find? (guestKey (coreDie core) (pa / 64)) s.mem.guest) with
        | some d => d.getD (pa % 64) 0
        | none => s.mem.homeByte pa

/-- Whether a load of `pa` meets an uncorrectable sector where it is served (R297). -/
def State.badAccess (s : State) (core : Nat) (fused : Bool) (path : Path) (pa : Nat) : Bool :=
  !isFoyer pa && s.mem.isBad (pa / 64) &&
  (match path with
  | .home => true
  | .l1 => !(s.core (l1Home fused core pa)).l1Has (pa / 64))

/-- Drain one store-combining entry to its home (R285). -/
def State.drainEntry (s : State) (core : Nat) (e : ScbEntry) : State :=
  let c := s.core core
  (s.setCore core { c with scb := c.scb.filter (·.sector != e.sector) }).performAtHome core e.sector e.bytes
/-- Drain the entries that a test names, oldest first (R285). -/
def State.drainScb (s : State) (core : Nat) (p : ScbEntry → Bool) : State :=
  ((s.core core).scb.filter p).foldl (fun s e => s.drainEntry core e) s
/-- Entries of the store-combining buffer (R285). -/
def scbSize : Nat := 32

/-- The core's address unit accepts the bytes that one sector receives: the buffer merges them or takes an entry,
draining its oldest where it is full, and a line in L1 is updated (R265, R285).  Under quad-fused L1 what another core of
the quad has buffered for the sector, accepted earlier, drains first (R286). -/
def State.acceptSector (s : State) (core : Nat) (fused : Bool) (sk sector : Nat) (bs : Tab Byte) : State :=
  let s := ((quadOf fused core).filter (· != core)).foldl (fun s c => s.drainScb c fun e => e.sector == sector) s
  let c := s.core core
  let known := c.scb.any (·.sector == sector)
  let s := if known || decide (c.scb.length < scbSize) then s
    else match c.scb with | e :: _ => s.drainEntry core e | [] => s
  let c := s.core core
  let merge := fun (e : ScbEntry) =>
    if e.sector == sector then
      ({ e with
        bytes := bs.foldl (fun t p => Tab.put p.1 p.2 t) e.bytes
        skeins := if e.skeins.contains sk then e.skeins else sk :: e.skeins } : ScbEntry)
    else e
  let scb := if known then c.scb.map merge else c.scb ++ [⟨sector, bs, [sk]⟩]
  let s := s.setCore core { c with scb := scb }
  let hc := l1Home fused core (sector * 64)
  let h := s.core hc
  if h.l1Has sector then
    let x := Tab.get (L1Line.empty 0 0) h.l1 (sector / 4)
    let y : L1Line := { x with data := bs.foldl (fun t p => Tab.put (sector % 4 * 64 + p.1) p.2 t) x.data }
    s.setCore hc { h with l1 := Tab.put (sector / 4) y h.l1 }
  else s

/-- Accept a global write (R188, R265): it untags lineage, and lies in the buffer until it drains. -/
def State.acceptWrite (s : State) (core : Nat) (fused : Bool) (sk : Nat) (bs : List (Nat × Byte)) : State :=
  let s := s.untagLines core ((bs.map fun p => globLine p.1).eraseDups)
  (bySector bs).foldl (fun s p => s.acceptSector core fused sk p.1 p.2) s

/-- Invalidate lines of the L1 of a core, or of its quad under quad-fused L1 (R186, R286); the store-combining buffers keep
what the cores wrote, and every later load of them looks there first (R269). -/
def State.invalidateL1 (s : State) (core : Nat) (fused : Bool) (p : Nat → Bool) : State :=
  (quadOf fused core).foldl (fun s c =>
    let k := s.core c
    s.setCore c (((k.l1.map Prod.fst).filter p).foldl Core.dropLine k)) s

/-- The acquire of R186 at a scope: the L1 is invalidated and the core's load-rooted lineage untagged; beyond the die, the
die has applied what other dies had (R264, R268). -/
def State.acquire (s : State) (core : Nat) (fused : Bool) (sc : Scope) : State :=
  let s := if wide sc then s.setMem (s.mem.joinDies (coreDie core)) else s
  (s.invalidateL1 core fused fun _ => true).untagLoads core

/-- The release at a scope: what the core has buffered drains to its homes (R188, R194, R285); only beyond the core is it
then applied there for sure, so for `.core` a free bit says whether the drain has gone so far (R264, R269).  Beyond the die,
the core's die has applied what every home had, so that later writes of the core carry it (R268). -/
def State.release (s : State) (core : Nat) (sc : Scope) : State :=
  let s := if sc == .core && Config.coin s.tick core then s else s.drainScb core fun _ => true
  if wide sc then s.setMem (s.mem.joinDies (coreDie core)) else s

/-! ### Scratchpad -/

/-- A panel's allotment in bytes (R280). -/
def Panel.padSize (p : Panel) : Nat := p.scratchUnits * 4096
def Panel.padBytes (p : Panel) (off n : Nat) : List Byte := p.scratch.readN off n
/-- Put bytes into a panel's scratchpad; a watched line wakes those who wait on it (R202). -/
def State.padPut (s : State) (panel : Nat) (bs : List (Nat × Byte)) : State :=
  let p := s.panel panel
  let s := s.setPanel panel { p with scratch := bs.foldl (fun m q => m.write q.1 q.2) p.scratch }
  ((bs.map fun q => q.1 / 256).eraseDups).foldl (fun s l => s.wakeLine (some panel) l) s
/-- Write bytes into a panel's scratchpad, which untags the lineage of their granules (R38). -/
def State.padWrite (s : State) (panel : Nat) (bs : List (Nat × Byte)) : State :=
  (s.untagLines (s.panel panel).core ((bs.map fun q => padGranule panel q.1).eraseDups)).padPut panel bs

/-! ### Reading and writing through a context, for agents that no TLB serves -/

/-- Translate through a context's tables at a world's permission. -/
def State.walkCtx (s : State) (ctx va world : Nat) (n : Need) : Except Nat Xlat :=
  if !canonical va then .error 0x02 else
  match walkFrom s.mem world (va % 2 ^ 57) n 4 (s.context ctx).root with
  | .error f => .error f
  | .ok (e, l) => .ok ⟨leafAddr e l (va % 2 ^ 57), e, l⟩

/-- `n` bytes at a virtual address at their homes, or the first fault (R297, R313, R327). -/
def State.readCtx (s : State) (ctx va world : Nat) : Nat → Except Nat (List Byte)
  | 0 => .ok []
  | n + 1 =>
    match s.walkCtx ctx va world needR with
    | .error f => .error f
    | .ok x =>
      if !isFoyer x.pa && s.mem.isBad (x.pa / 64) then .error 0x05 else
      match s.readCtx ctx (va + 1) world n with
      | .error f => .error f
      | .ok bs => .ok (s.mem.homeByte x.pa :: bs)

/-- Write bytes at a virtual address at their homes, where it translates; other bytes are not written. -/
def State.writeCtx (s : State) (ctx va world : Nat) (bs : List Byte) : State :=
  let ws := bs.zipIdx.filterMap fun p =>
    match s.walkCtx ctx (va + p.2) world needW with
    | .ok x => some (x.pa, p.1)
    | .error _ => none
  s.writeHome 0 ws

end Sys2Proof.Machine
end

