-- ==== Sys2Proof/Machine/Holdings.lean ====
section
/-! DEFINITION. The homes of bounded sectors (R292 to R294): what they keep, the sums that arrive there, and the end of a
holding at once. -/

namespace Sys2Proof.Machine

/-- x + y in binary32, rounded in a direction, neither DAZ nor FTZ. -/
def addDir (rm : Rm) (x y : Word) : Word :=
  BitVec.ofNat 32 (fpAdd ⟨f32, rm, false, false⟩ (f32.decode x.toNat) (f32.decode y.toNat)).1
def State.home (s : State) (sector : Nat) (ease : Word) : HomeSector := Tab.get (HomeSector.new ease) s.mem.homes sector
def State.setHome (s : State) (sector : Nat) (h : HomeSector) : State :=
  { s with mem := { s.mem with homes := Tab.put sector h s.mem.homes } }
/-- A holder leaves the list, and its share returns to the remainder. -/
def HomeSector.leave (h : HomeSector) (core : Nat) : HomeSector :=
  match h.holders.find? (fun p => p.1 == core) with
  | some p => { h with holders := h.holders.filter (fun q => q.1 != core), rest := addDir .rz h.rest p.2 }
  | none => h
/-- round_rne(x + y). -/
def addRne (x y : Word) : Word :=
  BitVec.ofNat 32 (fpAdd ⟨f32, .rne, false, false⟩ (f32.decode x.toNat) (f32.decode y.toNat)).1

/-! ### Sums at the home -/

/-- Change the operation that a lane of a `REDBV` belongs to; one with no lane left is done. -/
def State.modAdds (s : State) (id : Nat) (f : List BAdd → List BAdd) : State :=
  match s.op id with
  | some o =>
    match o.kind with
    | .redbv as =>
      let as := f as
      if as.isEmpty then (s.delOp id).endFlag o else s.setOp id { o with kind := .redbv as }
    | _ => s
  | none => s
/-- A lane is accepted. -/
def State.acceptAdd (s : State) (id lane : Nat) : State := s.modAdds id fun as => as.filter (·.lane != lane)
/-- Add drained values into the elements at the home, each one RNE rounding (R293). -/
def State.addSums (s : State) (core : Nat) : List (Nat × Word) → State
  | [] => s
  | (pa, a) :: t =>
    let v := addRne (BitVec.ofNat 32 (s.mem.homeNat pa 4)) a
    (s.writeHome core ((leBytes 4 v.toNat).zipIdx.map fun p => (pa + p.2, p.1))).addSums core t
/-- The value of the element goes back to the `LDTOL`, whose last value ends it as a load (R294). -/
def State.replyTol (s : State) (id elem key : Nat) : State :=
  match s.op id with
  | some o =>
    match o.kind with
    | .ldtol eps keys got =>
      let s := s.setMem (s.mem.seen (coreDie o.core) (elem / 64))
      let got := got ++ [(key, ⟨BitVec.ofNat 32 (s.mem.homeNat elem 4), false⟩)]
      s.setOp id { o with kind := if got.length = keys.length then .result true got 0 none else .ldtol eps keys got }
    | _ => s
  | none => s

/-- A drain arrives: the home adds the carried values, and acknowledges a drain that does not end the holding (R293). -/
def State.arriveDrain (s : State) (m : BMsg) : State :=
  match m.kind with
  | .drain sums ends carry =>
    let s := s.addSums m.core sums
    let s := match carry with | some c => s.acceptAdd c.1 c.2 | none => s
    if ends then s.setHome m.sector ((s.home m.sector 0).leave m.core)
    else s.sendB ⟨m.sector, m.core, m.launch, .drainAck⟩
  | _ => s
/-- The home replies to the `LDTOL` once no answer is missing. -/
def State.endTol (s : State) (sector : Nat) : State :=
  let h := s.home sector 0
  match h.asked with
  | some (op, elem, key) =>
    if h.waiting.isEmpty then (s.setHome sector { h with asked := none }).replyTol op elem key else s
  | none => s
/-- An answer to an unpick arrives: the home applies it, and replies once no answer is missing (R294). -/
def State.arriveAnswer (s : State) (m : BMsg) : State :=
  match m.kind with
  | .answer sums =>
    let s := s.addSums m.core sums
    let h := (s.home m.sector 0).leave m.core
    (s.setHome m.sector { h with waiting := h.waiting.filter (· != m.core) }).endTol m.sector
  | _ => s

/-! ### Ending holdings at once (R281, R295, R304, R326, R340, R348) -/

/-- The message brings sums to the home. -/
def BKind.carries : BKind → Bool
  | .drain _ _ _ | .answer _ => true
  | _ => false
/-- Deliver at once, in the order they were sent, the messages with sums that a test names. -/
def State.deliverSums (s : State) (p : BMsg → Bool) : State :=
  (s.mem.msgs.filter fun q => q.2.kind.carries && p q.2).foldl (fun s q =>
    let s := { s with mem := { s.mem with msgs := Tab.del q.1 s.mem.msgs } }
    match q.2.kind with
    | .answer _ => s.arriveAnswer q.2
    | _ => s.arriveDrain q.2) s
/-- End the holding of a sector at a core, with what the core has sent for it before. -/
def State.flushHolding (s : State) (core sector : Nat) : State :=
  (s.endHolding core sector).deliverSums fun m => m.core == core && m.sector == sector
/-- End the holdings of a core that a test names. -/
def State.flushHoldings (s : State) (core : Nat) (p : Nat → Withheld → Bool) : State :=
  ((Tab.sub p (s.core core).withheld).map Prod.fst).foldl (fun s sec => s.flushHolding core sec) s
/-- End every holding of a launch, on any core; what has left a core for it before arrives too. -/
def State.flushLaunch (s : State) (seq : Nat) : State :=
  ((s.cores.map Prod.fst).foldl (fun s c => s.flushHoldings c fun _ h => h.launch == seq) s).deliverSums fun m => m.launch == seq
/-- End every holding of the sectors that a test names, on any core, with the sums on their way there (R302, R304). -/
def State.flushSectors (s : State) (p : Nat → Bool) : State :=
  ((s.cores.map Prod.fst).foldl (fun s c => s.flushHoldings c fun sec _ => p sec) s).deliverSums fun m => p m.sector

end Sys2Proof.Machine
end

