-- ==== Sys2Proof/Machine/Ends.lean ====
section
/-! DEFINITION. The end of a launch and of its panels when it is stopped (R325, R328, R342), and its provenance record. -/

namespace Sys2Proof.Machine

/-- Codes of Table 11.5. -/
def LaunchStatus.code : LaunchStatus → Nat
  | .ok => 0
  | .refused => 1
  | .depfail => 2
  | .watchdog => 3
  | .reset => 4
  | .aborted => 5

/-- Digests are written unless the mask of a protected world denies them (R328, Table 13.1). -/
def State.digestsOk (s : State) (l : Launch) : Bool :=
  let c := s.context l.block.context
  l.block.world == 0 || c.mask.getLsbD 4

/-- The 128 bytes of a provenance record (Table 11.5); digests are zero but after a normal end (R325). -/
def provBytes (s : State) (seq : Nat) (l : Launch) : List Byte :=
  let dig := s.digestsOk l && l.status == .ok
  let flags := (if l.block.flags.getLsbD 1 then 1 else 0) + (if dig then 2 else 0) + (if l.digfail then 4 else 0)
  leBytes 8 seq ++ leBytes 1 l.queue ++ leBytes 1 flags ++ leBytes 1 l.block.qexp ++ leBytes 1 l.block.world ++
    leBytes 4 l.status.code ++ leBytes 8 l.block.seed.toNat ++ leBytes 8 l.block.ctrbase.toNat ++
    padTo 48 (if dig then l.codeDigest else []) ++ padTo 48 (if dig && !l.digfail then l.outDigest else [])

/-- The vitrine says that its launch is complete. -/
def State.noteEnd (s : State) (seq : Nat) : State :=
  if s.vit.launched == some seq then
    { s with vit := { s.vit with launched := none, out := s.vit.out ++ ["launch complete"] } }
  else s
/-- Write a provenance record into its queue's ring and signal; the launch then completes (R326, R328, R358). -/
def State.writeProv (s : State) (seq q : Nat) (bs : List Byte) : State :=
  let r := (s.queue q).prov
  let s := s.hostWrite (r.slot 128) bs
  let s := s.setQueue q { s.queue q with prov := { r with tail := r.tail + 1 } }
  ((s.setLaunch seq { s.launch seq with life := .ended }).signal q).noteEnd seq

/-- With the last running launch of a context go the collectives that have failed for participants who will not come. -/
def State.dropColls (s : State) (seq : Nat) : State :=
  let ctx := (s.launch seq).block.context
  if s.launches.any fun q => q.1 != seq && q.2.block.context == ctx && q.2.life == .running then s
  else { s with collBad := s.collBad.filter fun b => b.1 != ctx }
/-- The record waits while its ring is full or its context quarantined (R357, R367). -/
def State.postProv (s : State) (seq : Nat) : State :=
  let s := s.dropColls seq
  let l := s.launch seq
  let bs := provBytes s seq l
  if (s.queue l.queue).prov.full || (s.context l.block.context).quarantined then
    (s.setLaunch seq { l with life := .recording }).setHost
      { s.host with heldProv := s.host.heldProv ++ [(seq, ⟨bs, some l.block.context⟩)] }
  else s.writeProv seq l.queue bs

/-- Write the held provenance records that now may go, in the order they were held. -/
def flushProvs : List (Nat × HeldRecord) → State → State
  | [], s => s.setHost { s.host with heldProv := [] }
  | (seq, h) :: t, s =>
    let l := s.launch seq
    if (s.queue l.queue).prov.full || s.holds h.ctx then
      let s' := flushProvs t s
      s'.setHost { s'.host with heldProv := (seq, h) :: s'.host.heldProv }
    else flushProvs t (s.writeProv seq l.queue h.bytes)

/-- Every held record that now may go is written (R357, R367). -/
def State.flushHeld (s : State) : State :=
  let s := flushErrs s.host.heldErr s
  let s := flushFaults s.host.heldFault s
  flushProvs s.host.heldProv s

/-- The skeins of a panel that are resident, its trap skein apart. -/
def State.panelSkeins (s : State) (p : Nat) : List Nat :=
  (s.skeins.filter fun q => q.2.panel == p && q.2.slot != trapSlot).map Prod.fst
/-- The panels of a launch that hold a core. -/
def State.launchPanels (s : State) (seq : Nat) : List Nat :=
  (s.panels.filter fun q => q.2.launch == seq && q.2.life != .ended).map Prod.fst

/-- Free the launch slot of a core that holds no panel of the launch any more; its cabinet entries are untagged first
(R316). -/
def State.freeSlot (s : State) (core seq : Nat) : State :=
  if s.panels.any (fun q => q.2.launch == seq && q.2.core == core && q.2.life != .ended && q.2.life != .saved) then s
  else
    let c := s.core core
    match c.slots.findIdx? (· == some seq) with
    | none => s
    | some i =>
      let s := s.untag core fun _ e => e.key.launchSlot == i
      let c := s.core core
      s.setCore core { c with slots := c.slots.set i none }

/-- Take a panel off its core at once: its skeins, its operations in flight, its queued traps and its trap skein go
(R325, R342).  What an ended panel has staged stays for its commit (R277). -/
def State.removePanel (s : State) (p : Nat) (life : PanelLife) : State :=
  let x := s.panel p
  let ks := s.panelSkeins p
  let c := s.core x.core
  let serving := match c.serving with | some t => t.panel == p | none => false
  let gone := (s.ops.filter fun q => q.2.panel == p && !(life == .ended && q.2.staged)).map Prod.fst
  let s := { s with
    skeins := s.skeins.filter fun q => !(ks.contains q.1 || (serving && q.1 == skKey x.core trapSlot))
    ops := s.ops.filter fun q => !gone.contains q.1 }
  let s := s.setCore x.core { c with
    trapQ := c.trapQ.filter (·.panel != p)
    serving := if serving then none else c.serving
    trapDead := c.trapDead && !serving
    queue := c.queue.filter fun id => !gone.contains id }
  let s := s.setPanel p { x with
    life := life
    accs := []
    lent := .zero
    scratch := []
    spools := []
    slots := []
    savedLeft := if life == .ended then [] else x.savedLeft
    reserved := x.reserved && life != .ended }
  s.freeSlot x.core x.launch

/-- The launch has been accepted and has not ended. -/
def Launch.live (l : Launch) : Bool := l.life == .waiting || l.life == .running || l.life == .closing
/-- Withheld sums of a launch on any core go without a drain, and the homes' lists with them (R342). -/
def State.dropWithheld (s : State) (seq : Nat) : State :=
  let gone := s.cores.flatMap fun c => (Tab.sub (fun _ h => h.launch == seq) c.2.withheld).map fun h => (c.1, h.1)
  let s := { s with cores := Tab.mapv (fun c => { c with withheld := c.withheld.filter fun q => q.2.launch != seq }) s.cores }
  gone.foldl (fun s g => s.setHome g.2 ((s.home g.2 0).leave g.1)) s

/-- A launch that is stopped: every skein stops at once, digests are not taken, the record is written (R325).  An abort
drains the sums withheld for it first (R295); a reset, and the watchdog's, clear them without a drain (R342). -/
def State.stopLaunch (s : State) (seq : Nat) (st : LaunchStatus) : State :=
  let l := s.launch seq
  if l.life == .ended || l.life == .recording then s else
  let s := (s.panels.filter fun q => q.2.launch == seq).foldl (fun s q => s.removePanel q.1 .ended) s
  let s := if st == .aborted then s.flushLaunch seq else s.dropWithheld seq
  let s := { s with ops := s.ops.filter fun q => q.2.launch != seq }
  (s.setLaunch seq { s.launch seq with status := st, life := .closing, grant := [] }).postProv seq

/-- Every launch of a context that has been accepted and has not ended. -/
def State.ctxLaunches (s : State) (ctx : Nat) : List Nat :=
  (s.launches.filter fun q => q.2.block.context == ctx && q.2.life != .ended && q.2.life != .recording).map Prod.fst

/-- Panels of a context that wait in its image, or are being restored from it. -/
def State.savedPanels (s : State) (ctx : Nat) : List Nat :=
  (s.panels.filter fun q => (s.launch q.2.launch).block.context == ctx && !q.2.savedLeft.isEmpty).map Prod.fst
/-- A restore fails (R380): its panels are cleared from their cores with the sums withheld for them and the cores granted, the
context is saved as before, and a record is written. -/
def State.restoreFail (s : State) (ctx done : Nat) : State :=
  let ps := s.savedPanels ctx
  let s := ps.foldl (fun s p =>
    let x := s.panel p
    let s := if x.life == .saved then s else s.removePanel p .saved
    s.setPanel p { s.panel p with life := .saved, skeinsLeft := x.savedLeft }) s
  let s := (s.ctxLaunches ctx).foldl (fun s q =>
    let s := s.dropWithheld q
    s.setLaunch q { s.launch q with grant := [] }) s
  let c := s.context ctx
  (s.setContext ctx { c with life := .saved, trapsQueued := false }).postError
    ⟨.authFailed, 5, 0, some ctx, (s.panel (ps.headD 0)).launch, none,
      leBytes 4 ctx ++ leBytes 4 c.counter.toNat ++ leBytes 1 done⟩

/-- A tier-three reset of a context (R342): every skein of it stops at once, what its panels hold and the sums withheld for
it go without a drain, every resident launch ends RESET, and the record is written; it names the launch `seq`, or the first
that ends. -/
def State.resetContext (s : State) (ctx : Nat) (seq : Option Nat) : State :=
  let seqs := (s.ctxLaunches ctx).filter fun q => !(s.launchPanels q).isEmpty
  let s := seqs.foldl (fun s q => s.stopLaunch q .reset) s
  let c := s.context ctx
  (s.setContext ctx { c with life := .running, tierOne := false, collWait := false, trapsQueued := false }).postError
    ⟨.saveTimeout, 5, 0, some ctx, seq.getD (seqs.headD 0), none, []⟩
/-- Tier three of a pre-emption (R339, R341). -/
def State.tierThree (s : State) (ctx : Nat) : State := s.resetContext ctx none

end Sys2Proof.Machine
end

