-- ==== Sys2Proof/Machine/Flags.lean ====
section
/-! DEFINITION. The floating-point mode of a skein and its sticky flags (R21, R49, R52). -/

namespace Sys2Proof.Machine

/-- RM, FTZ and DAZ in force at issue. -/
def Skein.rm (k : Skein) : Rm := Rm.ofBits (k.status.extractLsb' 0 2)
def Skein.ftz (k : Skein) : Bool := k.status.getLsbD 2
def Skein.daz (k : Skein) : Bool := k.status.getLsbD 3
/-- The destination of FP arithmetic in a format under the skein's mode (Table 2.2). -/
def Skein.round (k : Skein) (f : Fmt) : Round := ⟨f, k.rm, k.ftz, false⟩
/-- A binary32 or binary64 source under the skein's DAZ. -/
def Skein.fin (k : Skein) (f : Fmt) (x : Nat) : Num := f.read k.daz x
/-- The mode bits that a floating-point key carries (R36). -/
def Skein.modeBits (k : Skein) : Nat := bitsOf k.status.toNat 0 4
/-- The OR of the flags of several lanes. -/
def orFlags (fs : List FpFlags) : FpFlags := fs.foldl (· ||| ·) 0
/-- Rounding and saturation of a conversion (R102). -/
def cvtRm (m : CvtMod) (k : Skein) : Rm :=
  match m with
  | .rm | .sat => k.rm
  | .rne | .rneSat => .rne
  | .rz | .rzSat => .rz
  | .rup => .rup
  | .rdn => .rdn
def cvtSat : CvtMod → Bool
  | .sat | .rneSat | .rzSat => true
  | _ => false

end Sys2Proof.Machine
end

