-- ==== Sys2Proof/Machine/Ops.lean ====
section
/-! DEFINITION. What the words of a group share: waiting at issue, taking a trap and returning from one, writing scalars
and vectors with their lineage, starting a long-latency word. -/

namespace Sys2Proof.Machine

/-! ### Waiting at issue (R76) -/

/-- The word does not issue; its gang waits. -/
def State.hold (s : State) (w : Wait) : State :=
  { s.setCur { s.cur with wait := some w, woken := false } with sig := .held w }
/-- A scalar among `rs` that is pending (R19). -/
def State.pendingOf (s : State) (rs : List SReg) : Option SReg := rs.find? fun r => (s.sreg r).pend.isSome
/-- A word that reads or writes a pending scalar does not issue (R19). -/
def State.awaits (s : State) (rs : List SReg) (body : Out) : Out :=
  match s.pendingOf rs with
  | some r => .next (s.hold (.future r))
  | none => body
/-- A word whose flag stands at 63 does not issue (R20). -/
def State.awaitsFlag (s : State) (fs : Bool) (body : Out) : Out :=
  match s.flagOf fs with
  | some n => if 63 ≤ s.me.flag n then .next (s.hold (.flagFull n)) else body
  | none => body

/-- The word ends the current region at the end of its packet (R22, R135, R136). -/
def State.commit (s : State) : State := s.setCur { s.cur with region := true }
/-- An operand-log entry of a skein is in use. -/
def Skein.logged (k : Skein) (p : LogEntry → Bool) : Bool := k.oplog.any fun q => q.2.valid && p q.2
/-- A barrier update whose scope check, the last of R198, is still to come. -/
def OpKind.mayFault : OpKind → Bool
  | .barrier u _ _ _ => (match u with | .init _ => false | _ => true)
  | _ => false
/-- Every page of a range translates for a core. -/
def State.pagesOk (s : State) (core ctx va len : Nat) (n : Need) : Bool :=
  (List.range ((va % 4096 + len + 4095) / 4096)).all fun i =>
    match s.translateAt core ctx ((va / 4096 + i) * 4096) n with | .ok _ => true | .error _ => false
/-- The same of one end of a copy. -/
def State.endOk (s : State) (core ctx len : Nat) (n : Need) : CopyEnd → Bool
  | .glob va => s.pagesOk core ctx va len n
  | .pad _ => true
/-- What is left of an asynchronous copy is translated. -/
def State.copyOk (s : State) (o : Op) : Bool :=
  let ctx := (s.launch o.launch).block.context
  match o.kind with
  | .copy dst src len _ _ _ _ _ _ => s.endOk o.core ctx len needW dst && s.endOk o.core ctx len needR src
  | .gather size ls _ _ _ => ls.all fun l => s.pagesOk o.core ctx l.1 size needR
  | _ => true
/-- A commit-class word waits until every operand-log entry of its skein has been replayed and every earlier memory word of
the skein translated, its copies with them (R181), and until no earlier word of the skein can raise FAULT any more (R182).
Every other check of a memory word is made at its issue. -/
def State.commitClass (s : State) (body : Out) : Out :=
  if s.me.logged (fun _ => true) ||
      s.ops.any (fun q => q.2.sk == s.curKey && !q.2.staged && (q.2.kind.mayFault || !s.copyOk q.2)) then
    .next (s.hold .earlier)
  else body

/-! ### Taking a trap (R42, R115, R143, R145, R146, R329, R330) -/

/-- Trap classes (Table 4.9). -/
inductive TrapClass where
  | illegal | poison | chk | trap | diverge | pattern | brk | fault | halt
  deriving DecidableEq, Repr

def TrapClass.code : TrapClass → Nat
  | .illegal => 1
  | .poison => 2
  | .chk => 3
  | .trap => 4
  | .diverge => 5
  | .pattern => 6
  | .brk => 7
  | .fault => 8
  | .halt => 9

/-- `trapcause` (Table 4.6). -/
def causeWord (c : TrapClass) (code accn idx : Nat) : Dword :=
  BitVec.ofNat 64 (c.code + (code % 4096) <<< 16 + (idx % 32) <<< 32 + (accn % 32) <<< 40)
/-- `trappc`: slot and packet of the trapping word. -/
def trapPc (slot : Nat) (pc : Pc) : BitVec 55 := BitVec.ofNat 55 (pc.toNat + (slot % 4) <<< 53)

/-- The PC of slice `sl`. -/
def Skein.pcOf (k : Skein) (sl : Nat) : Pc := Tab.get 0 k.pc sl
/-- Move the slices of a mask to a PC; exited slices keep theirs (R126). -/
def Skein.setPcs (k : Skein) (mask : BitVec 8) (t : Pc) : Skein :=
  { k with pc := (List.range 8).foldl (fun p sl => if mask.getLsbD sl && k.live sl then Tab.put sl t p else p) k.pc }
/-- The PC of the packet that the issuing gang stands at; a gang goes by its lowest slice. -/
def State.curPc (s : State) : Pc := s.me.pcOf s.curGang
/-- The packets of the clause from the current one on, with its flags; no record at a clause's first packet (R73). -/
def Cursor.stopRec (c : Cursor) : ClauseRec :=
  match c.phase with
  | .running => if c.first then .empty else ⟨BitVec.ofNat 4 c.packets.length, c.setB, c.setA⟩
  | .resume n => ⟨n, c.setB, c.setA⟩
  | _ => .empty
/-- The same from the next packet on. -/
def Cursor.stopAfter (c : Cursor) : ClauseRec :=
  if c.phase == .running && decide (1 < c.packets.length) then ⟨BitVec.ofNat 4 (c.packets.length - 1), c.setB, c.setA⟩
  else .empty

/-- The gang stands between packets (R83, R145): no word of its present packet has issued. -/
def Cursor.between (c : Cursor) : Bool :=
  match c.phase with
  | .running => decide (c.slot ≤ (if c.first then 1 else 0))
  | _ => true
/-- The packet after the last group that a skein issued, with the stop record there. -/
def Skein.lastPlace (k : Skein) : Pc × ClauseRec :=
  let g := if k.leaders.contains k.lastGang then k.lastGang else k.leaders.headD 0
  let c := k.cursor g
  if c.between then (k.pcOf g, c.stopRec) else (k.pcOf g + 1, c.stopAfter)

/-- A skein halts for a trap: every result already issued becomes visible (R83), and no gang issues. -/
def State.haltSkein (s : State) (k : Nat) : State :=
  let s := s.settleSkein k true
  s.modSkein k fun x => { x with halted := true, haltReq := false, gangs := [] }

/-- The trap of a skein reaches its core: queued where a TRAPBASE applies, else the launch ends ABORTED with an error
record (R330); a trap of the trap skein ends it with a record of class 0x08 (R143): it issues nothing more, and what it has issued
completes; a restore that it serves fails (R380). -/
def State.deliverTrap (s : State) (k : Nat) (t : TrapRec) : State :=
  let core := k / 65
  let p := s.panel t.panel
  let l := s.launch p.launch
  let ctx := some l.block.context
  let detail := leBytes 8 t.cause.toNat
  if k % 65 = trapSlot then
    let s := (s.setCore core { s.core core with trapDead := true }).postError
      ⟨.trapInTrap, 0, core, ctx, p.launch, none, detail⟩
    if (s.context l.block.context).life == .restoring then s.restoreFail l.block.context 0 else s
  else if l.trapbase.isSome then
    let c := s.core core
    s.setCore core { c with trapQ := c.trapQ ++ [t] }
  else
    (s.stopLaunch p.launch .aborted).postError ⟨.unhandledTrap, 0, core, ctx, p.launch, none, detail⟩

/-- A skein takes a trap: it halts with every slice at `at_` and the stop record `rec_`, and the trap is delivered.  A skein
that is already halted raises nothing further (R330). -/
def State.takeTrap (s : State) (k : Nat) (cls : TrapClass) (code accn slot : Nat) (wordPc at_ : Pc) (rec_ : ClauseRec)
    (addr : Dword) : State :=
  if (s.skein k).halted then s else
  let s := s.haltSkein k
  let s := s.modSkein k fun x => { x.setPcs 0xFF at_ with stopRec := rec_, trapped := true }
  let x := s.skein k
  s.deliverTrap k ⟨x.panel, x.idx, causeWord cls code accn x.idx, trapPc slot wordPc, addr, false⟩

/-- A precise trap of the word at the current slot (R115). -/
def State.trapNow (s : State) (cls : TrapClass) (code accn : Nat) (addr : Dword) : State :=
  { s.takeTrap s.curKey cls code accn s.cur.slot s.curPc s.curPc s.cur.stopRec addr with sig := .trapped }
def State.trap (s : State) (cls : TrapClass) (code : Nat) : Out := .next (s.trapNow cls code noAccn 0)
/-- The address that an accession record gives for a token (R331). -/
def Skein.accnAddr (k : Skein) (n : Nat) : Dword :=
  if n < 16 && (Tab.get 0 k.accession (4 * n)).getLsbD 63 then Tab.get 0 k.accession (4 * n + 1) else 0
/-- POISON or CHK with the code and index of a token (R115, R331). -/
def State.trapToken (s : State) (cls : TrapClass) (t : Nat) : State :=
  s.trapNow cls (tokenCode t) (tokenAccn t) (s.me.accnAddr (tokenAccn t))
def State.poison (s : State) (t : Nat) : Out := .next (s.trapToken .poison t)
/-- FAULT after issue: the PCs stand at the packet after (R182, R329, Table 12.1). -/
def State.faultNow (s : State) (code : Nat) (addr : Dword) : State :=
  { s.takeTrap s.curKey .fault code noAccn s.cur.slot s.curPc (s.curPc + 1) s.cur.stopAfter addr with sig := .faulted }
def State.fault (s : State) (code : Nat) (addr : Dword) : Out := .next (s.faultNow code addr)

/-- FAULT raised by a word that issued earlier (R183, R205, R335, R329); a skein that is already halted raises nothing
further (R330). -/
def State.lateFault (s : State) (k code slot : Nat) (wordPc : Pc) (addr : Dword) : State :=
  let x := s.skein k
  if !s.hasSkein k || x.halted then s
  else s.takeTrap k .fault code noAccn slot wordPc x.lastPlace.1 x.lastPlace.2 addr

/-- The first poisoned scalar raises POISON (R184, R213, R331). -/
def State.unpoisoned (s : State) (rs : List SReg) (body : Out) : Out :=
  match firstScalar (rs.map s.sreg) with
  | some t => s.poison t.toNat
  | none => body

/-- The trap skein ends: its registers go, and the skeins that it did not resume stay halted (R149). -/
def State.endTrap (s : State) (core : Nat) : State :=
  let s := s.delSkein (skKey core trapSlot)
  s.setCore core { s.core core with serving := none, trapDead := false }

/-! ### Lineage (R35 to R40, R370) -/

/-- A register source of a key. -/
inductive Src where
  | v (r : VReg)
  | s (r : SReg)
  deriving DecidableEq, Repr

def srcOf : VSrc → Src
  | .v r => .v r
  | .s r => .s r

/-- The cabinet slot that a register maps to as tagged; `zero` maps to none. -/
def Skein.tagOf (k : Skein) : Src → Option Nat
  | .v r => Tab.find? r.toNat k.vtag
  | .s r => if r = regZero then none else Tab.find? r.toNat k.stag

/-- The cabinet slots that the registers, results and operations of a core map to (R370). -/
def State.mapped (s : State) (core : Nat) : List Nat :=
  (s.skeins.flatMap fun q =>
    if q.1 / 65 == core then
      q.2.vtag.map Prod.snd ++ q.2.stag.map Prod.snd ++
        q.2.pending.filterMap fun p => match p.eff with | .vec _ t => t | .scalar _ _ t => t | _ => none
    else []) ++
  s.ops.filterMap fun q =>
    if q.2.core == core then (match q.2.kind with | .result _ _ _ t => t | .load r => r.tag | _ => none) else none

/-- The slots that a set of slots keeps alive through keys. -/
def reach : Nat → Tab CabEntry → List Nat → List Nat
  | 0, _, live => live
  | n + 1, t, live =>
    let more := ((t.filter fun p => live.contains p.1).flatMap fun p => p.2.key.srcs).filter fun x => !live.contains x
    if more.isEmpty then live else reach n t (live ++ more.eraseDups)

/-- Entries whose reference count is 0 are freed (R40, R370). -/
def State.sweep (s : State) (core : Nat) : State :=
  let c := s.core core
  if c.cabinet.isEmpty then s else
  let live := reach c.cabinet.length c.cabinet (s.mapped core)
  s.setCore core { c with cabinet := c.cabinet.filter fun p => live.contains p.1 }

/-- Bits of a word that a key's operation keeps, by major (R36): all but registers, immediates, C and the flag bit. -/
def keyMask : Nat → Word
  | 0x01 => 0x7C00007F
  | 0x02 | 0x05 => 0x7C003C00
  | 0x03 => 0x7C0C0FFF
  | 0x07 => 0x7C000003
  | 0x09 => 0x7C0000FE
  | 0x0B => 0x7C003FFF
  | 0x0E | 0x10 => 0x7C0000FD
  | _ => 0x7C0000FF

/-- A floating-point operation, whose key carries the mode in force (R36). -/
def isFp : Instr → Bool
  | .vfms _ _ _ _ | .vfma _ _ _ _ | .vfnma _ _ _ _ | .vfaddmin _ _ _ _ => true
  | .vred o _ _ | .vscan o _ _ => o == .addf || o == .minf || o == .maxf || o == .addd
  | .vfcmp _ _ _ _ => true
  | i => major i == 0x06 || major i == 0x08 || major i == 0x09 || major i == 0x0B

/-- The operation of a key: the code, with the operand order of major 0x07 (R98) and the mode of a floating-point word. -/
def Skein.keyOp (k : Skein) (i : Instr) : Nat :=
  let w := (encode false i).headD 0
  let swap := match i with | .vfnma _ _ _ _ | .vfaddmin _ _ _ _ => 1 | _ => 0
  ((w &&& keyMask (major i)).toNat * 2 + swap) * 16 + (if isFp i then k.modeBits else 0)

/-- The immediate of a key: the literal, or the field, zero-extended (R36). -/
def keyImm (i : Instr) : Word :=
  match encode false i with
  | [_, l] => l
  | [w] =>
    match major i with
    | 0x02 | 0x05 => (fld w 0 10).setWidth 32
    | 0x03 => if fld w 18 2 = 2 then 0 else (fld w 0 18).setWidth 32
    | 0x0E | 0x10 => if bit w 7 then 0 else (fld w 8 6).setWidth 32
    | _ => 0
  | _ => 0

/-- A result may be tagged: `em` all ones, all eight slices in the gang, no meld open (R35). -/
def State.mayTag (s : State) : Bool :=
  s.me.em == 0xFFFFFFFF && s.me.gangMask s.curGang == 0xFF && !s.me.meldOpen

/-- An entry takes its place in the cabinet, created or bound at this step (R324). -/
def State.useEntry (s : State) (n : Nat) (e : CabEntry) : State :=
  s.setCore s.curCore { s.myCore with cabinet := Tab.put n { e with last := s.tick } s.myCore.cabinet }
/-- Bind to the entry of this key, or enter it in the lowest free slot; with no free slot the result stays untagged. -/
def State.bindKey (s : State) (e : CabEntry) : State × Option Nat :=
  let s := s.sweep s.curCore
  let c := s.myCore
  match List.find? (fun p => p.2.key == e.key) c.cabinet with
  | some p => (s.useEntry p.1 p.2, some p.1)
  | none =>
    match firstFree 512 fun n => (Tab.find? n c.cabinet).isNone with
    | some n => (s.useEntry n e, some n)
    | none => (s, none)

/-- While the cabinet has no free slot, the core untags the entry whose last bind or creation is oldest (R324). -/
def State.untagOldest (s : State) (core : Nat) : State :=
  let s := s.sweep core
  match (s.core core).cabinet with
  | [] => s
  | q :: t =>
    if (firstFree 512 fun n => (Tab.find? n (q :: t)).isNone).isSome then s
    else
      let old := t.foldl (fun a b => if b.2.last < a.2.last then b else a) q
      s.untag core fun n _ => n == old.1

/-- A load from the scratchpad of its panel. -/
def readsPad : Instr → Bool
  | .ldp _ _ _ _ _ | .ldpSpec _ _ _ _ _ => true
  | _ => false
/-- The key of a word with these source registers, if every one is tagged (R35, R36). -/
def State.keyOf (s : State) (i : Instr) (srcs : List Src) : Option Key :=
  let ts := srcs.map s.me.tagOf
  match s.myCore.slots.findIdx? (· == some s.myPanel.launch) with
  | none => none
  | some n =>
    if s.mayTag && ts.all Option.isSome && decide (srcs.length ≤ 3) then
      some ⟨s.me.keyOp i, ts.filterMap id, keyImm i, n, if readsPad i then some s.me.panel else none⟩
    else none

/-- Lineage of a root or pure word (`some` source registers) or of one that has none (R35, R37).  Results of 64-bit
pairs and packed groups are never tagged (R153). -/
def State.lineage (s : State) (i : Instr) (srcs : Option (List Src)) (poisoned : Bool) (fl : FpFlags) :
    State × Option Nat :=
  match srcs with
  | none => (s, none)
  | some rs =>
    match s.keyOf i rs with
    | some k => if poisoned then (s, none) else s.bindKey ⟨k, i, [], fl, [], [], false, 0⟩
    | none => (s, none)

/-! ### Results of fixed latency -/

/-- Latencies in issue cycles (Table 3.2). -/
def latScl : Nat := 2
def latVec : Nat := 4
def latLane : Nat := 6

/-- A word writes a scalar: a poisoned value for `em` or `pm` raises POISON (R18). -/
def State.putScalar (s : State) (i : Instr) (lat : Nat) (d : SReg) (srcs : Option (List Src)) (v : Scalar)
    (fl : FpFlags) : Out :=
  if v.poison && (d == regEm || d == regPm) then s.poison v.val.toNat
  else
    let (s, t) := s.lineage i srcs v.poison fl
    let s := s.pend lat (.scalar d.toNat v (if d = regZero then none else t))
    .next (if fl = 0 then s else s.pend lat (.sticky fl))

/-- A scalar word: it waits on pending operands, and writes its result 2 issue cycles later (R116). -/
def State.scalarWord (s : State) (i : Instr) (d : SReg) (rs : List SReg) (srcs : Option (List Src)) (v : Dword) : Out :=
  s.awaits (d :: rs) (s.putScalar i latScl d srcs (scalarResult (rs.map s.sreg) v) 0)

/-- The result lanes of a word: register number, lane, value; `fl` are the sticky flags of the lanes together. -/
def State.putVec (s : State) (i : Instr) (lat : Nat) (srcs : Option (List Src)) (ws : List (Nat × Lane))
    (fl : FpFlags) : Out :=
  let one := decide ((laneRegs ws).length = 1)
  let (s, t) := s.lineage i (if one then srcs else none) (ws.any fun w => w.2.poison) fl
  let s := if ws.isEmpty then s else s.pend lat (.vec ws t)
  .next (if fl = 0 then s else s.pend lat (.sticky fl))

/-- A lane-wise word with one result register: `f l` is the lane's result and its flags. -/
def State.vecWord (s : State) (i : Instr) (lat : Nat) (d : VReg) (srcs : Option (List Src)) (f : Nat → Lane × FpFlags) :
    Out :=
  let rs := s.lanes.map fun l => (l, f l)
  s.putVec i lat srcs (rs.map fun r => (s.me.key d.toNat r.1, r.2.1)) (orFlags (rs.map fun r => r.2.2))

/-- The two register writes of a 64-bit lane result; a poisoned one writes its payload into both halves (R16). -/
def State.pairWrites (s : State) (d l : Nat) (v : Scalar) : List (Nat × Lane) :=
  let (lo, hi) := s.me.pairRegs d l
  let w := v.val.setWidth 32
  [(laneKey lo l, ⟨w, v.poison⟩), (laneKey hi l, ⟨if v.poison then w else v.val.extractLsb' 32 32, v.poison⟩)]

/-- A lane-wise word with a pair result. -/
def State.pairWord (s : State) (i : Instr) (lat : Nat) (d : VReg) (f : Nat → Scalar × FpFlags) : Out :=
  let rs := s.lanes.map fun l => (l, f l)
  s.putVec i lat none (rs.flatMap fun r => s.pairWrites d.toNat r.1 r.2.1) (orFlags (rs.map fun r => r.2.2))

/-- A word with a scalar second operand waits while that scalar is pending (R19). -/
def scalarsOf : VSrc → List SReg
  | .v _ => []
  | .s r => [r]

/-! ### Long-latency words (R84) -/

/-- The packet, slot and word that the issuing gang stands at. -/
def State.here (s : State) : Pc × Nat × Word := (s.curPc, s.cur.slot, (s.cur.packets.headD []).getD s.cur.slot 0)
/-- A new operation of the issuing skein, counted on the flag that its fs bit selects. -/
def State.newWordOp (s : State) (flag : Option Nat) (kind : OpKind) : State :=
  let o : Op := ⟨s.curCore, s.curKey, s.me.panel, s.myPanel.launch, flag, kind, false, false, s.here, none, [], []⟩
  s.newOp o
def State.startOp (s : State) (fs : Bool) (kind : OpKind) : State :=
  let f := s.flagOf fs
  (s.setMe (s.me.incFlag f)).newWordOp f kind

/-! ### Futures (R19, R228) -/

/-- Every scalar pending on an operation takes its status at once (R19). -/
def Scalar.finish (id : Nat) (st : Dword) (x : Scalar) : Scalar := if x.pend == some id then ⟨st, false, none⟩ else x
def Effect.finish (id : Nat) (st : Dword) : Effect → Effect
  | .scalar r v t => .scalar r (v.finish id st) t
  | e => e
def Skein.finish (id : Nat) (st : Dword) (k : Skein) : Skein :=
  { k with s := Tab.mapv (Scalar.finish id st) k.s, pending := k.pending.map fun p => { p with eff := p.eff.finish id st } }
/-- An operation with a handle ends. -/
def State.finishFuture (s : State) (id : Nat) (st : Dword) : State :=
  { s with skeins := Tab.mapv (Skein.finish id st) s.skeins, ops := Tab.del id s.ops }

end Sys2Proof.Machine
end

