-- ==== Sys2Proof/Machine/Access.lean ====
section
/-! DEFINITION. What the memory words share: their operands as read at issue (R177, R332, R333), the checks of a lane
(R383), the fate of faults (R182), waiting (R181, R183, R265), and the reads and writes of lanes (R185, R188, R278). -/

namespace Sys2Proof.Machine

/-- Who performs an access: the core, the skein's key, its panel and launch. -/
structure Who where
  core : Nat
  sk : Nat
  panel : Nat
  launch : Nat
  deriving DecidableEq, Repr

def State.whoOf (s : State) (k : Nat) : Who := let p := (s.skein k).panel; ⟨k / 65, k, p, (s.panel p).launch⟩
/-- The issuing skein. -/
def State.who (s : State) : Who := s.whoOf s.curKey
def State.blockOf (s : State) (w : Who) : Block := (s.launch w.launch).block
def State.ctxOf (s : State) (w : Who) : Nat := (s.blockOf w).context
def State.fusedOf (s : State) (w : Who) : Bool := s.fused w.launch
/-- The launch is in deterministic mode (Table 11.2). -/
def State.dmode (s : State) (w : Who) : Bool := (s.blockOf w).flags.getLsbD 1

/-! ### Sizes and offsets (R177) -/

def sizeBytes : Size → Nat
  | .b => 1
  | .h => 2
  | .w => 4
  | .d => 8
/-- The offset vector of an M word. -/
def offVec : Off → Option VReg
  | .vec v | .vecLit v _ => some v
  | .imm _ | .lit _ => none
/-- off(l), given voff[l], modulo 2^64. -/
def offsetOf (o : Off) (n : Nat) (v : Word) : Dword :=
  match o with
  | .imm k => BitVec.ofNat 64 (k.toNat * n)
  | .lit w => w.signExtend 64
  | .vec _ => v.signExtend 64
  | .vecLit _ w => v.signExtend 64 + w.signExtend 64
/-- A lane's address from recorded operands. -/
def LogEntry.addr (e : LogEntry) (o : Off) (n l : Nat) : Nat := (e.sbase + offsetOf o n (Tab.get 0 e.voff l)).toNat
/-- The lanes of recorded operands. -/
def LogEntry.lanes (e : LogEntry) : List Nat := (List.range 32).filter e.mask.getLsbD
/-- The register that a field names in a lane, by the recorded pattern table (R335). -/
def LogEntry.trans (e : LogEntry) (n l : Nat) : Nat := translate e.isOpen e.pm e.patA e.patB n l
def LogEntry.key (e : LogEntry) (n l : Nat) : Nat := laneKey (e.trans n l) l
def LogEntry.pairKeys (e : LogEntry) (n l : Nat) : Nat × Nat :=
  let t := e.trans n l / 2 * 2
  (laneKey t l, laneKey (t + 1) l)
/-- A lane's data as recorded. -/
def LogEntry.data (e : LogEntry) (l : Nat) : Dword := Tab.get 0 e.data1 l ++ Tab.get 0 e.data0 l

/-- The operands of a word as read at issue: its flag, whether it writes memory, its base and second scalar, its offset
vector and the data of each lane (Table 12.3). -/
def State.operands (s : State) (i : Instr) (flag : Option Nat) (write : Bool) (b : SReg) (o : Option VReg) (sx : Dword)
    (data : Nat → Dword) : LogEntry :=
  let k := s.me
  let ws := encode false i
  { LogEntry.free with
    write := write
    flag := match flag with | some n => BitVec.ofNat 4 n | none => 15
    mask := BitVec.ofNat 32 (s.lanes.foldl (fun m l => m + 2 ^ l) 0)
    pc := s.curPc
    slot := BitVec.ofNat 2 s.cur.slot
    word := ws.headD 0
    literal := ws.getD 1 0
    sbase := (s.sreg b).val
    sx := sx
    pm := k.pm
    isOpen := k.meldOpen
    patA := k.patA
    patB := k.patB
    voff := match o with | some v => (List.range 32).map fun l => (l, (s.vlane v l).val) | none => []
    data0 := (List.range 32).map fun l => (l, (data l).setWidth 32)
    data1 := (List.range 32).map fun l => (l, (data l).extractLsb' 32 32)
    instr := i }

/-- The token of an active lane's address: the offset vector before the base (R30, R184). -/
def State.addrToken (s : State) (b : SReg) (o : Option VReg) (l : Nat) : Option Word :=
  firstLane ((match o with | some v => [s.vlane v l] | none => []) ++ [(s.sreg b).toLane])
/-- The lowest lane with a token. -/
def State.lowToken (s : State) (f : Nat → Option Word) : Option Word := s.lanes.findSome? f
/-- A poisoned address or data lane raises POISON with the lowest such lane's payload (R184); a word tests its data before
its address, in the order of its operands (R30, R331). -/
def State.unpoisonedLanes (s : State) (f : Nat → Option Word) (body : Out) : Out :=
  match s.lowToken f with
  | some t => s.poison t.toNat
  | none => body
/-- The token of a data register in a lane, of a pair where `wide`. -/
def State.dataToken (s : State) (d : VReg) (wide : Bool) (l : Nat) : Option Word :=
  if wide then (let x := s.vpair d.toNat l; if x.poison then some (x.val.setWidth 32) else none)
  else firstLane [s.vlane d l]
/-- A data register in a lane. -/
def State.dataOf (s : State) (d : VReg) (wide : Bool) (l : Nat) : Dword :=
  if wide then (s.vpair d.toNat l).val else (s.vlane d l).val.setWidth 64

/-! ### Waiting (R181, R183, R186, R200) -/

/-- Words after which no later memory word of the skein issues until they are done, where they are held in the operand
log: an acquiring load and `BEXP` (R186, R200). -/
def blocksLater : Instr → Bool
  | .ldAcqCore _ _ _ _ _ | .ldAcqQuad _ _ _ _ _ | .ldAcqDie _ _ _ _ _ | .ldAcqPkg _ _ _ _ _ | .ldAcqPod _ _ _ _ _
  | .bexp _ _ _ => true
  | _ => false
/-- A `BEXP` of the skein that has not reached its object. -/
def Op.isExpect (o : Op) (k : Nat) : Bool :=
  o.sk == k && !o.staged && (match o.kind with | .barrier (.expect _) _ _ _ => true | _ => false)

/-- An acquiring load of the skein whose acquire is still to come (R186). -/
def Op.acquires (o : Op) (k : Nat) : Bool :=
  o.sk == k && (match o.kind with | .load r => r.acq.isSome | _ => false)
/-- A memory word waits while the operand log is full or an earlier word holds up every later one; a word that writes
memory, an atomic or a fence waits for every logged write too (R183, R186, R200). -/
def State.memoryWord (s : State) (writes : Bool) (body : Out) : Out :=
  let k := s.me
  if (List.range 4).all fun n => (Tab.get LogEntry.free k.oplog n).valid then .next (s.hold .logFull)
  else if k.logged (fun e => blocksLater e.instr) ||
      s.ops.any (fun q => q.2.isExpect s.curKey || q.2.acquires s.curKey) then .next (s.hold .earlier)
  else if writes && k.logged LogEntry.write then .next (s.hold .earlier)
  else body

/-- Byte ranges overlap. -/
def overlap (a n b m : Nat) : Bool := decide (a < b + m) && decide (b < a + n)
/-- An atomic or a barrier update in flight that acts on bytes of a place: a scratchpad, or physical memory. -/
def Op.touches (o : Op) (pad : Option Nat) (a n : Nat) : Bool :=
  !o.staged &&
  match o.kind with
  | .atomic _ wide _ p ls => p == pad && ls.any fun l => overlap l.addr (if wide then 8 else 4) a n
  | .barrier _ (.pad p off) _ _ => pad == some p && overlap off 16 a n
  | .barrier _ (.phys pa) _ _ => pad == none && overlap pa 16 a n
  | _ => false
/-- An access to bytes of an atomic of the core that is still outstanding waits (R265). -/
def State.pastAtomics (s : State) (pad : Option Nat) (as : List Nat) (n : Nat) (body : Out) : Out :=
  if s.ops.any fun q => q.2.core == s.curCore && as.any (q.2.touches pad · n) then .next (s.hold .atomicLine) else body
/-- A load that touches a line of a logged write of its skein waits (R183); lines are counted in virtual addresses. -/
def State.pastLogged (s : State) (vas : List Nat) (body : Out) : Out :=
  if s.me.logged fun e => e.write && vas.any fun va => e.lines.contains (va / 256) then .next (s.hold .logLine) else body

/-! ### The checks of a lane (R176, R178, R383) -/

inductive Space where
  | glob | pad | bank
  deriving DecidableEq, Repr

/-- The address lies in a bounded-value region of the launch. -/
def State.bounded (s : State) (w : Who) (va : Nat) : Bool :=
  (s.launch w.launch).regions.any fun r => decide (r.base ≤ va) && decide (va < r.base + r.size)

/-- The first check that a lane's address fails, or what it reaches: in the scratchpad, the offset itself. -/
def State.checkLane (s : State) (w : Who) (sp : Space) (need : Need) (n : Nat) (inRegion : Bool) (a : Nat) :
    Except Nat Xlat :=
  match sp with
  | .glob =>
    if !canonical a then .error 2
    else if a % n != 0 then .error 4
    else if inRegion && !s.bounded w a then .error 2
    else s.translateAt w.core (s.ctxOf w) a need
  | .pad =>
    if a % n != 0 then .error 4
    else if (s.panel w.panel).padSize < a + n then .error 3
    else .ok ⟨a, 0, 0⟩
  | .bank =>
    let b := s.blockOf w
    if a % n != 0 then .error 4
    else if b.cbsize < a + n then .error 3
    else s.translateAt w.core (s.ctxOf w) ((b.cbank + a) % 2 ^ 64) need

/-- A lane with its address and what its checks came to. -/
abbrev LaneTry := Nat × Nat × Except Nat Xlat
/-- A lane that may be accessed: lane, address, what it reaches. -/
abbrev LaneOk := Nat × Nat × Xlat

/-- What the checks of a word come to (R383). -/
inductive Tried where
  | ok (ls : List LaneOk)
  | log (code : Nat) (addr : Nat)
  | fault (code : Nat) (addr : Nat)
  deriving DecidableEq, Repr

/-- The lanes that failed. -/
def failed (ts : List LaneTry) : List (Nat × Nat × Nat) :=
  ts.filterMap fun t => match t.2.2 with | .error c => some (t.1, t.2.1, c) | .ok _ => none
/-- The lanes that passed. -/
def passed (ts : List LaneTry) : List LaneOk :=
  ts.filterMap fun t => match t.2.2 with | .ok x => some (t.1, t.2.1, x) | .error _ => none
/-- Codes that the operand log holds. -/
def mayLogCode (c : Nat) : Bool := c == 1 || c == 6

/-- The fate of a word's lanes (R383, Table 6.1). -/
def tried (mayLog : Bool) (ts : List LaneTry) : Tried :=
  let fs := failed ts
  match (if mayLog then fs.filter fun f => !mayLogCode f.2.2 else fs) with
  | f :: _ => .fault f.2.2 f.2.1
  | [] =>
    match fs with
    | f :: _ => .log f.2.2 f.2.1
    | [] => .ok (passed ts)

/-- The sector stands under the tag of another world than the page's (R289, R351). -/
def MemSys.tagFails (m : MemSys) (x : Xlat) : Bool :=
  pteWorld x.pte != 0 && (match Tab.find? (x.pa / 64) m.sealed with | some w => w != pteWorld x.pte | none => false)
/-- Every access meets an uncorrectable sector, or one whose tag does not match, at the access itself (R289, R297). -/
def State.withMemory (s : State) (w : Who) (path : Xlat → Path) (ts : List LaneTry) : List LaneTry :=
  ts.map fun t => match t.2.2 with
    | .ok x =>
      if s.badAccess w.core (s.fusedOf w) (path x) x.pa || s.mem.tagFails x then (t.1, t.2.1, .error 5) else t
    | .error _ => t
/-- The same for a write of `n` bytes a lane; one that replaces every byte of the sector meets nothing (R297). -/
def State.withTarget (s : State) (n : Nat) (ts : List LaneTry) : List LaneTry :=
  let as := ts.flatMap fun t => match t.2.2 with | .ok x => (List.range n).map (x.pa + ·) | .error _ => []
  let whole := fun (sec : Nat) => (List.range 64).all fun i => as.contains (sec * 64 + i)
  ts.map fun t => match t.2.2 with
    | .ok x =>
      if !isFoyer x.pa && (s.mem.isBad (x.pa / 64) || s.mem.tagFails x) && !whole (x.pa / 64) then (t.1, t.2.1, .error 5) else t
    | .error _ => t
/-- The sectors that a word writes stand under the tag of their page's world (R289, R351). -/
def State.sealed (s : State) (ok : List LaneOk) : State :=
  ok.foldl (fun s t =>
    let sec := t.2.2.pa / 64
    let world := pteWorld t.2.2.pte
    if world = 0 ∧ (Tab.find? sec s.mem.sealed).isNone then s
    else s.setMem { s.mem with sealed := if world = 0 then Tab.del sec s.mem.sealed else Tab.put sec world s.mem.sealed }) s

/-- The record of an uncorrectable sector that an access meets (R297, R353, R354). -/
def State.recordBad (s : State) (w : Who) (pa va : Nat) : State :=
  s.postError ⟨.uncorrectable, 2, pcUnit pa, some (s.ctxOf w), w.launch, some va, leBytes 8 (Config.syndrome s.tick).toNat⟩
/-- A record for each uncorrectable sector among the lanes. -/
def State.noteBad (s : State) (w : Who) (ts : List LaneTry) : State :=
  let vas := (failed ts).filterMap fun f => if f.2.2 = 5 then some f.2.1 else none
  (vas.foldl (fun acc va => if acc.any fun b => b / 64 == va / 64 then acc else acc ++ [va]) []).foldl (fun s va =>
    match s.translateAt w.core (s.ctxOf w) va ⟨false, false, false⟩ with
    | .ok x => s.recordBad w x.pa va
    | .error _ => s) s
/-- A word that ends in FAULT records what it met. -/
def State.accessFault (s : State) (w : Who) (ts : List LaneTry) (c a : Nat) : Out :=
  (if c = 5 then s.noteBad w ts else s).fault c (BitVec.ofNat 64 a)

/-- A core's walks follow the translations that its words have used (R301). -/
def State.walkAll (s : State) (w : Who) (vas : List Nat) : State :=
  ((vas.map (· % 2 ^ 57 / 4096)).eraseDups).foldl (fun s p => s.startWalk w.core (s.ctxOf w) (p * 4096)) s

/-! ### The operand log (R332) -/

/-- A continuation entry: the swap pair of an `ATOM.cas.d`. -/
def LogEntry.contOf (d0 d1 : Tab Word) : LogEntry :=
  { LogEntry.free with valid := true, cont := true, data0 := d0, data1 := d1 }

/-- The lowest entry from which `n` consecutive entries are free. -/
def Skein.freeLog (k : Skein) (n : Nat) : Option Nat :=
  (List.range (5 - n)).find? fun e => (List.range n).all fun j => !(Tab.get LogEntry.free k.oplog (e + j)).valid

/-- Lines of the lanes that passed are known physically; a logged write untags their lineage (R38, R183). -/
def physLines (ts : List LaneTry) : List Nat := ((passed ts).map fun t => globLine t.2.2.pa).eraseDups

/-- What an access needs, as the driver's record names it: 0 read, 1 write, 2 both (R334). -/
def needKind (n : Need) : Nat := if n.w then (if n.r then 2 else 1) else 0

/-- Put a word into the log at entry `n`, and ask the driver for its page (R332, R334). -/
def State.putLog (s : State) (w : Who) (n : Nat) (e : LogEntry) (cont : Option LogEntry) (code addr : Nat) (need : Need) :
    State :=
  let page := addr / 4096 * 4096
  let e := { e with
    valid := true
    code := BitVec.ofNat 8 code
    page := BitVec.ofNat 64 page
    order := s.nextId }
  let s := { s with nextId := s.nextId + 1 }
  let s := s.modSkein w.sk fun k =>
    let t := Tab.put n e k.oplog
    { k with oplog := match cont with | some c => Tab.put (n + 1) c t | none => t }
  s.postFault (s.ctxOf w) page code (needKind need)

/-- Log a word at issue: its flag rises, and with too few free entries it waits. -/
def State.logWord (s : State) (fs : Option Bool) (e : LogEntry) (cont : Option LogEntry) (ts : List LaneTry) (code addr : Nat)
    (need : Need) : Out :=
  match s.me.freeLog (if cont.isSome then 2 else 1) with
  | none => .next (s.hold .logFull)
  | some n =>
    let flag := match fs with | some f => s.flagOf f | none => none
    let e := { e with lines := (ts.map fun t => t.2.1 / 256).eraseDups }
    let s := s.putLog s.who n e cont code addr need
    let s := if e.write then s.untagLines s.curCore (physLines ts) else s
    .next (s.setMe (s.me.incFlag flag))

/-! ### Reading (R185, R263, R278) -/

/-- A page that is not kept in L1, and the foyer, are read at the home (Table 10.8, R306). -/
def pathOf (byp : Bool) (x : Xlat) : Path := if byp || pteCache x.pte == 1 || isFoyer x.pa then .home else .l1

/-- The skein that the trap skein stages its words for (R276); any other stages for itself. -/
def State.stagesFor (s : State) (k : Nat) : Nat :=
  if k % 65 = trapSlot then
    let x := s.skein k
    match List.find? (fun q => q.2.panel == x.panel && q.2.idx == x.idx && q.2.slot != trapSlot) s.skeins with
    | some q => q.1
    | none => k
  else k
/-- A byte that the skein itself has staged in this quantum (R278). -/
def State.stagedByte (s : State) (k pa : Nat) : Option Byte :=
  let h := s.stagesFor k
  s.ops.foldl (fun acc q =>
    if (q.2.sk == k || q.2.sk == h) && q.2.staged then
      match q.2.kind with
      | .write bs => match (bs.filter fun p => p.1 == pa).getLast? with | some p => some p.2 | none => acc
      | _ => acc
    else acc) none

/-- A number of `n` bytes as a load reads it, and the machine after the fill. -/
def State.loadNat (s : State) (w : Who) (path : Path) (pa n : Nat) : State × Nat :=
  if s.dmode w then
    (s, leNat ((List.range n).map fun i => (s.stagedByte w.sk (pa + i)).getD (s.mem.homeByte (pa + i))))
  else
    let f := s.fusedOf w
    let s := s.fetchSector w.core f path pa
    (s, leNat ((List.range n).map fun i => s.loadByte w.core f path (pa + i)))

/-- The lanes of a load in ascending order. -/
def State.loadLanes (s : State) (w : Who) (byp : Bool) (n : Nat) : List LaneOk → State × List (Nat × Nat)
  | [] => (s, [])
  | t :: ts =>
    let r := s.loadNat w (pathOf byp t.2.2) t.2.2.pa n
    let q := r.1.loadLanes w byp n ts
    (q.1, (t.1, r.2) :: q.2)

/-- The bytes of a lane that a load has still to read, where they lie in the part of memory that a test names. -/
def LoadReq.covers (r : LoadReq) (p : Nat → Bool) : Bool :=
  r.todo.any fun l => (List.range r.size).any fun i => p (l.pa + i)
/-- Who issued an operation. -/
def Op.who (o : Op) : Who := ⟨o.core, o.sk, o.panel, o.launch⟩
/-- Read the lanes that a load has still to read, in ascending order (R185, R263). -/
def State.readTodo (s : State) (w : Who) (r : LoadReq) : List LoadLane → State × List (Nat × Word) × List (Nat × Lane)
  | [] => (s, [], [])
  | l :: ls =>
    let x := match r.pad with
      | some p => (s, leNat ((s.panel p).padBytes l.pa r.size))
      | none => s.loadNat w (if l.home then .home else .l1) l.pa r.size
    let q := x.1.readTodo w r ls
    (q.1, (l.lane, BitVec.ofNat 32 x.2) :: q.2.1, l.keys.map (fun k => (k.1, ⟨BitVec.ofNat 32 (x.2 >>> k.2), false⟩)) ++ q.2.2)
/-- A load in flight reads its lanes: their values are then fixed, for its cabinet entry too (R37, R263). -/
def State.readLoad (s : State) (id : Nat) : State :=
  match s.op id with
  | some o =>
    match o.kind with
    | .load r =>
      if r.todo.isEmpty then s else
      let q := s.readTodo o.who r r.todo
      let s := q.1.setOp id { o with kind := .load { r with todo := [], got := r.got ++ q.2.2 } }
      match r.tag with
      | some n =>
        let c := s.core o.core
        match Tab.find? n c.cabinet with
        | some e => s.setCore o.core { c with cabinet := Tab.put n { e with vec := q.2.1.map Prod.snd } c.cabinet }
        | none => s
      | none => s
    | _ => s
  | none => s
/-- The loads of a core that have still to be read, up to a name, in the order of their acceptance. -/
def State.unread (s : State) (cores : List Nat) (last : Nat) : List Nat :=
  (s.ops.filter fun q => decide (q.1 ≤ last) && cores.contains q.2.core &&
    (match q.2.kind with | .load r => !r.todo.isEmpty | _ => false)).map Prod.fst
/-- A load reads, and every load that its core accepted before it has read then: the accesses of a core are performed as if
in the order of their acceptance (R265). -/
def State.readUpTo (s : State) (core id : Nat) : State := (s.unread [core] id).foldl (fun s n => s.readLoad n) s
/-- Loads of a core, or of its quad under quad-fused L1, that cover bytes of a later write have read before it is accepted
(R265, R286). -/
def State.readBefore (s : State) (core : Nat) (fused : Bool) (pad : Option Nat) (p : Nat → Bool) : State :=
  (s.unread (quadOf fused core) s.nextId).foldl (fun s n =>
    match s.op n with
    | some o => match o.kind with
      | .load r => if r.pad == pad && r.covers p then s.readUpTo o.core n else s
      | _ => s
    | none => s) s
/-- Every load in flight that a test names has read (R302). -/
def State.readAll (s : State) (p : Op → Bool) : State :=
  ((s.ops.filter fun q => p q.2).map Prod.fst).foldl (fun s n => match s.op n with | some o => s.readUpTo o.core n | none => s) s

/-- A global atomic or barrier update of `n` bytes at each address is accepted: loads accepted before it have read,
buffered writes to its bytes drain, and its lines leave the core's L1 (R265). -/
def State.acceptUpdate (s : State) (w : Who) (pas : List Nat) (n : Nat) : State :=
  let f := s.fusedOf w
  let s := s.readBefore w.core f none fun b => pas.any fun a => decide (a ≤ b) && decide (b < a + n)
  let s := (quadOf f w.core).foldl (fun s c => s.drainScb c fun e => pas.any fun a => e.sector == a / 64) s
  pas.foldl (fun s a => let c := l1Home f w.core a; s.setCore c ((s.core c).dropLine (a / 256))) s
/-- An atomic is accepted, and lineage on its lines is untagged too (R38). -/
def State.acceptAtomic (s : State) (w : Who) (pas : List Nat) (n : Nat) : State :=
  (s.acceptUpdate w pas n).untagLines w.core ((pas.map globLine).eraseDups)

/-- What a lane of a load reads, and where its value goes (R16, R185). -/
def LogEntry.loadLane (e : LogEntry) (d : VReg) (n : Nat) (byp : Bool) (t : LaneOk) : LoadLane :=
  let keys := if n = 8 then let (lo, hi) := e.pairKeys d.toNat t.1; [(lo, 0), (hi, 32)] else [(e.key d.toNat t.1, 0)]
  ⟨t.1, t.2.2.pa, pathOf byp t.2.2 == .home, keys⟩
/-- What a loaded value writes in its lane (R185). -/
def LogEntry.loadWrites (e : LogEntry) (d : VReg) (n : Nat) (r : Nat × Nat) : List (Nat × Lane) :=
  if n = 8 then
    let (lo, hi) := e.pairKeys d.toNat r.1
    [(lo, ⟨BitVec.ofNat 32 r.2, false⟩), (hi, ⟨BitVec.ofNat 32 (r.2 / 2 ^ 32), false⟩)]
  else [(e.key d.toNat r.1, ⟨BitVec.ofNat 32 r.2, false⟩)]
/-- What a token writes in a lane of a load: both halves of a pair (R16). -/
def LogEntry.tokenWrites (e : LogEntry) (d : VReg) (n l : Nat) (t : Word) : List (Nat × Lane) :=
  if n = 8 then let (lo, hi) := e.pairKeys d.toNat l; [(lo, ⟨t, true⟩), (hi, ⟨t, true⟩)]
  else [(e.key d.toNat l, ⟨t, true⟩)]

/-! ### Writing (R188, R265, R277) -/

/-- The bytes that lanes write, in ascending lane order, so that the highest-numbered lane comes last (R188). -/
def storeBytes (n : Nat) (data : Nat → Dword) (ts : List LaneOk) : List (Nat × Byte) :=
  ts.flatMap fun t => (leBytes n (data t.1).toNat).zipIdx.map fun p => (t.2.2.pa + p.2, p.1)

/-- An operation in flight of a skein, issued at a place that may not be the present one. -/
def State.addOpAt (s : State) (w : Who) (place : Pc × Nat × Word) (flag : Option Nat) (staged : Bool) (kind : OpKind) : State :=
  s.newOp ⟨w.core, w.sk, w.panel, w.launch, flag, kind, false, staged, place, none, [], []⟩
def State.addOp (s : State) (w : Who) (flag : Option Nat) (staged : Bool) (kind : OpKind) : State :=
  s.addOpAt w s.here flag staged kind
/-- The operation of a replay of entry `n`: the entry, with the flag that it keeps, leaves the log when it completes
(R335). -/
def State.replayOp (s : State) (w : Who) (n : Nat) (e : LogEntry) (staged : Bool) (kind : OpKind) : State :=
  s.newOp ⟨w.core, w.sk, w.panel, w.launch, none, kind, false, staged, (e.pc, e.slot.toNat, e.word), some n, e.lost, []⟩
/-- The operation just put in flight keeps the virtual pages of its addresses, where it is staged, until it is performed
(R302). -/
def State.onPages (s : State) (vas : List Nat) : State :=
  let id := s.nextId - 1
  match s.op id with
  | some o => if o.staged then s.setOp id { o with pages := (vas.map pageOf).eraseDups } else s
  | none => s
/-- Where a logged word was issued. -/
def LogEntry.place (e : LogEntry) : Pc × Nat × Word := (e.pc, e.slot.toNat, e.word)

/-- A write of the skein to virtual addresses is accepted, or staged to the quantum's commit in deterministic mode. -/
def State.writeGlobal (s : State) (w : Who) (vas : List Nat) (bs : List (Nat × Byte)) : State :=
  if s.dmode w then
    ((s.untagLines w.core ((bs.map fun p => globLine p.1).eraseDups)).addOp w none true (.write bs)).onPages vas
  else (s.readBefore w.core (s.fusedOf w) none fun a => bs.any fun b => b.1 == a).acceptWrite w.core (s.fusedOf w) w.sk bs

/-! ### Releases and acquires (R186, R188, R194, R200, R269) -/

/-- An operation that a later release of its skein waits for: an earlier write, read or walker operation, or a bounded
add that is not yet accepted (R188, R194, R195, R269). -/
def Op.beforeRelease (o : Op) (k : Nat) : Bool :=
  o.sk == k && !o.staged &&
  match o.kind with
  | .atomic _ _ _ _ _ | .redbv _ | .ldtol _ _ _ | .walker _ _ _ _ _ _ | .barrier _ _ _ _ => true
  | .load r => !r.todo.isEmpty
  | .mdrain _ _ _ t _ _ _ _ _ _ => t == .glob
  | _ => false
/-- A word with a release at a scope waits for them; then the release is performed (R188, R264, R285). -/
def State.released (s : State) (sc : Scope) (body : State → Out) : Out :=
  if s.ops.any fun q => q.2.beforeRelease s.curKey then .next (s.hold .earlier)
  else body (s.release s.curCore sc)
/-- The acquire of the issuing skein at a scope. -/
def State.acquired (s : State) (sc : Scope) : State := s.acquire s.curCore (s.fusedOf s.who) sc

end Sys2Proof.Machine
end

