-- ==== Sys2Proof/Machine/Tables.lean ====
section
/-! DEFINITION. The frozen functions, built from the formulas of R62, the argument reductions of R63 and R64, and the
counter-based generator of R66.  Real values are held as whole numbers in units of 2^-P. -/

namespace Sys2Proof.Machine

/-- Fraction bits of the real values below. -/
def realP : Nat := 192

/-- 1 in units of 2^-P. -/
def realOne : Nat := 2 ^ realP
/-- The product of two reals. -/
def realMul (a b : Nat) : Nat := (a * b) >>> realP
/-- The square root of a real. -/
def realSqrt (a : Nat) : Nat := isqrt (a <<< realP)

/-- 2^(j / 2^k) from its binary digits, the highest first: `r` is 2^(1/2), then its square roots. -/
def pow2Frac : Nat → Nat → Nat → Nat → Nat
  | 0, _, _, acc => acc
  | k + 1, r, j, acc => pow2Frac k (realSqrt r) j (if j.testBit k then realMul acc r else acc)

/-- 2^u for u = j / 512, j ≤ 512. -/
def realExp2 (j : Nat) : Nat := if j = 512 then 2 * realOne else pow2Frac 9 (realSqrt (2 * realOne)) j realOne

/-- Binary digits of log2 x for x in [1, 2), by repeated squaring. -/
def log2Digits : Nat → Nat → Nat → Nat
  | 0, _, acc => acc
  | k + 1, x, acc =>
    let y := realMul x x
    if y ≥ 2 * realOne then log2Digits k (y / 2) (2 * acc + 1) else log2Digits k y (2 * acc)

/-- log2 of 1 + j / 512, j ≤ 512; 80 digits are exact far beyond what a coefficient needs. -/
def realLog2 (j : Nat) : Nat :=
  if j = 512 then realOne else log2Digits 80 (realOne + (j <<< (realP - 9))) 0 <<< (realP - 80)

/-- cos and sin of π/2 × 2^-k halved `n` times from cos = 0, sin = 1. -/
def halfAngles : Nat → Nat × Nat → List (Nat × Nat)
  | 0, _ => []
  | n + 1, (c, _) =>
    let h := (realSqrt ((realOne + c) / 2), realSqrt ((realOne - c) / 2))
    h :: halfAngles n h

/-- cos and sin of π/2 × j / 512 by the sums of the angles of j's binary digits, the highest first. -/
def angleSum (j : Nat) : Nat → List (Nat × Nat) → Nat × Nat → Nat × Nat
  | k + 1, (c, s) :: t, (x, y) =>
    angleSum j k t
      (if j.testBit k then (realMul x c - realMul y s, realMul x s + realMul y c) else (x, y))
  | _, _, r => r

/-- cos and sin of πu/2 for u = j / 512. -/
def realCosSin (j : Nat) : Nat × Nat :=
  if j = 512 then (0, realOne) else angleSum j 9 (halfAngles 9 (0, realOne)) (realOne, 0)

/-- The six tables (Table 2.8). -/
inductive FnTable where
  | exp2 | log2 | rcp | rsq | sin | cos
  deriving DecidableEq, Repr

/-- f at a half-row position: position 2i is a_i, 2i + 1 is m_i, 2i + 2 is b_i of row i (Table 2.8). -/
def FnTable.real (t : FnTable) (row half : Nat) : Nat :=
  let p := 2 * row + half
  match t with
  | .exp2 => realExp2 p
  | .log2 => realLog2 p
  | .rcp => (realOne * 512) / (512 + p)
  | .rsq =>
    -- m in units of 1/256 for the first half, of 1/128 for the second
    if row < 128 then realSqrt ((realOne * 256) / (256 + p)) else realSqrt ((realOne * 128) / (256 + (p - 256)))
  | .sin => (realCosSin p).2
  | .cos => (realCosSin p).1

/-- The nearest integer to a real, ties to even. -/
def nearest (i : Int) (drop : Nat) : Int :=
  let r := shiftRound .rne false i.natAbs drop
  if i < 0 then -(r.1 : Int) else r.1

/-- z1 and z2 (Table 2.8); z0 is 29 for every table. -/
def FnTable.z : FnTable → Nat
  | .rcp => 29
  | _ => 28

/-- C0, C1, C2 of a row (R62). -/
def FnTable.coeffs (t : FnTable) (row : Nat) : Int × Int × Int :=
  let a : Int := t.real row 0
  let m : Int := t.real row 1
  let b : Int := t.real row 2
  (nearest a (realP - 29), nearest (-3 * a + 4 * m - b) (realP - t.z), nearest (2 * a - 4 * m + 2 * b) (realP - t.z))

/-- Y in units of 2^-30 (R63). -/
def FnTable.eval (t : FnTable) (row pos : Nat) : Nat :=
  let (c0, c1, c2) := t.coeffs row
  let t2 : Int := (pos * pos) >>> 16
  let y := c0 * 2 + (c1 * pos * 2 ^ (30 - t.z)) / 2 ^ 16 + (c2 * t2 * 2 ^ (30 - t.z)) / 2 ^ 16
  y.toNat

/-- m in [1, 2) as its 23 fraction bits, and e (R64). -/
def normFrac (m : Nat) (e : Int) : Nat × Int :=
  let l := Nat.log2 m
  ((if l ≤ 23 then m <<< (23 - l) else m >>> (l - 23)) - 2 ^ 23, e + l)

/-- The destination of a frozen function: binary32, RNE, FTZ (R165). -/
def fnRound (ftz : Bool) : Round := ⟨f32, .rne, ftz, false⟩

/-- `VEXP2` (R64). -/
def fnExp2 (ftz : Bool) : Num → Nat × FpFlags
  | .nan s => (f32.nan, if s then fNV else 0)
  | .inf n => (if n then 0 else f32.infBits, 0)
  | .fin n m e =>
    if m = 0 then (0x3F800000, 0) else
    -- x in units of 2^-149, which holds every binary32
    let x : Int := (Num.fin n m e).mantAt (min e (-149))
    let unit := (min e (-149)).natAbs
    let fl := x / 2 ^ unit
    if x < -151 * 2 ^ unit then (0, fUF ||| fNX)
    else if 128 ≤ fl then (f32.infBits, fOF ||| fNX)
    else
      let frac := ((x - fl * 2 ^ unit) * 2 ^ 23 / 2 ^ unit).toNat
      (fnRound ftz).apply false (FnTable.exp2.eval (bitsOf frac 15 8) (bitsOf frac 0 15 * 2)) (fl - 30)

/-- `VLOG2`. -/
def fnLog2 (ftz : Bool) : Num → Nat × FpFlags
  | .nan s => (f32.nan, if s then fNV else 0)
  | .inf n => if n then (f32.nan, fNV) else (f32.infBits, 0)
  | .fin n m e =>
    if m = 0 then (f32.signed true f32.infBits, fDZ)
    else if n then (f32.nan, fNV)
    else
      let (g, x) := normFrac m e
      let v : Int := x * 2 ^ 30 + FnTable.log2.eval (bitsOf g 15 8) (bitsOf g 0 15 * 2)
      (fnRound ftz).apply (decide (v < 0)) v.natAbs (-30)

/-- `VRCP`. -/
def fnRcp (ftz : Bool) : Num → Nat × FpFlags
  | .nan s => (f32.nan, if s then fNV else 0)
  | .inf n => (f32.signed n 0, 0)
  | .fin n m e =>
    if m = 0 then (f32.signed n f32.infBits, fDZ) else
    let (g, x) := normFrac m e
    (fnRound ftz).apply n (FnTable.rcp.eval (bitsOf g 15 8) (bitsOf g 0 15 * 2)) (-30 - x)

/-- `VRSQ`. -/
def fnRsq (ftz : Bool) : Num → Nat × FpFlags
  | .nan s => (f32.nan, if s then fNV else 0)
  | .inf n => if n then (f32.nan, fNV) else (0, 0)
  | .fin n m e =>
    if m = 0 then (f32.signed n f32.infBits, fDZ)
    else if n then (f32.nan, fNV)
    else
      let (g, x) := normFrac m e
      (fnRound ftz).apply false (FnTable.rsq.eval ((x % 2).toNat * 128 + bitsOf g 16 7) (bitsOf g 0 16)) (-30 - x / 2)

/-- Quadrant, row and position of `VSINP` and `VCOSP`: ρ = x − 2⌊x/2⌋, q = ⌊2ρ⌋, F' = ⌊(2ρ − q) × 2^23⌋ (R64). -/
def trigReduce (n : Bool) (m : Nat) (e : Int) : Nat × Nat :=
  let k := min e (-149)
  let unit := k.natAbs
  let x : Int := (Num.fin n m e).mantAt k
  let rho2 := (2 * (x % (2 * 2 ^ unit))).toNat
  let q := rho2 / 2 ^ unit
  (q, (rho2 % 2 ^ unit) * 2 ^ 23 / 2 ^ unit)

/-- `VSINP` (`cos` false) and `VCOSP`. -/
def fnTrig (cos : Bool) (ftz : Bool) : Num → Nat × FpFlags
  | .nan s => (f32.nan, if s then fNV else 0)
  | .inf _ => (f32.nan, fNV)
  | .fin n m e =>
    if m = 0 then (if cos then 0x3F800000 else f32.signed n 0, 0) else
    let (q, fr) := trigReduce n m e
    let useCos := (q % 2 == 1) != cos
    let neg := if cos then q == 1 || q == 2 else decide (2 ≤ q)
    let y := (if useCos then FnTable.cos else FnTable.sin).eval (bitsOf fr 15 8) (bitsOf fr 0 15 * 2)
    if y = 0 then (0, 0) else (fnRound ftz).apply neg y (-30)

/-! ### The random generator (R66) -/

/-- One round. -/
def rngRound (k : List Word) (r : Nat) (x : Word × Word × Word × Word) : Word × Word × Word × Word :=
  let (x0, x1, x2, x3) := x
  let ra := [13, 17, 5, 23, 11, 19].getD (r % 6) 0
  let rb := [7, 29, 21, 3, 25, 9].getD (r % 6) 0
  let x0 := x0 + x1
  let x1 := x1.rotateLeft ra ^^^ x0
  let x2 := x2 + x3
  let x3 := x3.rotateLeft rb ^^^ x2
  let (x1, x3) := (x3, x1)
  if r % 4 = 3 then
    let j := (r + 1) / 4
    (x0 + k.getD (j % 3) 0, x1 + k.getD ((j + 1) % 3) 0, x2 + k.getD ((j + 2) % 3) 0, x3 + BitVec.ofNat 32 j)
  else (x0, x1, x2, x3)

/-- `rng_word` (R66). -/
def rngWord (seed base : Dword) (g d : Nat) : Word :=
  let c := base.toNat + g * 2 ^ 24 + d
  let w (n : Nat) : Word := BitVec.ofNat 32 (c >>> n)
  let k0 : Word := seed.extractLsb' 0 32
  let k1 : Word := seed.extractLsb' 32 32
  let k := [k0, k1, k0 ^^^ k1 ^^^ 0x7A3D94C1]
  let x := (List.range 12).foldl (fun x r => rngRound k r x)
    (w 0 + k.getD 0 0, w 32 + k.getD 1 0, w 64 + k.getD 2 0, w 96)
  x.1 ^^^ x.2.2.1

end Sys2Proof.Machine
end

