-- ==== Sys2Proof/Machine/Block.lean ====
section
/-! DEFINITION. Block formats: decoding (R55, R56), quantisation (R57), and packing of narrow elements (R46). -/

namespace Sys2Proof.Machine

/-- Bits of an element (Table 2.5). -/
def blockBits : BlockFmt → Nat
  | .dbx4 | .mxfp4 => 4
  | _ => 8

/-- A DBX format carries two exponents (R56). -/
def isDbx : BlockFmt → Bool
  | .dbx8 | .dbx4 => true
  | _ => false

/-- mm, g, dx of a DBX format (R57): the largest magnitude, the decode shift, the distance of the exponents. -/
def dbxParams : BlockFmt → Nat × Nat × Nat
  | .dbx4 => (3, 1, 3)
  | _ => (63, 5, 5)

/-- The element format of an MX block, where it is a float (Table 2.5). -/
def mxFmt : BlockFmt → Option Fmt
  | .mxfp8e4 => some e4m3
  | .mxfp8e5 => some e5m2
  | .mxfp4 => some e2m1
  | _ => none

/-- Scale a number by a power of two. -/
def Num.scale (k : Int) : Num → Num
  | .fin n m e => .fin n m (e + k)
  | x => x

/-- One element under a scale E_lo, E_hi (R55, R56); MX scales have the code in E_lo. -/
def decodeElem (b : BlockFmt) (x lo hi : Nat) : Num :=
  if isDbx b then
    if lo = 0xFF || hi = 0xFF then .nan false else
    let w := blockBits b
    let esel := if x.testBit (w - 1) then hi else lo
    .fin (x.testBit (w - 2)) (bitsOf x 0 (w - 2)) ((esel : Int) - (if b == .dbx4 then 128 else 132))
  else if lo = 0xFF then .nan false
  else
    let k : Int := (lo : Int) - 127
    match mxFmt b with
    | some f => (f.decode x).scale k
    | none =>
      let i : Int := (BitVec.ofNat 8 x).toInt
      (Num.ofInt false i (-6)).scale k

/-- ⌊log2⌋ of a nonzero magnitude. -/
def floorLog2 : Num → Int
  | .fin _ m e => e + Nat.log2 m
  | _ => 0

/-- The mantissa and exponent of a finite number. -/
def finParts : Num → Bool × Nat × Int
  | .fin n m e => (n, m, e)
  | _ => (false, 0, 0)

/-- Saturate an integer (R46). -/
def satI (x lo hi : Int) : Int := if x < lo then lo else if hi < x then hi else x

/-- The largest magnitude of a block. -/
def maxMag (xs : List Num) : Num := xs.foldl (fun a x => if magLe a x then x else a) (.fin false 0 0)

/-- A quantised block: element codes, E_lo (or the MX code), E_hi, flags. -/
structure Block32 where
  elems : List Nat
  lo : Nat
  hi : Nat
  flags : FpFlags
  deriving DecidableEq, Repr

/-- Two finite numbers differ in value. -/
def differs (a b : Num) : Bool := !eqNum a b

/-- One MX element of x under the scale 2^X: its code and whether saturation limited it. -/
def mxElem (b : BlockFmt) (x : Num) (X : Int) : Nat × Bool :=
  let (n, m, e) := finParts x
  match mxFmt b with
  | some f =>
    let r := (⟨f, .rne, false, true⟩ : Round).apply n m (e - X)
    (r.1, (r.2 &&& fOF) != 0)
  | none =>
    let r := (roundAt .rne n m (e - X) (-6)).1
    let i : Int := if n then -(r : Int) else r
    let s := satI i (-127) 127
    ((BitVec.ofInt 8 s).toNat, s != i)

/-- One DBX element (R57). -/
def dbxElem (b : BlockFmt) (x : Num) (lo hi : Nat) : Nat × Bool :=
  let (mm, g, _) := dbxParams b
  let w := blockBits b
  let (n, m, e) := finParts x
  let q := (roundAt .rne false m e ((lo : Int) - 127 - g)).1
  let s := if n then 2 ^ (w - 2) else 0
  if q ≤ mm then (s + q, false)
  else
    let h := (roundAt .rne false m e ((hi : Int) - 127 - g)).1
    (2 ^ (w - 1) + s + min h mm, decide (h > mm))

/-- `quantise` (R57). -/
def quantise (b : BlockFmt) (xs : List Num) : Block32 :=
  if xs.any fun x => x.isNan || x.isInf then
    ⟨xs.map fun _ => 0, 0xFF, if isDbx b then 0xFF else 0, if xs.any fun x => x.isInf || x.isSig then fNV else 0⟩
  else
    let M := maxMag xs
    let (_, mm, me) := finParts M
    let scale : Nat × Nat :=
      if isDbx b then
        let (top, g, dx) := dbxParams b
        let ehi : Int :=
          if mm = 0 then dx
          else
            let e := floorLog2 M
            let r := (roundAt .rne false mm me (e - g)).1
            satI (e + 127 + (if r > top then 1 else 0)) dx 254
        ((ehi - dx).toNat, ehi.toNat)
      else
        let emax : Int :=
          match b with
          | .mxfp8e4 => 8
          | .mxfp8e5 => 15
          | .mxfp4 => 2
          | _ => 0
        let X := if mm = 0 then -127 else satI (floorLog2 M - emax) (-127) 127
        ((X + 127).toNat, 0)
    let es := xs.map fun x => if isDbx b then dbxElem b x scale.1 scale.2 else mxElem b x ((scale.1 : Int) - 127)
    let sat := es.any Prod.snd
    let inexact := (xs.zip es).any fun p => differs p.1 (decodeElem b p.2.1 scale.1 scale.2)
    ⟨es.map Prod.fst, scale.1, scale.2, (if sat then fOF else 0) ||| (if inexact then fNX else 0)⟩

/-- Pack element codes of `w` bits into bytes, the first element lowest (R46). -/
def packBytes (w : Nat) : List Nat → List Byte
  | [] => []
  | [x] => if w = 4 then [BitVec.ofNat 8 x] else leBytes1 w x
  | x :: y :: t => if w = 4 then BitVec.ofNat 8 (x + 16 * y) :: packBytes w t else leBytes1 w x ++ packBytes w (y :: t)
where
  /-- The bytes of one element of 8 bits or more, the lowest first. -/
  leBytes1 (w x : Nat) : List Byte := (List.range (w / 8)).map fun k => BitVec.ofNat 8 (x >>> (8 * k))

/-- Element `k` of `w` bits of a lane (R46). -/
def laneElem (w : Nat) (x : Word) (k : Nat) : Nat := bitsOf x.toNat (w * k) w

/-- A lane from elements of `w` bits, the first lowest (R46). -/
def laneOf (w : Nat) (es : List Nat) : Word :=
  BitVec.ofNat 32 ((es.zipIdx).foldl (fun acc p => acc + (p.1 % 2 ^ w) <<< (w * p.2)) 0)

end Sys2Proof.Machine
end

