-- ==== Sys2Proof/Machine/Scalar.lean ====
section
/-! DEFINITION. Scalar arithmetic, moves and selectors (R116 to R121). -/

namespace Sys2Proof.Machine

/-! ### The functions of Table 4.1 -/

def boolWord (p : Bool) : Dword := if p then 1 else 0
/-- A shift amount: bits [5:0]. -/
def shAmt (b : Dword) : Nat := b.toNat % 64
/-- Division truncates towards zero; by zero it gives all ones (R118). -/
def sdivOf (a b : Dword) : Dword := if b = 0 then BitVec.allOnes 64 else BitVec.ofInt 64 (a.toInt.tdiv b.toInt)
def udivOf (a b : Dword) : Dword := if b = 0 then BitVec.allOnes 64 else BitVec.ofNat 64 (a.toNat / b.toNat)
/-- The remainder takes the dividend's sign; by zero it gives the dividend (R118). -/
def sremOf (a b : Dword) : Dword := if b = 0 then a else BitVec.ofInt 64 (a.toInt.tmod b.toInt)
def uremOf (a b : Dword) : Dword := if b = 0 then a else BitVec.ofNat 64 (a.toNat % b.toNat)
/-- Bits [127:64] of a product. -/
def mulHigh (a b : Dword) : Dword := BitVec.ofInt 64 (a.toInt * b.toInt / 2 ^ 64)
def mulHighU (a b : Dword) : Dword := BitVec.ofNat 64 (a.toNat * b.toNat / 2 ^ 64)
/-- The number of ones among the low `n` bits. -/
def onesOf (n x : Nat) : Nat := (List.range n).foldl (fun c i => if x.testBit i then c + 1 else c) 0
/-- Leading zeros of an `n`-bit value. -/
def lzOf (n x : Nat) : Nat := if x = 0 then n else n - 1 - x.log2
/-- Trailing zeros of an `n`-bit value. -/
def tzOf (n x : Nat) : Nat := ((List.range n).find? fun i => x.testBit i).getD n
/-- Place and width of a bit field: `p` = b[5:0], `w` = min(b[14:8], 64). -/
def fieldAt (b : Dword) : Nat × Nat := (bitsOf b.toNat 0 6, min (bitsOf b.toNat 8 7) 64)
def sbfeOf (a b : Dword) : Dword := let (p, w) := fieldAt b; BitVec.ofNat 64 (bitsOf a.toNat p w)
def sbfiOf (d a b : Dword) : Dword :=
  let (p, w) := fieldAt b
  let m : Dword := BitVec.ofNat 64 ((2 ^ w - 1) <<< p)
  (d &&& ~~~m) ||| (BitVec.ofNat 64 (a.toNat <<< p) &&& m)

/-! ### Operand forms -/

def immSx : Imm → Dword
  | .short i => i.signExtend 64
  | .lit w => w.signExtend 64
def immZx : Imm → Dword
  | .short i => i.setWidth 64
  | .lit w => w.setWidth 64

/-- The data of a scalar. -/
def State.sval (s : State) (r : SReg) : Dword := (s.sreg r).val
/-- A word over two scalars; its class is pure. -/
def State.scalar2 (s : State) (i : Instr) (d a b : SReg) (f : Dword → Dword → Dword) : Out :=
  s.scalarWord i d [a, b] (some [.s a, .s b]) (f (s.sval a) (s.sval b))
/-- A word that reads its destination first (R116). -/
def State.scalar3 (s : State) (i : Instr) (d a b : SReg) (f : Dword → Dword → Dword → Dword) : Out :=
  s.scalarWord i d [d, a, b] (some [.s d, .s a, .s b]) (f (s.sval d) (s.sval a) (s.sval b))
/-- A word over one scalar. -/
def State.scalar1 (s : State) (i : Instr) (d a : SReg) (f : Dword → Dword) : Out :=
  s.scalarWord i d [a] (some [.s a]) (f (s.sval a))

/-! ### Register forms (R117, R118) -/

/-- `SADD`: Table 4.1. -/
def execSadd (d a b : SReg) (s : State) : Out := s.scalar2 (.sadd d a b) d a b (fun x y => x + y)
/-- `SSUB`: Table 4.1. -/
def execSsub (d a b : SReg) (s : State) : Out := s.scalar2 (.ssub d a b) d a b (fun x y => x - y)
/-- `SMUL`: Table 4.1. -/
def execSmul (d a b : SReg) (s : State) : Out := s.scalar2 (.smul d a b) d a b (fun x y => x * y)
/-- `SMULH`: Table 4.1. -/
def execSmulh (d a b : SReg) (s : State) : Out := s.scalar2 (.smulh d a b) d a b mulHigh
/-- `SMULHU`: Table 4.1. -/
def execSmulhu (d a b : SReg) (s : State) : Out := s.scalar2 (.smulhu d a b) d a b mulHighU
/-- `SDIV`: Table 4.1. -/
def execSdiv (d a b : SReg) (s : State) : Out := s.scalar2 (.sdiv d a b) d a b sdivOf
/-- `SDIVU`: Table 4.1. -/
def execSdivu (d a b : SReg) (s : State) : Out := s.scalar2 (.sdivu d a b) d a b udivOf
/-- `SREM`: Table 4.1. -/
def execSrem (d a b : SReg) (s : State) : Out := s.scalar2 (.srem d a b) d a b sremOf
/-- `SREMU`: Table 4.1. -/
def execSremu (d a b : SReg) (s : State) : Out := s.scalar2 (.sremu d a b) d a b uremOf
/-- `SAND`: Table 4.1. -/
def execSand (d a b : SReg) (s : State) : Out := s.scalar2 (.sand d a b) d a b (fun x y => x &&& y)
/-- `SOR`: Table 4.1. -/
def execSor (d a b : SReg) (s : State) : Out := s.scalar2 (.sor d a b) d a b (fun x y => x ||| y)
/-- `SXOR`: Table 4.1. -/
def execSxor (d a b : SReg) (s : State) : Out := s.scalar2 (.sxor d a b) d a b (fun x y => x ^^^ y)
/-- `SANDN`: Table 4.1. -/
def execSandn (d a b : SReg) (s : State) : Out := s.scalar2 (.sandn d a b) d a b (fun x y => x &&& ~~~y)
/-- `SSHL`: Table 4.1. -/
def execSshl (d a b : SReg) (s : State) : Out := s.scalar2 (.sshl d a b) d a b (fun x y => x <<< shAmt y)
/-- `SSHR`: Table 4.1. -/
def execSshr (d a b : SReg) (s : State) : Out := s.scalar2 (.sshr d a b) d a b (fun x y => x >>> shAmt y)
/-- `SSRA`: Table 4.1. -/
def execSsra (d a b : SReg) (s : State) : Out := s.scalar2 (.ssra d a b) d a b (fun x y => x.sshiftRight (shAmt y))
/-- `SMIN`: Table 4.1. -/
def execSmin (d a b : SReg) (s : State) : Out := s.scalar2 (.smin d a b) d a b (fun x y => if x.slt y then x else y)
/-- `SMAX`: Table 4.1. -/
def execSmax (d a b : SReg) (s : State) : Out := s.scalar2 (.smax d a b) d a b (fun x y => if x.slt y then y else x)
/-- `SMINU`: Table 4.1. -/
def execSminu (d a b : SReg) (s : State) : Out := s.scalar2 (.sminu d a b) d a b (fun x y => if x.ult y then x else y)
/-- `SMAXU`: Table 4.1. -/
def execSmaxu (d a b : SReg) (s : State) : Out := s.scalar2 (.smaxu d a b) d a b (fun x y => if x.ult y then y else x)
/-- `SCMP_EQ`: Table 4.1. -/
def execScmpEq (d a b : SReg) (s : State) : Out := s.scalar2 (.scmpEq d a b) d a b (fun x y => boolWord (x == y))
/-- `SCMP_NE`: Table 4.1. -/
def execScmpNe (d a b : SReg) (s : State) : Out := s.scalar2 (.scmpNe d a b) d a b (fun x y => boolWord (x != y))
/-- `SCMP_LT`: Table 4.1. -/
def execScmpLt (d a b : SReg) (s : State) : Out := s.scalar2 (.scmpLt d a b) d a b (fun x y => boolWord (x.slt y))
/-- `SCMP_LE`: Table 4.1. -/
def execScmpLe (d a b : SReg) (s : State) : Out := s.scalar2 (.scmpLe d a b) d a b (fun x y => boolWord (x.sle y))
/-- `SCMP_LTU`: Table 4.1. -/
def execScmpLtu (d a b : SReg) (s : State) : Out := s.scalar2 (.scmpLtu d a b) d a b (fun x y => boolWord (x.ult y))
/-- `SCMP_LEU`: Table 4.1. -/
def execScmpLeu (d a b : SReg) (s : State) : Out := s.scalar2 (.scmpLeu d a b) d a b (fun x y => boolWord (x.ule y))
/-- `SBFE`: Table 4.1. -/
def execSbfe (d a b : SReg) (s : State) : Out := s.scalar2 (.sbfe d a b) d a b sbfeOf
/-- `SSEL`: Table 4.1; `sd` is its condition (R92). -/
def execSsel (d a b : SReg) (s : State) : Out :=
  s.scalar3 (.ssel d a b) d a b (fun c x y => if c != 0 then x else y)
/-- `SBFI`: Table 4.1. -/
def execSbfi (d a b : SReg) (s : State) : Out := s.scalar3 (.sbfi d a b) d a b sbfiOf
/-- `SPOPC`: Table 4.1. -/
def execSpopc (d a : SReg) (s : State) : Out :=
  s.scalar1 (.spopc d a) d a (fun x => BitVec.ofNat 64 (onesOf 64 x.toNat))
/-- `SCLZ`: Table 4.1. -/
def execSclz (d a : SReg) (s : State) : Out := s.scalar1 (.sclz d a) d a (fun x => BitVec.ofNat 64 (lzOf 64 x.toNat))
/-- `SCTZ`: Table 4.1. -/
def execSctz (d a : SReg) (s : State) : Out := s.scalar1 (.sctz d a) d a (fun x => BitVec.ofNat 64 (tzOf 64 x.toNat))

/-! ### Immediate forms (R93) -/

/-- `SADD_I`: Table 3.8. -/
def execSaddI (d a : SReg) (i : Imm) (s : State) : Out :=
  s.scalar1 (.saddI d a i) d a (fun x => x + immSx i)
/-- `SAND_I`: Table 3.8. -/
def execSandI (d a : SReg) (i : Imm) (s : State) : Out :=
  s.scalar1 (.sandI d a i) d a (fun x => x &&& immZx i)
/-- `SOR_I`: Table 3.8. -/
def execSorI (d a : SReg) (i : Imm) (s : State) : Out :=
  s.scalar1 (.sorI d a i) d a (fun x => x ||| immZx i)
/-- `SXOR_I`: Table 3.8. -/
def execSxorI (d a : SReg) (i : Imm) (s : State) : Out :=
  s.scalar1 (.sxorI d a i) d a (fun x => x ^^^ immZx i)
/-- `SCMP_EQ_I`: Table 3.8. -/
def execScmpEqI (d a : SReg) (i : Imm) (s : State) : Out :=
  s.scalar1 (.scmpEqI d a i) d a (fun x => boolWord (x == immSx i))
/-- `SCMP_NE_I`: Table 3.8. -/
def execScmpNeI (d a : SReg) (i : Imm) (s : State) : Out :=
  s.scalar1 (.scmpNeI d a i) d a (fun x => boolWord (x != immSx i))
/-- `SCMP_LT_I`: Table 3.8. -/
def execScmpLtI (d a : SReg) (i : Imm) (s : State) : Out :=
  s.scalar1 (.scmpLtI d a i) d a (fun x => boolWord (x.slt (immSx i)))
/-- `SCMP_LE_I`: Table 3.8. -/
def execScmpLeI (d a : SReg) (i : Imm) (s : State) : Out :=
  s.scalar1 (.scmpLeI d a i) d a (fun x => boolWord (x.sle (immSx i)))
/-- `SCMP_LTU_I`: Table 3.8. -/
def execScmpLtuI (d a : SReg) (i : Imm) (s : State) : Out :=
  s.scalar1 (.scmpLtuI d a i) d a (fun x => boolWord (x.ult (immSx i)))
/-- `SCMP_LEU_I`: Table 3.8. -/
def execScmpLeuI (d a : SReg) (i : Imm) (s : State) : Out :=
  s.scalar1 (.scmpLeuI d a i) d a (fun x => boolWord (x.ule (immSx i)))
/-- `SSHL_I`: Table 3.8. -/
def execSshlI (d a : SReg) (n : BitVec 6) (s : State) : Out :=
  s.scalar1 (.sshlI d a n) d a (fun x => x <<< n.toNat)
/-- `SSHR_I`: Table 3.8. -/
def execSshrI (d a : SReg) (n : BitVec 6) (s : State) : Out :=
  s.scalar1 (.sshrI d a n) d a (fun x => x >>> n.toNat)
/-- `SSRA_I`: Table 3.8. -/
def execSsraI (d a : SReg) (n : BitVec 6) (s : State) : Out :=
  s.scalar1 (.ssraI d a n) d a (fun x => x.sshiftRight n.toNat)

/-! ### Moves, constants and selectors (R119 to R121) -/

/-- `SMOVI`: the immediate sign-extended (R119). -/
def execSmovi (d : SReg) (i : BitVec 18) (s : State) : Out := s.scalarWord (.smovi d i) d [] (some []) (i.signExtend 64)
/-- `SLUI`: the immediate times 2^46 (R119). -/
def execSlui (d : SReg) (i : BitVec 18) (s : State) : Out :=
  s.scalarWord (.slui d i) d [] (some []) ((i.setWidth 64) <<< (46 : Nat))
/-- `SMOV` copies data and poison; a pending source is copied without waiting, and the destination becomes pending on the
same operation (R19, R120). -/
def execSmov (d a : SReg) (s : State) : Out :=
  s.awaits [d] (s.putScalar (.smov d a) latScl d (some [.s a]) (s.sreg a) 0)

/-- The value of a selector (Table 4.2).  In the trap skein the identities are those of the trapped skein (R41). -/
def State.selector (s : State) (sel : Selector) : Dword :=
  let k := s.me
  let p := s.myPanel
  let b := s.myLaunch.block
  let n := fun (x : Nat) => BitVec.ofNat 64 x
  match sel with
  | .status => k.status
  | .skein => n k.idx
  | .panel => n p.index
  | .panelX => n p.x
  | .panelY => n p.y
  | .panelZ => n p.z
  | .core => n s.curCore
  | .launch => n p.launch
  | .world => n s.myCore.world
  | .gangs => k.gangmap.setWidth 64
  | .region => k.regionCount.setWidth 64
  | .batch => k.openBatch.num.setWidth 64
  | .cycles => n (Tab.get 0 s.cycles (s.curCore / 64 % 4))
  | .gridX => n b.gx
  | .gridY => n b.gy
  | .gridZ => n b.gz
  | .skeins => n b.skeins
  | .seed => b.seed
  | .ctrbase => b.ctrbase
  | .cbank => n b.cbsize
  | .scratch => n (b.scratch * 4096)
  | .accs => n b.acc
/-- The selectors whose values are constants of the launch (R41, Table 4.2). -/
def isRoot : Selector → Bool
  | .gridX | .gridY | .gridZ | .skeins | .seed | .ctrbase | .cbank | .scratch | .accs => true
  | _ => false
/-- `SGET` (R121). -/
def execSget (d : SReg) (sel : Selector) (s : State) : Out :=
  s.scalarWord (.sget d sel) d [] (if isRoot sel then some [] else none) (s.selector sel)
/-- `SPUT` to the status word, which applies to words issued in a later cycle (R21, R121). -/
def execSput (a : SReg) (s : State) : Out :=
  s.awaits [a] (s.unpoisoned [a] (.next (s.pend 1 (.status (s.sval a)))))

end Sys2Proof.Machine
end

