-- ==== Sys2Proof/Machine/VInt.lean ====
section
/-! DEFINITION. Vector integer words (R150 to R156). -/

namespace Sys2Proof.Machine

/-! ### Elements (R46, Table 5.3) -/

/-- Bits of an element of a type. -/
def tyBits : ElemTy → Nat
  | .w => 32
  | .h2 => 16
  | .b4 => 8
/-- An element as signed. -/
def sInt (w x : Nat) : Int := if x < 2 ^ (w - 1) then x else (x : Int) - 2 ^ w
/-- A value modulo 2^w. -/
def wrap (w : Nat) (i : Int) : Nat := (i % 2 ^ w).toNat
/-- Saturate to the signed range of `w` bits. -/
def satS (w : Nat) (i : Int) : Nat := wrap w (satI i (-(2 ^ (w - 1))) (2 ^ (w - 1) - 1))
/-- Apply an element function of width, a and b to every element of two lanes. -/
def elemOp (t : ElemTy) (f : Nat → Nat → Nat → Nat) (x y : Word) : Word :=
  let w := tyBits t
  laneOf w ((List.range (32 / w)).map fun k => f w (laneElem w x k) (laneElem w y k))

def eAdd (w a b : Nat) : Nat := (a + b) % 2 ^ w
def eSub (w a b : Nat) : Nat := (a + 2 ^ w - b) % 2 ^ w
def eMul (w a b : Nat) : Nat := a * b % 2 ^ w
def eMulh (w a b : Nat) : Nat := wrap w (sInt w a * sInt w b / 2 ^ w)
def eMulhu (w a b : Nat) : Nat := a * b / 2 ^ w
def eShl (w a b : Nat) : Nat := (a <<< (b % w)) % 2 ^ w
def eShr (w a b : Nat) : Nat := a >>> (b % w)
def eSra (w a b : Nat) : Nat := wrap w (sInt w a / 2 ^ (b % w))
def eMin (w a b : Nat) : Nat := if sInt w a < sInt w b then a else b
def eMax (w a b : Nat) : Nat := if sInt w a < sInt w b then b else a
def eMinu (_ a b : Nat) : Nat := min a b
def eMaxu (_ a b : Nat) : Nat := max a b
def eAbsd (w a b : Nat) : Nat := (sInt w a - sInt w b).natAbs
def eAddsat (w a b : Nat) : Nat := satS w (sInt w a + sInt w b)
def eSubsat (w a b : Nat) : Nat := satS w (sInt w a - sInt w b)
def ePopc (w a _b : Nat) : Nat := onesOf w a
def eClz (w a _b : Nat) : Nat := lzOf w a
/-- Place and width of a `.w` bit field: `p` = b[4:0], `w` = min(b[13:8], 32). -/
def vfieldAt (b : Word) : Nat × Nat := (bitsOf b.toNat 0 5, min (bitsOf b.toNat 8 6) 32)
def vbfeOf (a b : Word) : Word := let (p, w) := vfieldAt b; BitVec.ofNat 32 (bitsOf a.toNat p w)
def vbfiOf (d a b : Word) : Word :=
  let (p, w) := vfieldAt b
  let m : Word := BitVec.ofNat 32 ((2 ^ w - 1) <<< p)
  (d &&& ~~~m) ||| (BitVec.ofNat 32 (a.toNat <<< p) &&& m)

/-! ### Operand forms -/

def immSx32 : Imm → Word
  | .short i => i.signExtend 32
  | .lit w => w
def immZx32 : Imm → Word
  | .short i => i.setWidth 32
  | .lit w => w

/-- A lane-wise integer word over two operands; its class is pure. -/
def State.vec2 (s : State) (i : Instr) (d a : VReg) (b : VSrc) (f : Word → Word → Word) : Out :=
  s.awaits (scalarsOf b) (s.vecWord i latVec d (some [.v a, srcOf b]) fun l =>
    let x := s.vlane a l
    let y := s.vsrc b l
    (laneResult [x, y] (f x.val y.val), 0))
/-- A lane-wise integer word over one operand. -/
def State.vec1 (s : State) (i : Instr) (d a : VReg) (f : Word → Word) : Out :=
  s.vecWord i latVec d (some [.v a]) fun l => let x := s.vlane a l; (laneResult [x] (f x.val), 0)

/-! ### Register forms (R155) -/

/-- `VADD`: Table 5.3. -/
def execVadd (t : ElemTy) (d a : VReg) (b : VSrc) (s : State) : Out :=
  s.vec2 (.vadd t d a b) d a b (elemOp t eAdd)
/-- `VSUB`: Table 5.3. -/
def execVsub (t : ElemTy) (d a : VReg) (b : VSrc) (s : State) : Out :=
  s.vec2 (.vsub t d a b) d a b (elemOp t eSub)
/-- `VMUL`: Table 5.3. -/
def execVmul (t : ElemTy) (d a : VReg) (b : VSrc) (s : State) : Out :=
  s.vec2 (.vmul t d a b) d a b (elemOp t eMul)
/-- `VMULH`: Table 5.3. -/
def execVmulh (t : ElemTy) (d a : VReg) (b : VSrc) (s : State) : Out :=
  s.vec2 (.vmulh t d a b) d a b (elemOp t eMulh)
/-- `VMULHU`: Table 5.3. -/
def execVmulhu (t : ElemTy) (d a : VReg) (b : VSrc) (s : State) : Out :=
  s.vec2 (.vmulhu t d a b) d a b (elemOp t eMulhu)
/-- `VSHL`: Table 5.3. -/
def execVshl (t : ElemTy) (d a : VReg) (b : VSrc) (s : State) : Out :=
  s.vec2 (.vshl t d a b) d a b (elemOp t eShl)
/-- `VSHR`: Table 5.3. -/
def execVshr (t : ElemTy) (d a : VReg) (b : VSrc) (s : State) : Out :=
  s.vec2 (.vshr t d a b) d a b (elemOp t eShr)
/-- `VSRA`: Table 5.3. -/
def execVsra (t : ElemTy) (d a : VReg) (b : VSrc) (s : State) : Out :=
  s.vec2 (.vsra t d a b) d a b (elemOp t eSra)
/-- `VMIN`: Table 5.3. -/
def execVmin (t : ElemTy) (d a : VReg) (b : VSrc) (s : State) : Out :=
  s.vec2 (.vmin t d a b) d a b (elemOp t eMin)
/-- `VMAX`: Table 5.3. -/
def execVmax (t : ElemTy) (d a : VReg) (b : VSrc) (s : State) : Out :=
  s.vec2 (.vmax t d a b) d a b (elemOp t eMax)
/-- `VMINU`: Table 5.3. -/
def execVminu (t : ElemTy) (d a : VReg) (b : VSrc) (s : State) : Out :=
  s.vec2 (.vminu t d a b) d a b (elemOp t eMinu)
/-- `VMAXU`: Table 5.3. -/
def execVmaxu (t : ElemTy) (d a : VReg) (b : VSrc) (s : State) : Out :=
  s.vec2 (.vmaxu t d a b) d a b (elemOp t eMaxu)
/-- `VABSD`: Table 5.3. -/
def execVabsd (t : ElemTy) (d a : VReg) (b : VSrc) (s : State) : Out :=
  s.vec2 (.vabsd t d a b) d a b (elemOp t eAbsd)
/-- `VADDSAT`: Table 5.3. -/
def execVaddsat (t : ElemTy) (d a : VReg) (b : VSrc) (s : State) : Out :=
  s.vec2 (.vaddsat t d a b) d a b (elemOp t eAddsat)
/-- `VSUBSAT`: Table 5.3. -/
def execVsubsat (t : ElemTy) (d a : VReg) (b : VSrc) (s : State) : Out :=
  s.vec2 (.vsubsat t d a b) d a b (elemOp t eSubsat)
/-- `VAND`: Table 5.3. -/
def execVand (d a : VReg) (b : VSrc) (s : State) : Out :=
  s.vec2 (.vand d a b) d a b (fun x y => x &&& y)
/-- `VOR`: Table 5.3. -/
def execVor (d a : VReg) (b : VSrc) (s : State) : Out :=
  s.vec2 (.vor d a b) d a b (fun x y => x ||| y)
/-- `VXOR`: Table 5.3. -/
def execVxor (d a : VReg) (b : VSrc) (s : State) : Out :=
  s.vec2 (.vxor d a b) d a b (fun x y => x ^^^ y)
/-- `VANDN`: Table 5.3. -/
def execVandn (d a : VReg) (b : VSrc) (s : State) : Out :=
  s.vec2 (.vandn d a b) d a b (fun x y => x &&& ~~~y)
/-- `VBFE`: Table 5.3. -/
def execVbfe (d a : VReg) (b : VSrc) (s : State) : Out :=
  s.vec2 (.vbfe d a b) d a b vbfeOf
/-- `VPOPC`: Table 5.3. -/
def execVpopc (t : ElemTy) (d a : VReg) (s : State) : Out :=
  s.vec1 (.vpopc t d a) d a fun x => elemOp t ePopc x 0
/-- `VCLZ`: Table 5.3. -/
def execVclz (t : ElemTy) (d a : VReg) (s : State) : Out :=
  s.vec1 (.vclz t d a) d a fun x => elemOp t eClz x 0
/-- `VBFI`: Table 5.3; `vd` is its first source (R151). -/
def execVbfi (d a : VReg) (b : VSrc) (s : State) : Out :=
  s.awaits (scalarsOf b) (s.vecWord (.vbfi d a b) latVec d (some [.v d, .v a, srcOf b]) fun l =>
    let z := s.vlane d l
    let x := s.vlane a l
    let y := s.vsrc b l
    (laneResult [z, x, y] (vbfiOf z.val x.val y.val), 0))

/-! ### Moves (R156) -/

/-- `VMOV` copies a vector or a broadcast scalar with its poison. -/
def execVmov (d : VReg) (b : VSrc) (s : State) : Out :=
  s.awaits (scalarsOf b) (s.vecWord (.vmov d b) latVec d (some [srcOf b]) fun l => (s.vsrc b l, 0))
/-- `VIDX`: the lane number. -/
def execVidx (d : VReg) (s : State) : Out :=
  s.vecWord (.vidx d) latVec d (some []) fun l => (⟨BitVec.ofNat 32 l, false⟩, 0)
/-- `VMOVI`. -/
def execVmovi (d : VReg) (i : Imm) (s : State) : Out :=
  s.vecWord (.vmovi d i) latVec d (some []) fun _ => (⟨immSx32 i, false⟩, 0)

/-! ### Immediate forms (Table 3.10) -/

/-- `VADD_I`: Table 3.10. -/
def execVaddI (d a : VReg) (i : Imm) (s : State) : Out := s.vec1 (.vaddI d a i) d a fun x => x + immSx32 i
/-- `VMUL_I`: Table 3.10. -/
def execVmulI (d a : VReg) (i : Imm) (s : State) : Out := s.vec1 (.vmulI d a i) d a fun x => x * immSx32 i
/-- `VAND_I`: Table 3.10. -/
def execVandI (d a : VReg) (i : Imm) (s : State) : Out := s.vec1 (.vandI d a i) d a fun x => x &&& immZx32 i
/-- `VOR_I`: Table 3.10. -/
def execVorI (d a : VReg) (i : Imm) (s : State) : Out := s.vec1 (.vorI d a i) d a fun x => x ||| immZx32 i
/-- `VXOR_I`: Table 3.10. -/
def execVxorI (d a : VReg) (i : Imm) (s : State) : Out := s.vec1 (.vxorI d a i) d a fun x => x ^^^ immZx32 i
/-- `VMIN_I`: Table 3.10. -/
def execVminI (d a : VReg) (i : Imm) (s : State) : Out := s.vec1 (.vminI d a i) d a fun x => elemOp .w eMin x (immSx32 i)
/-- `VMAX_I`: Table 3.10. -/
def execVmaxI (d a : VReg) (i : Imm) (s : State) : Out := s.vec1 (.vmaxI d a i) d a fun x => elemOp .w eMax x (immSx32 i)
/-- `VMINU_I`: Table 3.10. -/
def execVminuI (d a : VReg) (i : Imm) (s : State) : Out := s.vec1 (.vminuI d a i) d a fun x => elemOp .w eMinu x (immZx32 i)
/-- `VMAXU_I`: Table 3.10. -/
def execVmaxuI (d a : VReg) (i : Imm) (s : State) : Out := s.vec1 (.vmaxuI d a i) d a fun x => elemOp .w eMaxu x (immZx32 i)
/-- `VSHL_I`: Table 3.10. -/
def execVshlI (d a : VReg) (n : BitVec 5) (s : State) : Out := s.vec1 (.vshlI d a n) d a fun x => x <<< n.toNat
/-- `VSHR_I`: Table 3.10. -/
def execVshrI (d a : VReg) (n : BitVec 5) (s : State) : Out := s.vec1 (.vshrI d a n) d a fun x => x >>> n.toNat
/-- `VSRA_I`: Table 3.10. -/
def execVsraI (d a : VReg) (n : BitVec 5) (s : State) : Out := s.vec1 (.vsraI d a n) d a fun x => x.sshiftRight n.toNat

end Sys2Proof.Machine
end

