-- ==== Sys2Proof/Machine/VFp.lean ====
section
/-! DEFINITION. Vector floating point: binary32 (R157, R158), four-operand words (R159, R160), binary64 and complex words
(R161, R162). -/

namespace Sys2Proof.Machine

/-! ### Operand forms -/

/-- A lane result with its flags: a poisoned lane computes nothing and sets no flag (R151). -/
def laneF (srcs : List Lane) (r : Nat × FpFlags) : Lane × FpFlags :=
  match firstLane srcs with
  | some t => (⟨t, true⟩, 0)
  | none => (⟨BitVec.ofNat 32 r.1, false⟩, r.2)
/-- A pair result with its flags. -/
def pairF (srcs : List Scalar) (r : Nat × FpFlags) : Scalar × FpFlags :=
  match firstScalar srcs with
  | some t => (⟨t, true, none⟩, 0)
  | none => (⟨BitVec.ofNat 64 r.1, false, none⟩, r.2)

/-- A lane-wise binary32 word over two operands, its function over the two patterns. -/
def State.fp2 (s : State) (i : Instr) (d a : VReg) (b : VSrc) (f : Nat → Nat → Nat × FpFlags) : Out :=
  s.awaits (scalarsOf b) (s.vecWord i latVec d (some [.v a, srcOf b]) fun l =>
    let x := s.vlane a l
    let y := s.vsrc b l
    laneF [x, y] (f x.val.toNat y.val.toNat))
/-- A lane-wise word over one operand. -/
def State.fp1 (s : State) (i : Instr) (d a : VReg) (f : Nat → Nat × FpFlags) : Out :=
  s.vecWord i latVec d (some [.v a]) fun l => let x := s.vlane a l; laneF [x] (f x.val.toNat)
/-- A lane-wise word over three operands. -/
def State.fp3 (s : State) (i : Instr) (d a b e : VReg) (f : Nat → Nat → Nat → Nat × FpFlags) : Out :=
  s.vecWord i latVec d (some [.v a, .v b, .v e]) fun l =>
    let x := s.vlane a l
    let y := s.vlane b l
    let z := s.vlane e l
    laneF [x, y, z] (f x.val.toNat y.val.toNat z.val.toNat)
/-- A lane-wise word over two pairs. -/
def State.dp2 (s : State) (i : Instr) (d a : VReg) (b : VSrc) (f : Nat → Nat → Nat × FpFlags) : Out :=
  s.awaits (scalarsOf b) (s.pairWord i latVec d fun l =>
    let x := s.vpair a.toNat l
    let y := s.vpairSrc b l
    pairF [x, y] (f x.val.toNat y.val.toNat))
/-- A lane-wise word over two pairs that reads its destination first (R151). -/
def State.dp3 (s : State) (i : Instr) (d a : VReg) (b : VSrc) (f : Nat → Nat → Nat → Nat × FpFlags) : Out :=
  s.awaits (scalarsOf b) (s.pairWord i latVec d fun l =>
    let z := s.vpair d.toNat l
    let x := s.vpair a.toNat l
    let y := s.vpairSrc b l
    pairF [z, x, y] (f z.val.toNat x.val.toNat y.val.toNat))

/-! ### Binary32 operations (R157, R158) -/

/-- A binary32 operation of two numbers under the skein's mode. -/
def Skein.f2 (k : Skein) (f : Round → Num → Num → Nat × FpFlags) (x y : Nat) : Nat × FpFlags :=
  f (k.round f32) (k.fin f32 x) (k.fin f32 y)
/-- Minimum or maximum of two patterns under DAZ (R51). -/
def Skein.pick (k : Skein) (fm : Fmt) (f : Fmt → Nat → Nat → Num → Num → Nat × FpFlags) (x y : Nat) : Nat × FpFlags :=
  f fm (fm.dazBits k.daz x) (fm.dazBits k.daz y) (k.fin fm x) (k.fin fm y)
/-- The class bit of a stored pattern (R158). -/
def fclassOf (x : Nat) : Nat :=
  match f32.decode x with
  | .inf n => if n then 1 else 0x80
  | .nan s => if s then 0x100 else 0x200
  | .fin n m _ =>
    if m = 0 then (if n then 8 else 0x10)
    else if f32.subnormal x then (if n then 4 else 0x20)
    else (if n then 2 else 0x40)
/-- a × 2^n, rounded once; beyond ±400 every finite value over- or underflows alike, so n is held within that. -/
def Skein.fscale (k : Skein) (x y : Nat) : Nat × FpFlags :=
  let n := satI (BitVec.ofNat 32 y).toInt (-400) 400
  match k.fin f32 x with
  | .nan s => (f32.nan, if s then fNV else 0)
  | .inf g => (f32.signed g f32.infBits, 0)
  | .fin g m e => if m = 0 then (f32.signed g 0, 0) else (k.round f32).apply g m (e + n)
/-- A number rounded to an integral one; a zero keeps the sign. -/
def Skein.frint (k : Skein) (x : Nat) : Nat × FpFlags :=
  match k.fin f32 x with
  | .nan s => (f32.nan, if s then fNV else 0)
  | .inf g => (f32.signed g f32.infBits, 0)
  | .fin g m e =>
    let r := roundInt k.rm g m e
    (((⟨f32, .rne, false, false⟩ : Round).apply g r.1 0).1, if r.2 then fNX else 0)

/-- `VFADD`: Table 5.4. -/
def execVfadd (d a : VReg) (b : VSrc) (s : State) : Out :=
  s.fp2 (.vfadd d a b) d a b (s.me.f2 fpAdd)
/-- `VFSUB`: Table 5.4. -/
def execVfsub (d a : VReg) (b : VSrc) (s : State) : Out :=
  s.fp2 (.vfsub d a b) d a b (s.me.f2 fpSub)
/-- `VFMUL`: Table 5.4. -/
def execVfmul (d a : VReg) (b : VSrc) (s : State) : Out :=
  s.fp2 (.vfmul d a b) d a b (s.me.f2 fpMul)
/-- `VFMIN`: Table 5.4. -/
def execVfmin (d a : VReg) (b : VSrc) (s : State) : Out :=
  s.fp2 (.vfmin d a b) d a b (s.me.pick f32 fpMin)
/-- `VFMAX`: Table 5.4. -/
def execVfmax (d a : VReg) (b : VSrc) (s : State) : Out :=
  s.fp2 (.vfmax d a b) d a b (s.me.pick f32 fpMax)
/-- `VFABS`: bit [31] cleared (R50). -/
def execVfabs (d a : VReg) (s : State) : Out := s.fp1 (.vfabs d a) d a fun x => (x % 2 ^ 31, 0)
/-- `VFNEG`: bit [31] inverted (R50). -/
def execVfneg (d a : VReg) (s : State) : Out := s.fp1 (.vfneg d a) d a fun x => (x ^^^ 2 ^ 31, 0)
/-- `VFCLASS` (R158). -/
def execVfclass (d a : VReg) (s : State) : Out := s.fp1 (.vfclass d a) d a fun x => (fclassOf x, 0)
/-- `VFSCALE` (R157). -/
def execVfscale (d a : VReg) (b : VSrc) (s : State) : Out := s.fp2 (.vfscale d a b) d a b s.me.fscale
/-- `VFRINT` (R157). -/
def execVfrint (d a : VReg) (s : State) : Out := s.fp1 (.vfrint d a) d a s.me.frint

/-! ### Four-operand operations (R159, R160) -/

/-- round(±a × b ± c), fused. -/
def Skein.fma (k : Skein) (negP negC : Bool) (x y z : Nat) : Nat × FpFlags :=
  let a := k.fin f32 x
  let c := k.fin f32 z
  fpDot (k.round f32) [(if negP then a.negate else a, k.fin f32 y)] (some (if negC then c.negate else c))
/-- sat(min(a + b, c)) over the exact sum (R160). -/
def addMin (x y z : Nat) : Nat := satS 32 (min (sInt 32 x + sInt 32 y) (sInt 32 z))
/-- minimumNumber of the rounded sum and c (R160); flags of the sum, and NV for a signalling c. -/
def Skein.faddMin (k : Skein) (x y z : Nat) : Nat × FpFlags :=
  let r := k.f2 fpAdd x y
  let c := k.fin f32 z
  ((fpMin f32 r.1 (f32.dazBits k.daz z) (f32.decode r.1) c).1, r.2 ||| sigFlag [c])

/-- `VFMA` (Table 5.5). -/
def execVfma (d a b e : VReg) (s : State) : Out := s.fp3 (.vfma d a b e) d a b e (s.me.fma false false)
/-- `VFMS` (Table 5.5). -/
def execVfms (d a b e : VReg) (s : State) : Out := s.fp3 (.vfms d a b e) d a b e (s.me.fma false true)
/-- `VFNMA` (Table 5.5). -/
def execVfnma (d a b e : VReg) (s : State) : Out := s.fp3 (.vfnma d a b e) d a b e (s.me.fma true false)
/-- `VMAD` (Table 5.5). -/
def execVmad (d a b e : VReg) (s : State) : Out :=
  s.fp3 (.vmad d a b e) d a b e fun x y z => ((x * y + z) % 2 ^ 32, 0)
/-- `VADDMIN` (R160). -/
def execVaddmin (d a b e : VReg) (s : State) : Out :=
  s.fp3 (.vaddmin d a b e) d a b e fun x y z => (addMin x y z, 0)
/-- `VFADDMIN` (R160). -/
def execVfaddmin (d a b e : VReg) (s : State) : Out := s.fp3 (.vfaddmin d a b e) d a b e s.me.faddMin

/-! ### Binary64 (R161) -/

/-- A binary64 operation of two numbers under the skein's mode. -/
def Skein.d2 (k : Skein) (f : Round → Num → Num → Nat × FpFlags) (x y : Nat) : Nat × FpFlags :=
  f (k.round f64) (k.fin f64 x) (k.fin f64 y)
/-- `VDADD` (R161). -/
def execVdadd (d a : VReg) (b : VSrc) (s : State) : Out := s.dp2 (.vdadd d a b) d a b (s.me.d2 fpAdd)
/-- `VDMUL` (R161). -/
def execVdmul (d a : VReg) (b : VSrc) (s : State) : Out := s.dp2 (.vdmul d a b) d a b (s.me.d2 fpMul)
/-- `VDFMA` (R161): the destination is the addend. -/
def execVdfma (d a : VReg) (b : VSrc) (s : State) : Out :=
  s.dp3 (.vdfma d a b) d a b fun z x y =>
    fpDot (s.me.round f64) [(s.me.fin f64 x, s.me.fin f64 y)] (some (s.me.fin f64 z))

/-! ### Complex (R162) -/

/-- Real and imaginary part of a complex value. -/
def Skein.cplx (k : Skein) (x : Nat) : Num × Num := (k.fin f32 (bitsOf x 0 32), k.fin f32 (bitsOf x 32 32))
/-- A complex value of two parts, with their flags together. -/
def cplxOf (re im : Nat × FpFlags) : Nat × FpFlags := (re.1 + im.1 <<< 32, re.2 ||| im.2)
/-- `VCADD` (R162). -/
def execVcadd (d a : VReg) (b : VSrc) (s : State) : Out :=
  s.dp2 (.vcadd d a b) d a b fun x y =>
    let (ar, ai) := s.me.cplx x
    let (br, bi) := s.me.cplx y
    cplxOf (fpAdd (s.me.round f32) ar br) (fpAdd (s.me.round f32) ai bi)
/-- `VCMUL` (R162). -/
def execVcmul (d a : VReg) (b : VSrc) (s : State) : Out :=
  s.dp2 (.vcmul d a b) d a b fun x y =>
    let (ar, ai) := s.me.cplx x
    let (br, bi) := s.me.cplx y
    cplxOf (fpDot (s.me.round f32) [(ar, br), (ai.negate, bi)] none)
      (fpDot (s.me.round f32) [(ar, bi), (ai, br)] none)
/-- `VCFMA` (R162): the destination is the addend. -/
def execVcfma (d a : VReg) (b : VSrc) (s : State) : Out :=
  s.dp3 (.vcfma d a b) d a b fun z x y =>
    let (ar, ai) := s.me.cplx x
    let (br, bi) := s.me.cplx y
    let (dr, di) := s.me.cplx z
    cplxOf (fpDot (s.me.round f32) [(ar, br), (ai.negate, bi)] (some dr))
      (fpDot (s.me.round f32) [(ar, bi), (ai, br)] (some di))

end Sys2Proof.Machine
end

