-- ==== Sys2Proof/Machine/Trn.lean ====
section
/-! DEFINITION. Divide, square root, functions and random numbers (R163 to R166), which complete at `TRN_COMPLETE`. -/

namespace Sys2Proof.Machine

/-- A word of major 0x09: its lanes and its result are fixed at issue and delivered at completion (R163; log 5). -/
def State.trnWord (s : State) (i : Instr) (d : VReg) (fs : Bool) (srcs : Option (List Src))
    (f : Nat → Lane × FpFlags) : Out :=
  s.awaitsFlag fs
    (let rs := s.lanes.map fun l => (s.me.key d.toNat l, f l)
     let fl := orFlags (rs.map fun r => r.2.2)
     let q := s.lineage i srcs (rs.any fun r => r.2.1.poison) fl
     .next (q.1.startOp fs (.result false (rs.map fun r => (r.1, r.2.1)) fl q.2)))
/-- A word over one operand. -/
def State.trn1 (s : State) (i : Instr) (d a : VReg) (fs : Bool) (f : Num → Nat × FpFlags) : Out :=
  s.trnWord i d fs (some [.v a]) fun l => let x := s.vlane a l; laneF [x] (f (s.me.fin f32 x.val.toNat))

/-- `VFDIV` (R164). -/
def execVfdiv (d a : VReg) (b : VSrc) (fs : Bool) (s : State) : Out :=
  s.awaits (scalarsOf b) (s.trnWord (.vfdiv d a b fs) d fs (some [.v a, srcOf b]) fun l =>
    let x := s.vlane a l
    let y := s.vsrc b l
    laneF [x, y] (s.me.f2 fpDiv x.val.toNat y.val.toNat))
/-- `VFSQRT` (R164). -/
def execVfsqrt (d a : VReg) (fs : Bool) (s : State) : Out :=
  s.trn1 (.vfsqrt d a fs) d a fs (fpSqrt (s.me.round f32))
/-- `VEXP2` (R165). -/
def execVexp2 (d a : VReg) (fs : Bool) (s : State) : Out := s.trn1 (.vexp2 d a fs) d a fs (fnExp2 s.me.ftz)
/-- `VLOG2` (R165). -/
def execVlog2 (d a : VReg) (fs : Bool) (s : State) : Out := s.trn1 (.vlog2 d a fs) d a fs (fnLog2 s.me.ftz)
/-- `VRCP` (R165). -/
def execVrcp (d a : VReg) (fs : Bool) (s : State) : Out := s.trn1 (.vrcp d a fs) d a fs (fnRcp s.me.ftz)
/-- `VRSQ` (R165). -/
def execVrsq (d a : VReg) (fs : Bool) (s : State) : Out := s.trn1 (.vrsq d a fs) d a fs (fnRsq s.me.ftz)
/-- `VSINP` (R165). -/
def execVsinp (d a : VReg) (fs : Bool) (s : State) : Out := s.trn1 (.vsinp d a fs) d a fs (fnTrig false s.me.ftz)
/-- `VCOSP` (R165). -/
def execVcosp (d a : VReg) (fs : Bool) (s : State) : Out := s.trn1 (.vcosp d a fs) d a fs (fnTrig true s.me.ftz)
/-- The lane global index of a lane (R12). -/
def State.laneGlobal (s : State) (l : Nat) : Nat := s.myPanel.index * 1024 + s.me.idx * 32 + l
/-- `VRNG` (R166): it is never tagged. -/
def execVrng (d a : VReg) (fs : Bool) (s : State) : Out :=
  s.trnWord (.vrng d a fs) d fs none fun l =>
    let x := s.vlane a l
    let b := s.myLaunch.block
    laneF [x] ((rngWord b.seed b.ctrbase (s.laneGlobal l) (bitsOf x.val.toNat 0 24)).toNat, 0)

/-- The end of a long-latency word whose results are held with it: they reach the lanes, its flags the status word, and
its flag falls (R84, R21, R163). -/
def State.finishResult (s : State) (id : Nat) (load : Bool) : State :=
  match s.op id with
  | some o =>
    match o.kind with
    | .result l ws fl tag =>
      if l == load then
        let s := s.delOp id
        let s := s.modSkein o.sk fun k =>
          let k := if ws.isEmpty then k else k.setLanes (o.keep ws) tag
          { k with status := stickyInto k.status fl }
        s.endFlag o
      else s
    | _ => s
  | none => s
/-- `TRN_COMPLETE` (R163): the word of this name completes; where there is none nothing changes. -/
def execTrnComplete (id : Nat) (s : State) : Out := .next (s.finishResult id false)

end Sys2Proof.Machine
end

