-- ==== Sys2Proof/Machine/Load.lean ====
section
/-! DEFINITION. Loads (R185 to R187) and `LOAD_COMPLETE` (R84). -/

namespace Sys2Proof.Machine

/-! ### Forms -/

/-- A load's space, and whether it is speculative, bypasses L1, or acquires at a scope (Table 6.2). -/
structure LoadForm where
  sp : Space
  spec : Bool
  byp : Bool
  acq : Option Scope
  deriving DecidableEq, Repr

/-- Its result may be tagged: load-rooted, or for `LDC` root (Table 6.2). -/
def LoadForm.tagged (f : LoadForm) : Bool := !f.byp && f.acq.isNone

/-- Where a lane's address lies, as a fault reports it: an offset in the bank is added to the bank's address once it has
passed its checks (R176). -/
def State.placeOf (s : State) (w : Who) (sp : Space) (n a : Nat) : Nat :=
  let b := s.blockOf w
  if sp == .bank && a % n == 0 && decide (a + n ≤ b.cbsize) then (b.cbank + a) % 2 ^ 64 else a

/-- The lanes of a load with their checks. -/
def State.tryLoad (s : State) (w : Who) (f : LoadForm) (e : LogEntry) (o : Off) (n : Nat) (ls : List Nat) : List LaneTry :=
  let ts := ls.map fun l =>
    let a := e.addr o n l
    (l, s.placeOf w f.sp n a, s.checkLane w f.sp needR n false a)
  if f.sp == .pad then ts else s.withMemory w (pathOf f.byp) ts

/-- The lines or granules that a load-rooted result records (R38). -/
def loadLines (w : Who) (f : LoadForm) (ts : List LaneOk) : List Nat :=
  (ts.map fun t => if f.sp == .pad then padGranule w.panel t.2.2.pa else globLine t.2.2.pa).eraseDups
/-- The same lines as addresses of the program (R371). -/
def shownLines (f : LoadForm) (ts : List LaneOk) : List Nat :=
  (ts.map fun t => (if f.sp == .pad then t.2.2.pa else t.2.1) / 256 * 256).eraseDups
/-- The lanes allow a tag: of a load-rooted result at most eight lines (R38; `LDC` is root, R187), and none of a page that
every load reads as `LD.byp` (Table 10.8). -/
def mayRoot (w : Who) (f : LoadForm) (ts : List LaneOk) : Bool :=
  f.tagged && (f.sp == .bank || decide ((loadLines w f ts).length ≤ 8)) && (f.sp == .pad || ts.all fun t => pathOf false t.2.2 == .l1)

/-- An entry of this key in the core's cabinet. -/
def State.lookup (s : State) (k : Key) : Option (Nat × CabEntry) :=
  List.find? (fun p => p.2.key == k) (s.sweep s.curCore).myCore.cabinet

/-- The key under which a load may be tagged (R35, R187); a pair is more than one register. -/
def State.loadKey (s : State) (i : Instr) (f : LoadForm) (n : Nat) (b : SReg) (o : Off) : Option Key :=
  if f.tagged && n != 8 then
    s.keyOf i (.s b :: (match offVec o with | some v => [.v v] | none => []))
  else none

/-! ### Accession records (R32) -/

/-- The lowest invalid record, or index 31. -/
def Skein.freeAccn (k : Skein) : Nat := (firstFree 16 fun n => !(Tab.get 0 k.accession (4 * n)).getLsbD 63).getD noAccn
/-- Record the lanes that a speculative load poisons; `fs` are lane, address and code of each. -/
def State.recordAccn (s : State) (fs : List (Nat × Nat × Nat)) : State × Nat :=
  let k := s.me
  let n := k.freeAccn
  match fs with
  | [] => (s, n)
  | f :: _ =>
    if n = noAccn then (s, n) else
    let mask := fs.foldl (fun m x => m + 2 ^ x.1) 0
    let w0 : Dword := BitVec.ofNat 64 (2 ^ 63 + s.cur.slot % 4 * 2 ^ 40 + f.2.2 % 256 * 2 ^ 32 + mask)
    let t := Tab.put (4 * n + 1) (BitVec.ofNat 64 f.2.1) (Tab.put (4 * n) w0 k.accession)
    let t := Tab.put (4 * n + 3) (k.regionPc.setWidth 64) (Tab.put (4 * n + 2) (s.curPc.setWidth 64) t)
    (s.setMe { k with accession := t }, n)

/-! ### Issue -/

/-- The load is on its way: lanes whose tokens are fixed, lanes that it has still to read, its tag where it has one (R37,
R84).  In deterministic mode it reads at once (R278). -/
def State.startLoad (s : State) (f : LoadForm) (e : LogEntry) (n : Nat) (d : VReg) (fs : Bool) (toks : List (Nat × Lane))
    (ok : List LaneOk) (tag : Option Nat) : Out :=
  let w := s.who
  let req : LoadReq :=
    ⟨if f.sp == .pad then some w.panel else none, n, f.acq, ok.map (e.loadLane d n f.byp), toks, tag⟩
  let t := s.startOp fs (.load req)
  .next (if s.dmode w then t.readLoad s.nextId else t)

/-- A load that finds its key binds to the entry, whose own load has then read, and does not execute (R37, R39). -/
def State.bindLoad (s : State) (d : VReg) (fs : Bool) (q : Nat × CabEntry) : Out :=
  let s := (s.sweep s.curCore).useEntry q.1 q.2
  let s := s.readAll fun o => o.core == s.curCore && (match o.kind with | .load r => r.tag == some q.1 | _ => false)
  let e := Tab.get q.2 s.myCore.cabinet q.1
  .next (s.startOp fs (.result true (s.lanes.map fun l => (s.me.key d.toNat l, ⟨e.vec.getD l 0, false⟩)) 0 (some q.1)))

/-- A speculative load: each faulting lane takes a token, and no fault is raised (R185). -/
def State.specLoad (s : State) (f : LoadForm) (e : LogEntry) (n : Nat) (d : VReg) (b : SReg) (o : Off) (fs : Bool)
    (key : Option Key) (i : Instr) : Out :=
  let w := s.who
  let toks := s.lanes.filterMap fun l => (s.addrToken b (offVec o) l).map fun t => (l, t)
  let ts := s.tryLoad w f e o n (s.lanes.filter fun l => (s.addrToken b (offVec o) l).isNone)
  let ok := passed ts
  s.pastAtomics (if f.sp == .pad then some w.panel else none) (ok.map fun t => t.2.2.pa) n <|
  s.pastLogged (if f.sp == .pad then [] else ok.map fun t => t.2.1) <|
    let q := (s.noteBad w ts).recordAccn (failed ts)
    let s := if f.sp == .pad then q.1 else q.1.walkAll w (ok.map fun t => t.2.1)
    let ws := toks.flatMap (fun t => e.tokenWrites d n t.1 t.2) ++
      (failed ts).flatMap fun t => e.tokenWrites d n t.1 (token t.2.2 q.2)
    match key with
    | some k =>
      if toks.isEmpty && (failed ts).isEmpty && mayRoot w f ok then
        let c := s.bindKey ⟨k, i, [], 0, loadLines w f ok, shownLines f ok, true, 0⟩
        c.1.startLoad f e n d fs ws ok c.2
      else s.startLoad f e n d fs ws ok none
    | none => s.startLoad f e n d fs ws ok none

/-- A load that is not speculative: it is logged, raises FAULT, or goes on its way. -/
def State.plainLoad (s : State) (f : LoadForm) (e : LogEntry) (n : Nat) (d : VReg) (b : SReg) (o : Off) (fs : Bool)
    (key : Option Key) (i : Instr) : Out :=
  let w := s.who
  s.unpoisonedLanes (s.addrToken b (offVec o)) <|
    let ts := s.tryLoad w f e o n s.lanes
    match tried (f.sp != .pad) ts with
    | .fault c a => s.accessFault w ts c a
    | .log c a => s.logWord (some fs) e none ts c a needR
    | .ok ok =>
      s.pastAtomics (if f.sp == .pad then some w.panel else none) (ok.map fun t => t.2.2.pa) n <|
      s.pastLogged (if f.sp == .pad then [] else ok.map fun t => t.2.1) <|
        let s := if f.sp == .pad then s else s.walkAll w (ok.map fun t => t.2.1)
        match key with
        | some k =>
          if mayRoot w f ok then
            let c := s.bindKey ⟨k, i, [], 0, loadLines w f ok, shownLines f ok, f.sp != .bank, 0⟩
            c.1.startLoad f e n d fs [] ok c.2
          else s.startLoad f e n d fs [] ok none
        | none => s.startLoad f e n d fs [] ok none

/-- A load word. -/
def State.loadWord (s : State) (i : Instr) (f : LoadForm) (z : Size) (d : VReg) (b : SReg) (o : Off) (fs : Bool) : Out :=
  s.awaits [b] <| s.awaitsFlag fs <| s.memoryWord false <|
    let n := sizeBytes z
    let e := s.operands i (s.flagOf fs) false b (offVec o) 0 fun _ => 0
    let key := s.loadKey i f n b o
    match key.bind s.lookup with
    | some q => s.bindLoad d fs q
    | none => if f.spec then s.specLoad f e n d b o fs key i else s.plainLoad f e n d b o fs key i

/-! ### Replay (R183, R335) -/

/-- A fault of a replay, or a refusal: the entry is freed and FAULT raised at the logged PC (R183, R335). -/
def State.faultEntry (s : State) (k n code addr : Nat) : State :=
  let e := Tab.get LogEntry.free (s.skein k).oplog n
  (s.freeEntry k n).lateFault k code e.slot.toNat e.pc (BitVec.ofNat 64 addr)

/-- A replay that faults again on a page that may be logged stays in the log, and the driver is asked again. -/
def State.relog (s : State) (k n code addr : Nat) (need : Need) : State :=
  let w := s.whoOf k
  let page := addr / 4096 * 4096
  let s := s.modSkein k fun x =>
    let e := Tab.get LogEntry.free x.oplog n
    let e := { e with
      code := BitVec.ofNat 8 code
      page := BitVec.ofNat 64 page
      replays := if e.replays = 255 then 255 else e.replays + 1 }
    { x with oplog := Tab.put n e x.oplog }
  s.postFault (s.ctxOf w) page code (needKind need)

/-- A replay of the entry is on its way (R335). -/
def State.replaying (s : State) (k n : Nat) : Bool := s.ops.any fun q => q.2.sk == k && q.2.entry == some n
/-- What a replay does once its lanes are checked: a fault on the same page that may log is logged again, and any other
raises FAULT (R183). -/
def State.replayTried (s : State) (k n : Nat) (need : Need) (ts : List LaneTry) (perform : State → List LaneOk → State) :
    State :=
  let page := (Tab.get LogEntry.free (s.skein k).oplog n).page.toNat
  let fs := failed ts
  match fs.filter fun f => !(mayLogCode f.2.2 && f.2.1 / 4096 * 4096 == page) with
  | f :: _ => (if f.2.2 = 5 then s.noteBad (s.whoOf k) ts else s).faultEntry k n f.2.2 f.2.1
  | [] =>
    match fs with
    | f :: _ => s.relog k n f.2.2 f.2.1 need
    | [] => perform s (passed ts)

/-- The replay of a load. -/
def State.replayLoad (s : State) (f : LoadForm) (k n : Nat) (z : Size) (d : VReg) (o : Off) : State :=
  let w := s.whoOf k
  let e := Tab.get LogEntry.free (s.skein k).oplog n
  let m := sizeBytes z
  s.replayTried k n needR (s.tryLoad w f e o m e.lanes) fun s ok =>
    let t := s.replayOp w n e false (.load ⟨none, m, f.acq, ok.map (e.loadLane d m f.byp), [], none⟩)
    if s.dmode w then t.readLoad s.nextId else t

/-! ### Words -/

/-- `LD` (Table 6.2). -/
def execLd (z : Size) (d : VReg) (b : SReg) (o : Off) (fs : Bool) (s : State) : Out :=
  s.loadWord (.ld z d b o fs) ⟨.glob, false, false, none⟩ z d b o fs
/-- `LD.spec` (Table 6.2). -/
def execLdSpec (z : Size) (d : VReg) (b : SReg) (o : Off) (fs : Bool) (s : State) : Out :=
  s.loadWord (.ldSpec z d b o fs) ⟨.glob, true, false, none⟩ z d b o fs
/-- `LD.byp` (Table 6.2). -/
def execLdByp (z : Size) (d : VReg) (b : SReg) (o : Off) (fs : Bool) (s : State) : Out :=
  s.loadWord (.ldByp z d b o fs) ⟨.glob, false, true, none⟩ z d b o fs
/-- `LD.acq.core` (Table 6.2). -/
def execLdAcqCore (z : Size) (d : VReg) (b : SReg) (o : Off) (fs : Bool) (s : State) : Out :=
  s.loadWord (.ldAcqCore z d b o fs) ⟨.glob, false, false, some .core⟩ z d b o fs
/-- `LD.acq.quad` (Table 6.2). -/
def execLdAcqQuad (z : Size) (d : VReg) (b : SReg) (o : Off) (fs : Bool) (s : State) : Out :=
  s.loadWord (.ldAcqQuad z d b o fs) ⟨.glob, false, false, some .quad⟩ z d b o fs
/-- `LD.acq.die` (Table 6.2). -/
def execLdAcqDie (z : Size) (d : VReg) (b : SReg) (o : Off) (fs : Bool) (s : State) : Out :=
  s.loadWord (.ldAcqDie z d b o fs) ⟨.glob, false, false, some .die⟩ z d b o fs
/-- `LD.acq.pkg` (Table 6.2). -/
def execLdAcqPkg (z : Size) (d : VReg) (b : SReg) (o : Off) (fs : Bool) (s : State) : Out :=
  s.loadWord (.ldAcqPkg z d b o fs) ⟨.glob, false, false, some .pkg⟩ z d b o fs
/-- `LD.acq.pod` (Table 6.2). -/
def execLdAcqPod (z : Size) (d : VReg) (b : SReg) (o : Off) (fs : Bool) (s : State) : Out :=
  s.loadWord (.ldAcqPod z d b o fs) ⟨.glob, false, false, some .pod⟩ z d b o fs
/-- `LDP` (Table 6.2). -/
def execLdp (z : Size) (d : VReg) (b : SReg) (o : Off) (fs : Bool) (s : State) : Out :=
  s.loadWord (.ldp z d b o fs) ⟨.pad, false, false, none⟩ z d b o fs
/-- `LDP.spec` (Table 6.2). -/
def execLdpSpec (z : Size) (d : VReg) (b : SReg) (o : Off) (fs : Bool) (s : State) : Out :=
  s.loadWord (.ldpSpec z d b o fs) ⟨.pad, true, false, none⟩ z d b o fs
/-- `LDC` (Table 6.2). -/
def execLdc (z : Size) (d : VReg) (b : SReg) (o : Off) (fs : Bool) (s : State) : Out :=
  s.loadWord (.ldc z d b o fs) ⟨.bank, false, false, none⟩ z d b o fs

/-- The lanes of a load that has read reach their registers, and its flag falls; an acquiring load then acquires (R84,
R186). -/
def State.finishLoad (s : State) (id : Nat) (o : Op) (r : LoadReq) : State :=
  let s := (s.delOp id).modSkein o.sk fun k => if r.got.isEmpty then k else k.setLanes (o.keep r.got) r.tag
  let s := s.endFlag o
  match r.acq with
  | some sc => s.acquire o.core (s.fusedOf o.who) sc
  | none => s
/-- `LOAD_COMPLETE` (R84): the load of this name reads what it has not read, its lanes are delivered and its flag falls;
where there is none nothing changes. -/
def execLoadComplete (id : Nat) (s : State) : Out :=
  match s.op id with
  | some o =>
    match o.kind with
    | .load _ =>
      let t := s.readUpTo o.core id
      match t.op id with
      | some q => .next (match q.kind with | .load r => t.finishLoad id q r | _ => t)
      | none => .next t
    | _ => .next (s.finishResult id true)
  | none => .next s

end Sys2Proof.Machine
end

