-- ==== Sys2Proof/Machine/Store.lean ====
section
/-! DEFINITION. Stores (R188) and `STORE_ACCEPTED` (R84), atomics (R189, R190) and `ATOMIC_PERFORMED`. -/

namespace Sys2Proof.Machine

/-! ### Stores -/

/-- The lanes of a store with their checks. -/
def State.tryStore (s : State) (w : Who) (sp : Space) (e : LogEntry) (o : Off) (n : Nat) : List LaneTry :=
  let ts := e.lanes.map fun l => let a := e.addr o n l; (l, a, s.checkLane w sp needW n false a)
  if sp == .pad then ts else s.withTarget n ts
/-- A word writes bytes of its panel's scratchpad; loads of the core that were accepted before have read them (R265). -/
def State.padWord (s : State) (w : Who) (bs : List (Nat × Byte)) : State :=
  (s.readBefore w.core false (some w.panel) fun a => bs.any fun b => b.1 == a).padWrite w.panel bs

/-- The operands of a store, with its data. -/
def State.storeOperands (s : State) (i : Instr) (z : Size) (d : VReg) (b : SReg) (o : Off) (fs : Bool) : LogEntry :=
  s.operands i (s.flagOf fs) true b (offVec o) 0 (s.dataOf d (z == .d))

/-- A store word, after its waits: its bytes are accepted, and its flag falls at `STORE_ACCEPTED`. -/
def State.storeBody (s : State) (i : Instr) (sp : Space) (z : Size) (d : VReg) (b : SReg) (o : Off) (fs : Bool) : Out :=
  let n := sizeBytes z
  s.unpoisonedLanes (s.dataToken d (z == .d)) <| s.unpoisonedLanes (s.addrToken b (offVec o)) <|
    let e := s.storeOperands i z d b o fs
    let w := s.who
    let ts := s.tryStore w sp e o n
    match tried (sp == .glob) ts with
    | .fault c a => s.accessFault w ts c a
    | .log c a => s.logWord (some fs) e none ts c a needW
    | .ok ok =>
      s.pastAtomics (if sp == .pad then some w.panel else none) (ok.map fun t => t.2.2.pa) n <|
        let bs := storeBytes n e.data ok
        let s := if sp == .pad then s.padWord w bs else ((s.sealed ok).writeGlobal w (ok.map fun t => t.2.1) bs).walkAll w (ok.map fun t => t.2.1)
        .next (s.startOp fs .store)

/-- A plain store. -/
def State.storeWord (s : State) (i : Instr) (sp : Space) (z : Size) (d : VReg) (b : SReg) (o : Off) (fs : Bool) : Out :=
  s.awaits [b] <| s.awaitsFlag fs <| s.memoryWord true <| s.storeBody i sp z d b o fs
/-- A releasing store is commit-class, and its write comes after the release (R188). -/
def State.storeRel (s : State) (i : Instr) (sc : Scope) (z : Size) (d : VReg) (b : SReg) (o : Off) (fs : Bool) : Out :=
  s.awaits [b] <| s.awaitsFlag fs <| s.commitClass <| s.memoryWord true <| s.released sc fun s =>
    s.commit.storeBody i .glob z d b o fs

/-- The replay of a store (R335). -/
def State.replayStore (s : State) (k n : Nat) (z : Size) (o : Off) : State :=
  let w := s.whoOf k
  let e := Tab.get LogEntry.free (s.skein k).oplog n
  let m := sizeBytes z
  s.replayTried k n needW (s.tryStore w .glob e o m) fun s ok =>
    ((s.sealed ok).writeGlobal w (ok.map fun t => t.2.1) (storeBytes m e.data ok)).freeEntry k n

/-- `ST` (R188). -/
def execSt (z : Size) (d : VReg) (b : SReg) (o : Off) (fs : Bool) (s : State) : Out :=
  s.storeWord (.st z d b o fs) .glob z d b o fs
/-- `STP` (R188). -/
def execStp (z : Size) (d : VReg) (b : SReg) (o : Off) (fs : Bool) (s : State) : Out :=
  s.storeWord (.stp z d b o fs) .pad z d b o fs
/-- `ST.rel.core` (R188). -/
def execStRelCore (z : Size) (d : VReg) (b : SReg) (o : Off) (fs : Bool) (s : State) : Out :=
  s.storeRel (.stRelCore z d b o fs) .core z d b o fs
/-- `ST.rel.quad` (R188). -/
def execStRelQuad (z : Size) (d : VReg) (b : SReg) (o : Off) (fs : Bool) (s : State) : Out :=
  s.storeRel (.stRelQuad z d b o fs) .quad z d b o fs
/-- `ST.rel.die` (R188). -/
def execStRelDie (z : Size) (d : VReg) (b : SReg) (o : Off) (fs : Bool) (s : State) : Out :=
  s.storeRel (.stRelDie z d b o fs) .die z d b o fs
/-- `ST.rel.pkg` (R188). -/
def execStRelPkg (z : Size) (d : VReg) (b : SReg) (o : Off) (fs : Bool) (s : State) : Out :=
  s.storeRel (.stRelPkg z d b o fs) .pkg z d b o fs
/-- `ST.rel.pod` (R188). -/
def execStRelPod (z : Size) (d : VReg) (b : SReg) (o : Off) (fs : Bool) (s : State) : Out :=
  s.storeRel (.stRelPod z d b o fs) .pod z d b o fs

/-- `STORE_ACCEPTED` (R84): the flag of the store of this name falls; where there is none nothing changes. -/
def execStoreAccepted (id : Nat) (s : State) : Out :=
  match s.op id with
  | some o => if o.kind == .store then .next ((s.delOp id).endFlag o) else .next s
  | none => .next s

/-! ### Atomics -/

/-- Bytes of an atomic's element. -/
def atomBytes (wide : Bool) : Nat := if wide then 8 else 4
/-- The new value (R189); addf is round_rne with neither DAZ nor FTZ. -/
def atomNew (op : AtomOp) (wide : Bool) (o x x2 : Nat) : Nat :=
  let w := if wide then 64 else 32
  match op with
  | .add => (o + x) % 2 ^ w
  | .addf =>
    let f := if wide then f64 else f32
    (fpAdd ⟨f, .rne, false, false⟩ (f.decode o) (f.decode x)).1
  | .min => if sInt w o < sInt w x then o else x
  | .max => if sInt w o < sInt w x then x else o
  | .minu => min o x
  | .maxu => max o x
  | .and => o &&& x
  | .or => o ||| x
  | .xor => o ^^^ x
  | .xchg => x
  | .cas => if o = x then x2 else o

/-- Operand x of a lane: the register or pair; for cas.d the first of two pairs. -/
def State.atomX (s : State) (wide : Bool) (d : VReg) (l : Nat) : Dword := s.dataOf d wide l
/-- The swap operand of cas: the next register, or the next pair. -/
def State.atomX2 (s : State) (wide : Bool) (d : VReg) (l : Nat) : Dword := s.dataOf (d + (if wide then 2 else 1)) wide l
/-- The first token among a lane's data. -/
def State.atomToken (s : State) (op : AtomOp) (wide : Bool) (d : VReg) (l : Nat) : Option Word :=
  match s.dataToken d wide l with
  | some t => some t
  | none => if op == .cas then s.dataToken (d + (if wide then 2 else 1)) wide l else none

/-- The operands of an atomic: data0 and data1 hold x, or x and the swap value of cas.w; the swap pair of cas.d stands in
a continuation (Table 12.3). -/
def State.atomOperands (s : State) (i : Instr) (op : AtomOp) (wide : Bool) (d : VReg) (b : SReg) (o : VReg)
    (flag : Option Nat) : LogEntry :=
  s.operands i flag true b (some o) 0 fun l =>
    if op == .cas && !wide then (s.atomX2 false d l).setWidth 32 ++ (s.atomX false d l).setWidth 32
    else s.atomX wide d l
/-- The continuation of a cas.d. -/
def State.atomCont (s : State) (op : AtomOp) (wide : Bool) (d : VReg) : Option LogEntry :=
  if op == .cas && wide then
    some (LogEntry.contOf ((List.range 32).map fun l => (l, (s.atomX2 true d l).setWidth 32))
      ((List.range 32).map fun l => (l, (s.atomX2 true d l).extractLsb' 32 32)))
  else none

/-- The lanes of an atomic from recorded operands: operand, swap operand, and the lanes that its old values go to. -/
def atomLanes (op : AtomOp) (wide : Bool) (d : VReg) (e : LogEntry) (cont : LogEntry) (ts : List LaneOk) : List AtomLane :=
  ts.map fun t =>
    let l := t.1
    let x := if wide then e.data l else (e.data l).setWidth 32 |>.setWidth 64
    let x2 := if op == .cas then (if wide then cont.data l else (e.data l).extractLsb' 32 32 |>.setWidth 64) else 0
    let (lo, hi) := e.pairKeys d.toNat l
    ⟨l, t.2.2.pa, x, x2, if wide then lo else e.key d.toNat l, if wide then some hi else none⟩

/-- The lanes of an atomic with their checks. -/
def State.tryAtom (s : State) (w : Who) (pad wide : Bool) (e : LogEntry) : List LaneTry :=
  let n := atomBytes wide
  let ts := e.lanes.map fun l =>
    let a := e.addr (.vec 0) n l
    (l, a, s.checkLane w (if pad then .pad else .glob) needRW n false a)
  if pad then ts else s.withMemory w (fun _ => .home) ts


/-- One lane of an atomic at its home: the old value, and the new one written there as one access (R189). -/
def State.atomAt (s : State) (core : Nat) (pad : Option Nat) (op : AtomOp) (wide : Bool) (l : AtomLane) : State × Nat :=
  let n := atomBytes wide
  match pad with
  | some p =>
    let o := leNat ((s.panel p).padBytes l.addr n)
    let bs := leBytes n (atomNew op wide o l.x.toNat l.x2.toNat)
    (s.padWrite p (bs.zipIdx.map fun q => (l.addr + q.2, q.1)), o)
  | none =>
    let o := s.mem.homeNat l.addr n
    let bs := leBytes n (atomNew op wide o l.x.toNat l.x2.toNat)
    (s.writeHome core (bs.zipIdx.map fun q => (l.addr + q.2, q.1)), o)
/-- The lanes in ascending order, with their old values. -/
def State.atomAll (s : State) (core : Nat) (pad : Option Nat) (op : AtomOp) (wide : Bool) :
    List AtomLane → State × List (AtomLane × Nat)
  | [] => (s, [])
  | l :: ls =>
    let r := s.atomAt core pad op wide l
    let q := r.1.atomAll core pad op wide ls
    (q.1, (l, r.2) :: q.2)
/-- What the old values write. -/
def atomWrites (rs : List (AtomLane × Nat)) : List (Nat × Lane) :=
  rs.flatMap fun r => (r.1.lo, ⟨BitVec.ofNat 32 r.2, false⟩) ::
    (match r.1.hi with | some h => [(h, ⟨BitVec.ofNat 32 (r.2 / 2 ^ 32), false⟩)] | none => [])

/-- Perform an atomic; its old values go to the lanes that no later write has won (R85, R189). -/
def State.doAtomic (s : State) (o : Op) (pad : Option Nat) (op : AtomOp) (wide red : Bool) (ls : List AtomLane) : State :=
  let r := s.atomAll o.core pad op wide ls
  let s := if pad.isSome then r.1 else r.1.acceptAtomic o.who (ls.map AtomLane.addr) (atomBytes wide)
  if red then s else s.modSkein o.sk fun k => if r.2.isEmpty then k else k.setLanes (o.keep (atomWrites r.2)) none

/-- An atomic word (R189, R190): commit-class; `RED` counts on its flag until it is accepted, the others until their old
values stand. -/
def State.atomWord (s : State) (i : Instr) (op : AtomOp) (wide red pad : Bool) (d : VReg) (b : SReg) (o : VReg) (fs : Bool) :
    Out :=
  s.awaits [b] <| s.awaitsFlag fs <| s.commitClass <| s.memoryWord true <|
  s.unpoisonedLanes (s.atomToken op wide d) <| s.unpoisonedLanes (s.addrToken b (some o)) <|
    let e := s.atomOperands i op wide d b o (s.flagOf fs)
    let cont := s.atomCont op wide d
    let w := s.who
    let ts := s.tryAtom w pad wide e
    match tried (!pad) ts with
    | .fault c a => s.accessFault w ts c a
    | .log c a => s.commit.logWord (some fs) e cont ts c a needRW
    | .ok ok =>
      let ls := atomLanes op wide d e (cont.getD LogEntry.free) ok
      let kind : OpKind := .atomic op wide red (if pad then some w.panel else none) ls
      let s := s.commit
      let s := if pad then
          (s.readBefore w.core false (some w.panel) fun a => ok.any fun t => overlap t.2.2.pa (atomBytes wide) a 1).untagLines
            w.core ((ok.map fun t => padGranule w.panel t.2.2.pa).eraseDups)
        else ((s.sealed ok).acceptAtomic w (ok.map fun t => t.2.2.pa) (atomBytes wide)).walkAll w (ok.map fun t => t.2.1)
      let staged := !pad && s.dmode w
      let t := if red then (s.startOp fs .store).addOp w none staged kind
        else (s.setMe (s.me.incFlag (s.flagOf fs))).addOp w (s.flagOf fs) staged kind
      .next (t.onPages (ok.map fun t => t.2.1))

/-- The replay of an atomic (R190, R335). -/
def State.replayAtom (s : State) (k n : Nat) (op : AtomOp) (wide red : Bool) (d : VReg) : State :=
  let w := s.whoOf k
  let t := (s.skein k).oplog
  let e := Tab.get LogEntry.free t n
  let cont := if op == .cas && wide then Tab.get LogEntry.free t (n + 1) else LogEntry.free
  s.replayTried k n needRW (s.tryAtom w false wide e) fun s ok =>
    let ls := atomLanes op wide d e cont ok
    let kind : OpKind := .atomic op wide red none ls
    let s := if s.dmode w then s else (s.sealed ok).acceptAtomic w (ls.map AtomLane.addr) (atomBytes wide)
    let vas := ok.map fun t => t.2.1
    if red then ((s.addOpAt w e.place none (s.dmode w) kind).onPages vas).freeEntry k n
    else (s.replayOp w n e (s.dmode w) kind).onPages vas

/-- `ATOM` (R189). -/
def execAtom (op : AtomOp) (wide : Bool) (d : VReg) (b : SReg) (o : VReg) (fs : Bool) (s : State) : Out :=
  s.atomWord (.atom op wide d b o fs) op wide false false d b o fs
/-- `ATOMP` (R189). -/
def execAtomp (op : AtomOp) (wide : Bool) (d : VReg) (b : SReg) (o : VReg) (fs : Bool) (s : State) : Out :=
  s.atomWord (.atomp op wide d b o fs) op wide false true d b o fs
/-- `RED` (R189). -/
def execRed (op : AtomOp) (wide : Bool) (d : VReg) (b : SReg) (o : VReg) (fs : Bool) (s : State) : Out :=
  s.atomWord (.red op wide d b o fs) op wide true false d b o fs

/-- No older atomic or barrier update of the core is in flight: a core's own updates reach their homes in its acceptance
order (R265). -/
def State.oldestUpdate (s : State) (id : Nat) (o : Op) : Bool :=
  !s.ops.any fun q => decide (q.1 < id) && q.2.core == o.core && !q.2.staged &&
    (match q.2.kind with | .atomic _ _ _ _ _ | .barrier _ _ _ _ => true | _ => false)

/-- `ATOMIC_PERFORMED` (R189): the atomic of this name acts at its home in one access, its old values stand, and its flag
falls; where there is none, or an older update of its core is before it, nothing changes. -/
def execAtomicPerformed (id : Nat) (s : State) : Out :=
  match s.op id with
  | some o =>
    match o.kind with
    | .atomic op wide red pad ls =>
      if !o.staged && s.oldestUpdate id o then
        .next (((s.delOp id).doAtomic o pad op wide red ls).endFlag o)
      else .next s
    | _ => .next s
  | none => .next s

/-- An atomic that returns values acts at its home, and its old values are on their way, lane by lane, until it completes as
a load does (R85). -/
def State.performAtomic (s : State) (id : Nat) : State :=
  match s.op id with
  | some o =>
    match o.kind with
    | .atomic op wide false pad ls =>
      if !o.staged && s.oldestUpdate id o then
        let r := s.atomAll o.core pad op wide ls
        let s := if pad.isSome then r.1 else r.1.acceptAtomic o.who (ls.map AtomLane.addr) (atomBytes wide)
        s.setOp id { o with kind := .result true (atomWrites r.2) 0 none }
      else s
    | _ => s
  | none => s

end Sys2Proof.Machine
end

