-- ==== Sys2Proof/Machine/Sync.lean ====
section
/-! DEFINITION. Fences, the cache walker and prefetch (R194 to R196), barrier objects and monitors (R197 to R202). -/

namespace Sys2Proof.Machine

/-! ### Pointers (R198) -/

/-- The scratchpad form: bits [63:62] are 0b01. -/
def isPadPtr (v : Dword) : Bool := bitsOf v.toNat 62 2 == 1
/-- The position-0 panel of the issuing panel's quadplace group (R197, R319). -/
def State.quadPanel (s : State) (w : Who) : Option Nat :=
  let p := s.panel w.panel
  if !(s.blockOf w).flags.getLsbD 4 then none
  else (List.find? (fun q => q.2.launch == w.launch && q.2.group == p.group && q.2.core % 4 == 0) s.panels).map Prod.fst

/-- Form, alignment and allotment of a pointer to `n` bytes, aligned to `n`; scratchpad pointers name panel `p`.  A
global pointer is left to be translated. -/
def State.checkPtr (s : State) (p : Nat) (n : Nat) (wantPad wantGlob : Bool) (v : Dword) : Except Nat Ptr :=
  let pad := isPadPtr v
  let off := bitsOf v.toNat 0 20
  if (pad && (wantGlob || bitsOf v.toNat 20 42 != 0)) || (!pad && wantPad) then .error 2
  else if v.toNat % n != 0 then .error 4
  else if pad then (if (s.panel p).padSize < off + n then .error 3 else .ok (.pad p off))
  else .ok (.virt v.toNat)

/-- The pointer of a barrier word: its scope fixes the form (R197, R198). -/
def State.barrierPtr (s : State) (w : Who) (sc : Scope) (v : Dword) : Except Nat Ptr :=
  match sc with
  | .core => s.checkPtr w.panel 16 true false v
  | .quad =>
    match s.quadPanel w with
    | some p => s.checkPtr p 16 true false v
    | none => .error 2
  | .die | .pkg | .pod => s.checkPtr w.panel 16 false true v

/-- A pointer with its global address translated, and what it names whole (R297); bytes of the scratchpad need neither. -/
def State.resolve (s : State) (w : Who) (need : Need) : Ptr → Except Nat Ptr
  | .virt va =>
    match s.translateAt w.core (s.ctxOf w) va need with
    | .ok x =>
      if !isFoyer x.pa && (s.mem.isBad (x.pa / 64) || s.mem.tagFails x) then .error 5 else .ok (.phys x.pa)
    | .error c => .error c
  | p => .ok p

/-- What the checks of a pointer come to (R182, R198). -/
inductive PtrTry where
  | ok (p : Ptr)
  | log (code : Nat)
  | fault (code : Nat)
  deriving DecidableEq, Repr

def State.tryPtr (s : State) (w : Who) (need : Need) (r : Except Nat Ptr) : PtrTry :=
  match r with
  | .error c => .fault c
  | .ok p =>
    match s.resolve w need p with
    | .ok q => .ok q
    | .error c => if mayLogCode c then .log c else .fault c

/-- Code of an access that a lost package would have served (R365). -/
def lostCode : Nat := 5
/-- The object is homed at a package that has been lost; where objects are homed is free (R365; log 41). -/
def State.podLost (s : State) (w : Who) (sc : Scope) (v : Dword) : Bool :=
  sc == .pod && s.fabric.lost.any fun n => Config.podObject n (s.ctxOf w) v.toNat
/-- A word that waits on or updates a pod barrier object homed at a lost package raises FAULT (R365). -/
def State.reaches (s : State) (w : Who) (sc : Scope) (v : Dword) (body : Out) : Out :=
  if s.podLost w sc v then s.fault lostCode v else body
/-- A word whose pointer fails a check ends in FAULT, and records an uncorrectable sector that it met (R182, R297). -/
def State.ptrFault (s : State) (w : Who) (c : Nat) (v : Dword) : Out := s.accessFault w [(0, v.toNat, .error c)] c v.toNat

/-! ### Barrier objects (R199, Table 1.5) -/

def scopeCode : Scope → Nat
  | .core => 0
  | .quad => 1
  | .die => 2
  | .pkg => 3
  | .pod => 4

/-- `n` bytes at a pointer's home. -/
def State.atPtr (s : State) (p : Ptr) (n : Nat) : Nat :=
  match p with
  | .pad q off => leNat ((s.panel q).padBytes off n)
  | .phys pa => s.mem.homeNat pa n
  | .virt _ => 0
/-- The same as a word of the skein reads it in deterministic mode: what the skein itself has staged comes first (R278). -/
def State.readPtr (s : State) (w : Who) (p : Ptr) (n : Nat) : Nat :=
  match p with
  | .phys pa =>
    if s.dmode w then leNat ((List.range n).map fun i => (s.stagedByte w.sk (pa + i)).getD (s.mem.homeByte (pa + i)))
    else s.mem.homeNat pa n
  | q => s.atPtr q n
/-- A guest copy on the reader's die shows what it read there (R268). -/
def State.seenPtr (s : State) (core : Nat) (p : Ptr) : State :=
  match p with
  | .phys pa => s.setMem (s.mem.seen (coreDie core) (pa / 64))
  | _ => s
/-- Write `n` bytes at a pointer's home as one access; it untags no lineage (Table 6.5). -/
def State.putPtr (s : State) (core : Nat) (p : Ptr) (n x : Nat) : State :=
  let bs := leBytes n x
  match p with
  | .pad q off => s.padPut q (bs.zipIdx.map fun b => (off + b.2, b.1))
  | .phys pa => s.writeHome core (bs.zipIdx.map fun b => (pa + b.2, b.1))
  | .virt _ => s

/-- A barrier object: scope field, phase, pending, arrived, expected. -/
structure BarObj where
  scope : Nat
  rest : Nat
  phase : BitVec 24
  pending : Word
  arrived : Word
  expected : Word
  deriving DecidableEq, Repr

def barOf (x : Nat) : BarObj :=
  ⟨bitsOf x 125 3, bitsOf x 120 5, BitVec.ofNat 24 (bitsOf x 96 24), BitVec.ofNat 32 (bitsOf x 64 32),
    BitVec.ofNat 32 (bitsOf x 32 32), BitVec.ofNat 32 (bitsOf x 0 32)⟩
def BarObj.toNat (b : BarObj) : Nat :=
  b.scope <<< 125 + b.rest <<< 120 + b.phase.toNat <<< 96 + b.pending.toNat <<< 64 + b.arrived.toNat <<< 32 + b.expected.toNat
/-- A phase completes when as many have arrived as are expected and no byte is pending (R199). -/
def BarObj.tested (b : BarObj) : BarObj :=
  if decide (b.expected ≤ b.arrived) && b.pending == 0 then { b with phase := b.phase + 1, arrived := b.arrived - b.expected }
  else b
/-- One update of an object (Table 6.3). -/
def BarObj.update (b : BarObj) (sc : Scope) : ObjUpd → BarObj
  | .init n => ⟨scopeCode sc, 0, 0, 0, 0, n⟩
  | .arrive | .arriveWait => { b with arrived := b.arrived + 1 }.tested
  | .expect n => { b with pending := b.pending + n }.tested
  | .subtract n => { b with pending := b.pending - n }.tested

/-- Subtract the bytes of a finished copy or walker operation from its object; the scope field is never checked. -/
def State.subtract (s : State) (core : Nat) (p : Ptr) (n : BitVec 32) : State :=
  s.putPtr core p 16 ((barOf (s.atPtr p 16)).update .core (.subtract n)).toNat

/-! ### Issue of the barrier words -/

/-- The operands of a word of major 0x14 as recorded: the pointer as base, the operand as second scalar. -/
def State.barOperands (s : State) (i : Instr) (a : SReg) (x : Dword) : LogEntry := s.operands i none false a none x fun _ => 0

/-- A barrier update is accepted, as an atomic is (R265). -/
def State.acceptObject (s : State) (w : Who) : Ptr → State
  | .phys pa => s.acceptUpdate w [pa] 16
  | .pad p off => s.readBefore w.core false (some p) fun a => decide (off ≤ a) && decide (a < off + 16)
  | .virt _ => s
/-- A barrier update: it joins the updates in flight, is logged, or raises FAULT. -/
def State.sendUpdate (s : State) (i : Instr) (sc : Scope) (a : SReg) (x : Dword) (upd : ObjUpd) : Out :=
  let w := s.who
  let v := (s.sreg a).val
  s.reaches w sc v <|
  match s.tryPtr w needRW (s.barrierPtr w sc v) with
  | .fault c => s.ptrFault w c v
  | .log c => s.commit.logWord none (s.barOperands i a x) none [(0, v.toNat, .error c)] c v.toNat needRW
  | .ok p => .next ((s.commit.acceptObject w p).addOp w none (s.dmode w) (.barrier upd p sc v))

/-- The issuing gang holds every slice that has not exited, else DIVERGE (R200). -/
def State.wholeSkein (s : State) (body : Out) : Out :=
  if s.me.gangMask s.curGang == s.me.liveMask then body else s.trap .diverge 8

/-- `BARI` (Table 6.3). -/
def execBari (sc : Scope) (a x : SReg) (s : State) : Out :=
  s.awaits [a, x] <| s.commitClass <| s.memoryWord true <| s.unpoisoned [a, x] <|
    s.sendUpdate (.bari sc a x) sc a (s.sreg x).val (.init ((s.sreg x).val.setWidth 32))
/-- `BARA` (Table 6.3): a release, then an arrival. -/
def execBara (sc : Scope) (a : SReg) (s : State) : Out :=
  s.awaits [a] <| s.commitClass <| s.memoryWord true <| s.unpoisoned [a] <| s.wholeSkein <| s.released sc fun s =>
    s.sendUpdate (.bara sc a) sc a 0 .arrive
/-- `BEXP` (Table 6.3). -/
def execBexp (sc : Scope) (a x : SReg) (s : State) : Out :=
  s.awaits [a, x] <| s.commitClass <| s.memoryWord true <| s.unpoisoned [a, x] <|
    s.sendUpdate (.bexp sc a x) sc a (s.sreg x).val (.expect ((s.sreg x).val.setWidth 32))

/-- Where the issuing word stands. -/
def State.wordPlace (s : State) : Pc × Nat := (s.curPc, s.cur.slot)

/-- A `BAR` whose arrival has been recorded ends its wait once the phase differs, with an acquire (R200). -/
def State.barPass (s : State) (sc : Scope) (a : SReg) (p : BitVec 24) : Out :=
  let w := s.who
  let v := (s.sreg a).val
  s.reaches w sc v <|
  match s.tryPtr w needR (s.barrierPtr w sc v) with
  | .ok q =>
    if (barOf (s.atPtr q 16)).phase = p then .next (s.hold .barrier)
    else .next (((s.setMe { s.me with bar := none }).seenPtr w.core q).acquired sc).commit
  | .fault c => s.ptrFault w c v
  | .log _ => .next (s.hold .barrier)
/-- `BAR` (Table 6.3, R201): a release and an arrival, once; then the wait on the recorded phase. -/
def execBar (sc : Scope) (a : SReg) (s : State) : Out :=
  s.awaits [a] <| s.unpoisoned [a] <| s.wholeSkein <|
    let fresh := s.commitClass <| s.memoryWord true <| s.released sc fun s =>
      let at_ := s.wordPlace
      match s.sendUpdate (.bar sc a) sc a 0 .arriveWait with
      | .next t =>
        if t.sig == .done then .next ((t.setMe { t.me with bar := some (at_.1, at_.2, none) }).hold .barrier) else .next t
      | o => o
    match s.me.bar with
    | some (pc, slot, q) =>
      if (pc, slot) = s.wordPlace then (match q with | some p => s.barPass sc a p | none => .next (s.hold .barrier))
      else fresh
    | none => fresh

/-- A read of the skein that has not been performed, which an acquire waits for (R269). -/
def Op.isRead (o : Op) (k : Nat) : Bool :=
  o.sk == k && !o.staged &&
  match o.kind with
  | .atomic _ _ red _ _ => !red
  | .ldtol _ _ _ => true
  | .load r => !r.todo.isEmpty
  | _ => false
/-- An acquire begins only after every earlier read of the skein has been performed (R269). -/
def State.readsDone (s : State) (body : Out) : Out :=
  if s.ops.any fun q => q.2.isRead s.curKey then .next (s.hold .earlier) else body

/-- The bytes that a pointer names, for the waits of R265. -/
def Ptr.place : Ptr → Option Nat × Nat
  | .pad p off => (some p, off)
  | .phys pa => (none, pa)
  | .virt va => (none, va)

/-- A wait of major 0x14 on a page that is not placed stands in the operand log until it is replayed; then the word looks
again (R182). -/
def State.logWait (s : State) (i : Instr) (a : SReg) (x : Dword) (c : Nat) : Out :=
  let v := (s.sreg a).val
  if s.me.logged fun e => e.instr == i && e.pc == s.curPc then .next (s.hold .earlier)
  else
    match s.logWord none (s.barOperands i a x) none [(0, v.toNat, .error c)] c v.toNat needR with
    | .next t => if t.sig == .done then .next (t.hold .earlier) else .next t
    | o => o

/-- `BARW` (Table 6.3): it waits until the phase differs, then acquires. -/
def execBarw (sc : Scope) (a x : SReg) (s : State) : Out :=
  s.awaits [a, x] <| s.commitClass <| s.memoryWord false <| s.unpoisoned [a, x] <|
    let w := s.who
    let v := (s.sreg a).val
    let want := (s.sreg x).val
    s.reaches w sc v <|
    match s.tryPtr w needR (s.barrierPtr w sc v) with
    | .fault c => s.ptrFault w c v
    | .log c => s.logWait (.barw sc a x) a want c
    | .ok p =>
      s.pastAtomics p.place.1 [p.place.2] 16 <| s.readsDone <|
        let b := barOf (s.readPtr w p 16)
        if b.scope != scopeCode sc then s.fault 2 v
        else if b.phase = want.setWidth 24 then .next (s.hold .barrier)
        else .next ((s.seenPtr w.core p).acquired sc).commit

/-! ### The update of an object -/

/-- `BARRIER_OBJECT_UPDATE` (R197, R199): the update of this name is performed indivisibly at the object's home; an object of
another scope makes it a FAULT (R198), and so does one that a lost package holds (R365). Where there is none, or an older update
of its core is before it, nothing changes. -/
def State.doBarrier (s : State) (o : Op) (upd : ObjUpd) (p : Ptr) (sc : Scope) (va : Dword) : State :=
  let b := barOf (s.atPtr p 16)
  let isInit := match upd with | .init _ => true | _ => false
  let mine := upd == .arriveWait
  let lost := s.podLost o.who sc va
  if lost || (!isInit && b.scope != scopeCode sc) then
    let s := if mine then s.modSkein o.sk fun k => { k with bar := none } else s
    (s.endEntry o).lateFault o.sk (if lost then lostCode else 2) o.place.2.1 o.place.1 va
  else
    let s := (s.endEntry o).putPtr o.core p 16 (b.update sc upd).toNat
    if mine then s.modSkein o.sk fun k => { k with bar := k.bar.map fun q => (q.1, q.2.1, some b.phase) } else s
def execBarrierObjectUpdate (id : Nat) (s : State) : Out :=
  match s.op id with
  | some o =>
    match o.kind with
    | .barrier upd p sc va =>
      if !o.staged && s.oldestUpdate id o then .next ((s.delOp id).doBarrier o upd p sc va) else .next s
    | _ => .next s
  | none => .next s

/-- The replay of a barrier word: its update joins those in flight, or its wait looks again. -/
def State.replayBarrier (s : State) (k n : Nat) (sc : Scope) (upd : Option ObjUpd) : State :=
  let w := s.whoOf k
  let e := Tab.get LogEntry.free (s.skein k).oplog n
  let need := if upd.isSome then needRW else needR
  match s.tryPtr w need (s.barrierPtr w sc e.sbase) with
  | .fault c => s.faultEntry k n c e.sbase.toNat
  | .log c => s.relog k n c e.sbase.toNat need
  | .ok p =>
    match upd with
    | some u => (s.acceptObject w p).replayOp w n e (s.dmode w) (.barrier u p sc e.sbase)
    | none => s.freeEntry k n

/-! ### Monitors (R202) -/

/-- `WAITM` (R202): it reads the watched word at its home, the core's buffered writes first (R265), and waits while it
equals the operand.  A wait that a restore ends ends whatever the word holds. -/
def execWaitm (a x : SReg) (s : State) : Out :=
  s.awaits [a, x] <| s.memoryWord false <| s.unpoisoned [a, x] <|
    let w := s.who
    let v := (s.sreg a).val
    let want := (s.sreg x).val
    match s.tryPtr w needR (s.checkPtr w.panel 8 false false v) with
    | .fault c => s.ptrFault w c v
    | .log c => s.logWait (.waitm a x) a want c
    | .ok p =>
      s.pastAtomics p.place.1 [p.place.2] 8 <|
        let cur := match p with
          | .phys pa =>
            if s.dmode w then s.readPtr w p 8
            else leNat ((List.range 8).map fun i => s.loadByte w.core (s.fusedOf w) .home (pa + i))
          | q => s.atPtr q 8
        if cur != want.toNat || s.me.monitor.isSome then .next ((s.setMe { s.me with monitor := none }).seenPtr w.core p)
        else .next (s.hold (.monitor p.place.1 (p.place.2 / 256)))

/-- `WAITM_WAKE` (R202): every gang of the skein whose watched line has been written looks again.  A wake is recorded with
the write itself; this event changes nothing more. -/
def execWaitmWake (sk : Nat) (s : State) : Out :=
  .next (s.modSkein sk fun k => { k with gangs := k.gangs.map fun p =>
    (p.1, match p.2.wait with
      | some (.monitor _ _) => if p.2.woken then { p.2 with wait := none } else p.2
      | _ => p.2) })

/-! ### Fences (R194) -/

/-- A walker operation of the skein that names no object completes before a later `FENCE` is performed (R195). -/
def Op.walksFor (o : Op) (k : Nat) : Bool :=
  o.sk == k && !o.staged && (match o.kind with | .walker _ _ _ _ none _ => true | _ => false)
/-- `FENCE` (R194): the release part first, each at the word's scope (R264); it is commit-class, and drains no withheld
sum. -/
def execFence (sem : Sem) (scope : Scope) (s : State) : Out :=
  s.commitClass <| s.memoryWord true <|
    if s.ops.any fun q => q.2.walksFor s.curKey then .next (s.hold .earlier) else
    match sem with
    | .rel => s.released scope fun s => .next s.commit
    | .acq => s.readsDone (.next (s.acquired scope).commit)
    | .ar => s.released scope fun s => .next (s.acquired scope).commit

/-! ### The cache walker (R195) -/

/-- The object pointer of a walker or copy word: 0 names none (R195, R198, R203). -/
def State.objectPtr (s : State) (w : Who) (wantPad : Bool) (v : Dword) : Except Nat (Option Ptr) :=
  if v = 0 then .ok none
  else
    match s.checkPtr w.panel 16 wantPad false v with
    | .error c => .error c
    | .ok (.virt va) => if canonical va then .ok (some (.virt va)) else .error 2
    | .ok p => .ok (some p)

/-- `CFLUSH` and `CINV` start the walker (R195). -/
def State.walkerWord (s : State) (inv mem : Bool) (a b x : SReg) : Out :=
  s.awaits [a, b, x] <| s.commitClass <| s.memoryWord true <| s.unpoisoned [a, b, x] <|
    let w := s.who
    let len := (s.sreg b).val
    let v := (s.sreg x).val
    if bitsOf len.toNat 32 32 != 0 then s.fault 2 (s.sreg a).val
    else
      match s.objectPtr w false v with
      | .error c => s.fault c v
      | .ok obj =>
        let s := if inv then s.untagLoads s.curCore else s
        .next (s.commit.addOp w none (s.dmode w) (.walker inv mem (s.sreg a).val.toNat len.toNat obj (s.ctxOf w)))
def execCflush (mem : Bool) (a b x : SReg) (s : State) : Out := s.walkerWord false mem a b x
def execCinv (mem : Bool) (a b x : SReg) (s : State) : Out := s.walkerWord true mem a b x

/-- The physical lines of a range; lines that do not translate are skipped. -/
def State.rangeLines (s : State) (core ctx base len : Nat) : List Nat :=
  if len = 0 then [] else
  (List.range ((base % 256 + len + 255) / 256)).filterMap fun k =>
    match s.translateAt core ctx ((base / 256 + k) * 256 % 2 ^ 64) ⟨false, false, false⟩ with
    | .ok x => some (x.pa / 256)
    | .error _ => none

/-- Code of these lines is fetched afresh (R75). -/
def Core.dropCode (lines : List Nat) (c : Core) : Core := { c with icache := c.icache.filter fun q => !lines.contains (q.1 / 4) }
/-- What the walker does to its lines; `CINV` lets the code of the lines be fetched afresh, by the core or by every one
(R75). -/
def State.walkLines (s : State) (core : Nat) (fused inv mem : Bool) (lines : List Nat) : State :=
  let s := if !inv then s else if mem then { s with cores := Tab.mapv (Core.dropCode lines) s.cores }
    else s.setCore core ((s.core core).dropCode lines)
  match inv, mem with
  | false, false => s.drainScb core fun e => lines.contains (e.sector / 4)
  | true, false => s.invalidateL1 core fused lines.contains
  | _, true =>
    let act := fun (m : MemSys) (sec : Nat) => if inv then m.dropSector sec else m.writeBack sec
    s.setMem ((lines.flatMap fun l => [4 * l, 4 * l + 1, 4 * l + 2, 4 * l + 3]).foldl act s.mem)

/-- The object of a finished operation is reached, or its page is still to be resolved. -/
def State.objectNow (s : State) (w : Who) (obj : Option Ptr) : Except Nat (Option Ptr) :=
  match obj with
  | none => .ok none
  | some p =>
    match s.resolve w needRW p with
    | .ok q => .ok (some q)
    | .error c => .error c
/-- Subtract where an object is named. -/
def State.subtractFrom (s : State) (core : Nat) (p : Option Ptr) (n : BitVec 32) : State :=
  match p with
  | some q => s.subtract core q n
  | none => s

/-- The end of a walker operation (R195): the lines, the lineage of the core, and the object's pending bytes.  An object
that cannot be reached is left alone. -/
def State.doWalker (s : State) (o : Op) (inv mem : Bool) (base len : Nat) (obj : Option Ptr) (ctx : Nat) : State :=
  let w := o.who
  let s := s.walkLines o.core (s.fusedOf w) inv mem (s.rangeLines o.core ctx base len)
  let s := if inv then s.untagLoads o.core else s
  match s.objectNow w obj with
  | .ok p => s.subtractFrom o.core p (BitVec.ofNat 32 len)
  | .error _ => s
/-- `WALKER_COMPLETE` (R195); where there is no walker operation of this name nothing changes. -/
def execWalkerComplete (id : Nat) (s : State) : Out :=
  match s.op id with
  | some o =>
    match o.kind with
    | .walker inv mem base len obj ctx =>
      if o.staged then .next s else .next ((s.delOp id).doWalker o inv mem base len obj ctx)
    | _ => .next s
  | none => .next s

/-- `PREF` (R196): bringing a line in changes nothing that a program may rely on, and the rule allows it to do nothing. -/
def execPref (_l2 : Bool) (a : SReg) (_b : VReg) (s : State) : Out := s.awaits [a] <| s.memoryWord false (.next s)

end Sys2Proof.Machine
end

