-- ==== Sys2Proof/Machine/Bounded.lean ====
section
/-! DEFINITION. Bounded adds and tolerant loads (R191 to R193, R273), their trackers at the cores and their holder lists at
the homes (R290 to R295). -/

namespace Sys2Proof.Machine

/-! ### Binary32 of the protocol: neither DAZ nor FTZ, and no flag (R191) -/

def subRz (x y : Word) : Word := addDir .rz x (y ^^^ 0x80000000)
/-- Half of a share, rounded towards zero (R292). -/
def halfRz (x : Word) : Word :=
  match f32.decode x.toNat with
  | .fin n m e => BitVec.ofNat 32 ((⟨f32, .rz, false, false⟩ : Round).apply n m (e - 1)).1
  | _ => x
/-- round_up(M + |a|); a NaN or an infinity gives +∞ (R291). -/
def magUp (m a : Word) : Word :=
  let x := f32.decode (a.toNat % 2 ^ 31)
  if x.isNan || x.isInf then BitVec.ofNat 32 f32.infBits else addDir .rup m (a &&& 0x7FFFFFFF)
/-- x < y as numbers. -/
def ltF (x y : Word) : Bool := ltNum (f32.decode x.toNat) (f32.decode y.toNat)

/-! ### The core's side (R291) -/

/-- A lane has been sent to the home, and is accepted there. -/
def State.sentAdd (s : State) (id lane : Nat) : State :=
  s.modAdds id fun as => as.map fun a => if a.lane == lane then { a with sent := true } else a

/-- The core has asked for a holding of the sector and has no answer yet. -/
def State.asking (s : State) (core sector : Nat) : Bool :=
  s.mem.msgs.any (fun q => q.2.core == core && q.2.sector == sector &&
    (match q.2.kind with | .request _ | .grant _ | .refuse => true | _ => false)) ||
  s.mem.homes.any (fun q => q.1 == sector && (match q.2.basted with | some b => b.2.1 == core | none => false))

/-- One lane of a `REDBV` that has not been sent (R291). -/
def State.tryAdd (s : State) (core launch id : Nat) (a : BAdd) : State :=
  let sector := a.pa / 64
  let send := fun (s : State) (k : BKind) => s.sendB ⟨sector, core, launch, k⟩
  if a.pass then send (s.sentAdd id a.lane) (.pass a.pa a.a id a.lane)
  else
    match Tab.find? sector (s.core core).withheld with
    | none => if s.asking core sector then s else send s (.request a.ease)
    | some h =>
      if h.draining then s
      else
        let c := s.core core
        let m := magUp h.mag a.a
        if ltF h.share m then
          let s := s.setCore core { c with
            withheld := Tab.put sector { h with sums := [], mag := 0, draining := true, pages := [] } c.withheld }
          send (s.sentAdd id a.lane) (.drain (h.sums ++ [(a.pa, a.a)]) false (some (id, a.lane)))
        else
          let sum := match Tab.find? a.pa h.sums with | some x => addRne x a.a | none => a.a
          (s.setCore core { c with
            withheld := Tab.put sector { h with
              sums := Tab.put a.pa sum h.sums
              mag := m
              pages := if h.pages.contains a.page then h.pages else h.pages ++ [a.page] } c.withheld }).acceptAdd id a.lane

/-- The lanes of the core's bounded adds that still wait, in order of issue and of lane. -/
def State.waitingAdds (s : State) (core : Nat) : List (Nat × Nat × BAdd) :=
  s.ops.flatMap fun q =>
    match q.2.kind with
    | .redbv as => if q.2.staged then [] else
      (as.filter fun a => !a.sent && l1Home (s.fused q.2.launch) q.2.core a.pa == core).map fun a => (q.1, q.2.launch, a)
    | _ => []
/-- Go on with every lane that waits on a core. -/
def State.pumpAdds (s : State) (core : Nat) : State :=
  (s.waitingAdds core).foldl (fun s x => s.tryAdd core x.2.1 x.1 x.2.2) s

/-! ### The home's side (R292 to R294) -/

/-- The holder with the largest share, the lowest core among equals. -/
def largest (hs : List (Nat × Word)) : Option (Nat × Word) :=
  hs.foldl (fun b p => match b with
    | none => some p
    | some q => if ltF q.2 p.2 || (q.2 == p.2 && decide (p.1 < q.1)) then some p else b) none
/-- The holder directory of the sector's slice has no room for another sector (R292). -/
def State.directoryFull (s : State) (sector : Nat) : Bool :=
  let pa := sector * 64
  (s.home sector 0).holders.isEmpty &&
  decide (8192 ≤ (s.mem.homes.filter fun q =>
    !q.2.holders.isEmpty && dieOf (q.1 * 64) == dieOf pa && sliceOf (q.1 * 64) == sliceOf pa).length)

/-- The answer to a holding request (R292); at the first holding U is the ease of the region. -/
def State.answerRequest (s : State) (sector core launch : Nat) (ease : Word) : State :=
  let h := s.home sector ease
  let full := decide (16 ≤ h.holders.length) || s.directoryFull sector
  let reply := fun (s : State) (k : BKind) => s.sendB ⟨sector, core, launch, k⟩
  if full then reply s .refuse
  else
    match largest h.holders with
    | none => reply (s.setHome sector { h with holders := [(core, ease)], rest := 0, ease := ease }) (.grant ease)
    | some v =>
      if !ltF (addRne h.rest h.rest) v.2 then
        reply (s.setHome sector { h with holders := h.holders ++ [(core, h.rest)], rest := 0 }) (.grant h.rest)
      else
        (s.setHome sector { h with basted := some (v.1, core, launch) }).sendB ⟨sector, v.1, launch, .baste⟩

/-- The home is at work on an earlier message of the sector. -/
def HomeSector.busy (h : HomeSector) : Bool := h.basted.isSome || h.asked.isSome

/-- Shares sum exactly to at most ε; a negative or NaN ε acts as 0, and +∞ holds any sum (R193, R294). -/
def sharesWithin (hs : List (Nat × Word)) (eps : Word) : Bool :=
  let e := f32.decode eps.toNat
  match e with
  | .inf n => !n || hs.isEmpty || hs.all fun p => p.2.toNat % 2 ^ 31 == 0
  | _ =>
    let bound := if e.isNan || e.neg then .fin false 0 0 else e
    let sum := hs.foldl (fun (a : Num) p =>
      match addNum .rne a (f32.decode p.2.toNat) with | .num x => x | .invalid => a) (.fin false 0 0)
    !ltNum bound sum
/-- The holders that the home unpicks: the largest share first, until the others are within ε. -/
def unpicks : Nat → List (Nat × Word) → Word → List Nat
  | 0, _, _ => []
  | n + 1, hs, eps =>
    if sharesWithin hs eps then []
    else
      match largest hs with
      | some v => v.1 :: unpicks n (hs.filter fun q => q.1 != v.1) eps
      | none => []

/-! ### Messages -/

/-- The message goes from a core to the home. -/
def BKind.toHome : BKind → Bool
  | .request _ | .basteAck | .drain _ _ _ | .pass _ _ _ _ | .ldtol _ _ _ | .answer _ => true
  | .grant _ | .refuse | .baste | .drainAck | .unpick => false
/-- A message that the home lets wait while it is at work on an earlier one of the sector. -/
def BKind.mayWait : BKind → Bool
  | .request _ | .ldtol _ _ _ => true
  | _ => false
/-- Messages of one sector between one core and the home arrive in the order they were sent (R293); a request that waits
at the home holds back no answer, acknowledgement or drain behind it. -/
def State.firstB (s : State) (id : Nat) (m : BMsg) : Bool :=
  !s.mem.msgs.any fun q => decide (q.1 < id) && q.2.sector == m.sector && q.2.core == m.core &&
    q.2.kind.toHome == m.kind.toHome && (m.kind.mayWait || !q.2.kind.mayWait)
/-- Take a message that may arrive. -/
def State.takeB (s : State) (id : Nat) (f : BMsg → State → State) : State :=
  match Tab.find? id s.mem.msgs with
  | some m =>
    if s.firstB id m then f m { s with mem := { s.mem with msgs := Tab.del id s.mem.msgs } } else s
  | none => s
/-- A message that waits while the home is at work on an earlier one. -/
def State.takeIdle (s : State) (id : Nat) (f : BMsg → State → State) : State :=
  match Tab.find? id s.mem.msgs with
  | some m => if (s.home m.sector 0).busy then s else s.takeB id f
  | none => s

/-- `HOLDING_REQUEST` (R292). -/
def execHoldingRequest (id : Nat) (s : State) : Out :=
  .next (s.takeIdle id fun m t =>
    match m.kind with
    | .request ease => t.answerRequest m.sector m.core m.launch ease
    | _ => s)

/-- `HOLDING_GRANT` (R291): the sector becomes Withheld with its share, or the additions that asked pass through;
a holding for a launch that has ended meanwhile ends at once. -/
def execHoldingGrant (id : Nat) (s : State) : Out :=
  .next (s.takeB id fun m t =>
    match m.kind with
    | .grant share =>
      let t := t.makeRoom m.core (m.sector / 4)
      let c := t.core m.core
      let l1 := match Tab.find? (m.sector / 4) c.l1 with
        | some x => Tab.put (m.sector / 4) { x with valid := x.valid &&& ~~~((1 : BitVec 4) <<< (m.sector % 4)) } c.l1
        | none => c.l1
      let t := t.setCore m.core { c with l1 := l1, withheld := Tab.put m.sector ⟨[], 0, share, false, m.launch, []⟩ c.withheld }
      if (t.launch m.launch).live then t.pumpAdds m.core else t.endHolding m.core m.sector
    | .refuse =>
      ((t.waitingAdds m.core).filter fun x => x.2.2.pa / 64 == m.sector).foldl (fun t x =>
        t.tryAdd m.core x.2.1 x.1 { x.2.2 with pass := true }) t
    | _ => s)

/-- `PASS_THROUGH_ADD` (R290, R292): the addition is applied, and so accepted, at the home. -/
def execPassThroughAdd (id : Nat) (s : State) : Out :=
  .next (s.takeB id fun m t =>
    match m.kind with
    | .pass elem a op lane => (t.addSums m.core [(elem, a)]).acceptAdd op lane
    | _ => s)

/-- `BASTE` (R292): the holder's share is halved; a tracker above it drains first; then the holder acknowledges. -/
def execBaste (id : Nat) (s : State) : Out :=
  .next (s.takeB id fun m t =>
    match m.kind with
    | .baste =>
      let c := t.core m.core
      let t := match Tab.find? m.sector c.withheld with
        | some h =>
          let half := halfRz h.share
          if ltF half h.mag then
            (t.setCore m.core { c with
              withheld := Tab.put m.sector { h with share := half, sums := [], mag := 0, draining := true, pages := [] } c.withheld }).sendB
              ⟨m.sector, m.core, h.launch, .drain h.sums false none⟩
          else t.setCore m.core { c with withheld := Tab.put m.sector { h with share := half } c.withheld }
        | none => t
      t.sendB ⟨m.sector, m.core, m.launch, .basteAck⟩
    | _ => s)

/-- `BASTE_ACK` (R292): the freed half is granted to the core that asked; a holder that has left meanwhile has given its
whole share back, and the request is answered afresh. -/
def execBasteAck (id : Nat) (s : State) : Out :=
  .next (s.takeB id fun m t =>
    match m.kind with
    | .basteAck =>
      let h := t.home m.sector 0
      match h.basted with
      | some (victim, asker, launch) =>
        let h := { h with basted := none }
        match h.holders.find? (fun p => p.1 == victim) with
        | some p =>
          let half := halfRz p.2
          let freed := subRz p.2 half
          let hs := h.holders.map fun q => if q.1 == victim then (q.1, half) else q
          (t.setHome m.sector { h with holders := hs ++ [(asker, freed)] }).sendB ⟨m.sector, asker, launch, .grant freed⟩
        | none => (t.setHome m.sector h).answerRequest m.sector asker launch h.ease
      | none => t
    | _ => s)

/-- `BOUNDED_DRAIN` (R293). -/
def execBoundedDrain (id : Nat) (s : State) : Out :=
  .next (s.takeB id fun m t => match m.kind with | .drain _ _ _ => t.arriveDrain m | _ => s)

/-- `DRAIN_ACK` (R291): the sector takes additions again. -/
def execDrainAck (id : Nat) (s : State) : Out :=
  .next (s.takeB id fun m t =>
    match m.kind with
    | .drainAck =>
      let c := t.core m.core
      (match Tab.find? m.sector c.withheld with
      | some h => t.setCore m.core { c with withheld := Tab.put m.sector { h with draining := false } c.withheld }
      | none => t).pumpAdds m.core
    | _ => s)

/-- `LDTOL_REQUEST` (R294): the home unpicks until the shares left are within ε, and replies once every answer is in. -/
def execLdtolRequest (id : Nat) (s : State) : Out :=
  .next (s.takeIdle id fun m t =>
    match m.kind with
    | .ldtol op elem key =>
      let eps := match t.op op with
        | some o => (match o.kind with | .ldtol e _ _ => e | _ => 0)
        | none => 0
      let h := t.home m.sector 0
      match unpicks (h.holders.length) h.holders eps with
      | [] => t.replyTol op elem key
      | us => us.foldl (fun t c => t.sendB ⟨m.sector, c, m.launch, .unpick⟩)
          (t.setHome m.sector { h with asked := some (op, elem, key), waiting := us })
    | _ => s)

/-- `UNPICK` (R294): the holder answers with its final drain, and its holding ends. -/
def execUnpick (id : Nat) (s : State) : Out :=
  .next (s.takeB id fun m t =>
    match m.kind with
    | .unpick =>
      let c := t.core m.core
      let sums := match Tab.find? m.sector c.withheld with | some h => h.sums | none => []
      (t.setCore m.core { c with withheld := Tab.del m.sector c.withheld }).sendB ⟨m.sector, m.core, m.launch, .answer sums⟩
    | _ => s)

/-- `UNPICK_ANSWER` (R294): the home applies the answer. -/
def execUnpickAnswer (id : Nat) (s : State) : Out :=
  .next (s.takeB id fun m t => match m.kind with | .answer _ => t.arriveAnswer m | _ => s)

/-! ### The words (R191, R193) -/

/-- The region of an element (R313). -/
def State.regionOf (s : State) (w : Who) (va : Nat) : Region :=
  ((s.launch w.launch).regions.find? fun r => decide (r.base ≤ va) && decide (va < r.base + r.size)).getD ⟨0, 0, 0, 0⟩

/-- The lanes of a bounded word with their checks; the foyer takes no bounded add (R306). -/
def State.tryBounded (s : State) (w : Who) (need : Need) (e : LogEntry) : List LaneTry :=
  let ts := e.lanes.map fun l =>
    let a := e.addr (.vec 0) 4 l
    (l, a, match s.checkLane w .glob need 4 true a with
      | .ok x => if need.w && isFoyer x.pa then .error 2 else .ok x
      | .error c => .error c)
  s.withMemory w (fun _ => .home) ts

/-- The additions of a word. -/
def State.addsOf (s : State) (w : Who) (e : LogEntry) (ok : List LaneOk) : List BAdd :=
  ok.map fun t =>
    let r := s.regionOf w t.2.1
    ⟨t.1, t.2.2.pa, pageOf t.2.1, Tab.get 0 e.data0 t.1, r.ease, r.mode == 1, false⟩

/-- Put a bounded add in flight, as a new word or as a replay of an entry of the log, and go as far as it can; in
deterministic mode it is staged (R277, R295). -/
def State.sendAdds (s : State) (w : Who) (entry : Option (Nat × LogEntry)) (adds : List BAdd) : State :=
  if adds.isEmpty then (match entry with | some q => s.freeEntry w.sk q.1 | none => s) else
  let s := s.untagLines w.core ((adds.map fun a => globLine a.pa).eraseDups)
  let s := match entry with
    | some q => s.replayOp w q.1 q.2 (s.dmode w) (.redbv adds)
    | none => s.addOp w none (s.dmode w) (.redbv adds)
  if s.dmode w then s
  else ((adds.map fun a => l1Home (s.fusedOf w) w.core a.pa).eraseDups).foldl (fun s c => s.pumpAdds c) s

/-- `REDBV` (R191): commit-class, untracked. -/
def execRedbv (d : VReg) (b : SReg) (o : VReg) (s : State) : Out :=
  s.awaits [b] <| s.commitClass <| s.memoryWord true <|
  s.unpoisonedLanes (s.dataToken d false) <| s.unpoisonedLanes (s.addrToken b (some o)) <|
    let w := s.who
    let e := s.operands (.redbv d b o) none true b (some o) 0 (s.dataOf d false)
    let ts := s.tryBounded w needRW e
    match tried true ts with
    | .fault c a => s.accessFault w ts c a
    | .log c a => s.commit.logWord none e none ts c a needRW
    | .ok ok => .next (((s.sealed ok).commit.walkAll w (ok.map fun t => t.2.1)).sendAdds w none (s.addsOf w e ok))

/-- The replay of a `REDBV`. -/
def State.replayRedbv (s : State) (k n : Nat) : State :=
  let w := s.whoOf k
  let e := Tab.get LogEntry.free (s.skein k).oplog n
  s.replayTried k n needRW (s.tryBounded w needRW e) fun s ok => (s.sealed ok).sendAdds w (some (n, e)) (s.addsOf w e ok)

/-- The additions of the skein to an element that are still staged, in issue order (R278). -/
def State.stagedAdds (s : State) (k pa : Nat) : List Word :=
  let h := s.stagesFor k
  s.ops.flatMap fun q =>
    match q.2.kind with
    | .redbv as => if (q.2.sk == k || q.2.sk == h) && q.2.staged then (as.filter fun a => a.pa == pa).map BAdd.a else []
    | _ => []
/-- A bounded add of the skein to a sector is not yet accepted. -/
def State.addsPending (s : State) (k : Nat) (secs : List Nat) : Bool :=
  s.ops.any fun q => q.2.sk == k && !q.2.staged &&
    (match q.2.kind with | .redbv as => as.any fun a => secs.contains (a.pa / 64) | _ => false)

/-- The tolerance: 2^k, or the scalar after the base (R193). -/
def State.tolerance (s : State) (k : BitVec 6) (b : SReg) : Word :=
  if k = 32 then (s.sreg (b + 1)).val.setWidth 32
  else BitVec.ofNat 32 (((127 + k.toInt).toNat) <<< 23)

/-- An `LDTOL` over lanes that may be read, with the operation `start` makes of a kind: its own core's holdings end first,
then each lane asks the home.  In deterministic mode it reads the home and its own staged additions (R278). -/
def State.sendTol (s : State) (w : Who) (eps : Word) (start : State → OpKind → State) (e : LogEntry) (d : VReg) (ok : List LaneOk) :
    State :=
  if s.dmode w then
    start s (.result true (ok.map fun t =>
      (e.key d.toNat t.1, ⟨(s.stagedAdds w.sk t.2.2.pa).foldl addRne (BitVec.ofNat 32 (s.mem.homeNat t.2.2.pa 4)), false⟩)) 0 none)
  else if ok.isEmpty then start s (.result true [] 0 none)
  else
    let id := s.nextId
    let s := start s (.ldtol eps (ok.map fun t => e.key d.toNat t.1) [])
    ok.foldl (fun s t =>
      let c := l1Home (s.fusedOf w) w.core t.2.2.pa
      (s.endHolding c (t.2.2.pa / 64)).sendB
        ⟨t.2.2.pa / 64, c, w.launch, .ldtol id t.2.2.pa (e.key d.toNat t.1)⟩) s

/-- `LDTOL` (R193): it waits until the skein's own earlier additions to its sectors are accepted, which it must include
(R273). -/
def execLdtol (k : BitVec 6) (d : VReg) (b : SReg) (o : VReg) (fs : Bool) (s : State) : Out :=
  let rs := if k = 32 then [b, b + 1] else [b]
  s.awaits rs <| s.awaitsFlag fs <| s.memoryWord false <|
  s.unpoisonedLanes (s.addrToken b (some o)) <| (if k = 32 then s.unpoisoned [b + 1] else id) <|
    let w := s.who
    let e := s.operands (.ldtol k d b o fs) (s.flagOf fs) false b (some o) (if k = 32 then (s.sreg (b + 1)).val else 0) fun _ => 0
    let ts := s.tryBounded w needR e
    match tried true ts with
    | .fault c a => s.accessFault w ts c a
    | .log c a => s.logWord (some fs) e none ts c a needR
    | .ok ok =>
      s.pastAtomics none (ok.map fun t => t.2.2.pa) 4 <| s.pastLogged (ok.map fun t => t.2.1) <|
        if s.addsPending s.curKey (ok.map fun t => t.2.2.pa / 64) then .next (s.hold .earlier)
        else
          let s := s.walkAll w (ok.map fun t => t.2.1)
          .next ((s.setMe (s.me.incFlag (s.flagOf fs))).sendTol w (s.tolerance k b) (·.addOp w (s.flagOf fs) false) e d ok)

/-- The replay of an `LDTOL`. -/
def State.replayLdtol (s : State) (k n : Nat) (kk : BitVec 6) (d : VReg) : State :=
  let w := s.whoOf k
  let e := Tab.get LogEntry.free (s.skein k).oplog n
  let eps := if kk = 32 then e.sx.setWidth 32 else BitVec.ofNat 32 (((127 + kk.toInt).toNat) <<< 23)
  s.replayTried k n needR (s.tryBounded w needR e) fun s ok =>
    s.sendTol w eps (·.replayOp w n e false) e d ok

end Sys2Proof.Machine
end

