-- ==== Sys2Proof/Machine/Issue.lean ====
section
/-! DEFINITION. How a gang comes to its words: fetching a clause (R70, R72, R75), the words of an issue group (R76), and
the end of a packet with its transfer and region start (R22, R73, R74, R122). -/

namespace Sys2Proof.Machine

/-! ### Fetch -/

/-- `n` words at a list of bytes. -/
def wordsOf : Nat → List Byte → List Word
  | 0, _ => []
  | n + 1, bs => BitVec.ofNat 32 (leNat (bs.take 4)) :: wordsOf n (bs.drop 4)
/-- The words of a run of bytes by packets of three (R69). -/
def packetsOf : Nat → List Byte → List (List Word)
  | 0, _ => []
  | n + 1, bs => wordsOf 3 bs :: packetsOf n (bs.drop 12)

/-- The physical addresses of `n` bytes of code from a virtual address, or the first fault with its address (R297, R299,
R300; log 19). -/
def State.fetchAddrs (s : State) (core ctx : Nat) : Nat → Nat → Except (Nat × Nat) (List Nat)
  | 0, _ => .ok []
  | n + 1, va =>
    match s.translateAt core ctx va needX with
    | .error f => .error (f, va)
    | .ok x =>
      if !isFoyer x.pa && s.mem.isBad (x.pa / 64) then .error (5, va) else
      match s.fetchAddrs core ctx n (va + 1) with
      | .error f => .error f
      | .ok as => .ok (x.pa :: as)

/-- What every core has buffered for these sectors goes to their homes, so that a clause is fetched whole old or whole new
(R75). -/
def State.drainCode (s : State) (secs : List Nat) : State :=
  (s.cores.map Prod.fst).foldl (fun s c => s.drainScb c fun e => secs.contains e.sector) s
/-- The bytes of code at physical addresses, and the machine after the fetch.  Where the core has fetched every sector of the
clause before, and memory has changed since, it sees all of the old words or all of the new ones; in deterministic mode the
new ones (R75, R279; log 47). -/
def State.readCode (s : State) (core : Nat) (as : List Nat) : State × List Byte :=
  let secs := (as.map (· / 64)).eraseDups
  let s := s.drainCode secs
  let c := s.core core
  let new := as.map s.mem.homeByte
  let old := as.map fun a => (Tab.get [] c.icache (a / 64)).getD (a % 64) 0
  if (secs.all fun x => (Tab.find? x c.icache).isSome) && old != new && !s.dmodeOf s.curKey && Config.coin s.tick core then (s, old)
  else (s.setCore core { c with icache := Tab.putAll id s.mem.homeSector secs c.icache }, new)
/-- A copy in flight is part way through one of these sectors, so that a clause in them is neither old nor new. -/
def State.codeMoving (s : State) (secs : List Nat) : Bool :=
  s.ops.any fun q =>
    match q.2.kind with
    | .copy (.glob va) _ len full _ _ _ _ _ =>
      !q.2.staged && decide (len < full) && (List.range (len / 64 + 2)).any fun i =>
        match s.translateAt q.2.core (s.launch q.2.launch).block.context (va + 64 * i) needW with
        | .ok x => secs.contains (x.pa / 64)
        | .error _ => false
    | _ => false

/-- A fetch that faults: FAULT with nothing of the clause issued; the clause's record stands where the skein continues one
(R73; log 19). -/
def State.fetchFault (s : State) (f : Nat × Nat) : State :=
  { s.takeTrap s.curKey .fault f.1 noAccn 0 s.curPc s.curPc s.cur.stopRec (BitVec.ofNat 64 f.2) with sig := .faulted }

/-- Fetch `n` packets from the gang's PC (R69) and go on with them; a clause that a copy is changing is fetched later. -/
def State.fetchPackets (s : State) (n : Nat) (body : State → List (List Word) → State) : State :=
  match s.fetchAddrs s.curCore s.myCtx (12 * n) (12 * s.curPc.toNat) with
  | .error f => s.fetchFault f
  | .ok as =>
    if s.codeMoving ((as.map (· / 64)).eraseDups) then s else
    let r := s.readCode s.curCore as
    body r.1 (packetsOf n r.2)

/-- The limits that a clause of the issuing skein is decoded under. -/
def State.decCtx (s : State) : DecCtx where
  trap := s.curSlot == trapSlot
  accs := s.myLaunch.block.acc
  pairOk := s.myLaunch.block.flags.getLsbD 2 && s.curCore % 2 == 0

/-- ILLEGAL at packet `k` of the clause from the current one on, and slot `slot`: every slice PC stands at the clause's
first packet, or at the packet where a clause is continued, with its record (R73, R113, R329). -/
def State.illegal (s : State) (k slot : Nat) : State :=
  { s.takeTrap s.curKey .illegal 0 noAccn slot (s.curPc + BitVec.ofNat 53 k) s.curPc s.cur.stopRec 0 with sig := .trapped }

/-- Fetch the clause at the gang's PC whole (R70); a packet that is no clause's first raises ILLEGAL there (R72).  A clause
whose length has changed since its header was read is fetched again. -/
def State.fetchClause (s : State) : State :=
  match s.fetchAddrs s.curCore s.myCtx 12 (12 * s.curPc.toNat) with
  | .error f => s.fetchFault f
  | .ok as =>
    let h := BitVec.ofNat 32 (leNat ((s.readCode s.curCore as).2.take 4))
    if !isHeader h then s.illegal 0 0
    else s.fetchPackets (clauseLen h) fun s ps =>
      let h := (ps.headD []).headD 0
      if !isHeader h then s.illegal 0 0
      else if clauseLen h = ps.length then
        s.setCur { Cursor.empty with phase := .fetched, packets := ps, first := true, passed := s.cur.passed }
      else s

/-- Continue a clause at a packet within it, of which `n` packets remain, with the recorded flags and no wait (R73). -/
def State.fetchRest (s : State) (n : Nat) : State :=
  s.fetchPackets n fun s ps =>
    match clauseBad s.decCtx 1 ps with
    | some (k, slot) => s.illegal (k - 1) slot
    | none => s.setCur { s.cur with phase := .running, packets := ps, first := false, slot := 0 }

/-! ### Issue groups -/

/-- The words of the current packet. -/
def Cursor.words (c : Cursor) : List PSlot :=
  let p := c.packets.headD []
  if c.first then packetWords 1 p.tail else packetWords 0 p
/-- The groups of the current packet that have not issued. -/
def Cursor.todo (c : Cursor) : List (List PWord) :=
  (groups (c.words.filterMap PSlot.word)).filter fun g => match g with | w :: _ => decide (c.slot ≤ w.slot) | [] => false
/-- The slot after a group. -/
def groupEnd : List PWord → Nat
  | [] => 0
  | [w] => w.slot + 1
  | _ :: t => groupEnd t

/-- The state in which a word of the group executes: its slot is the current one. -/
def State.atWord (s : State) (w : PWord) : State := { s.setCur { s.cur with slot := w.slot } with sig := .done }

/-! ### Gangs -/

/-- Record slices as one gang under the lowest of them (R14). -/
def Skein.joinGang (k : Skein) (mask : BitVec 8) : Skein :=
  match (List.range 8).find? fun sl => mask.getLsbD sl with
  | none => k
  | some lead =>
    { k with gangmap := BitVec.ofNat 24 ((List.range 8).foldl
        (fun m sl => m + (if mask.getLsbD sl then lead else k.gangOf sl) <<< (3 * sl)) 0) }

/-- The lowest slice of a mask. -/
def leadOf (mask : BitVec 8) : Nat := ((List.range 8).find? fun sl => mask.getLsbD sl).getD 0

/-- The slices of `REGANG`'s mask that have not exited (R129). -/
def Skein.joinSet (k : Skein) (mask : BitVec 8) : BitVec 8 := mask &&& k.liveMask

/-- The gangs that wait at the `REGANG` of a packet with a mask. -/
def Skein.waitingAt (k : Skein) (at_ : Pc × BitVec 8) : BitVec 8 :=
  (k.gangs.filter fun q => q.2.arrivedAt == some at_).foldl (fun m q => m ||| k.gangMask q.1) 0

/-! ### Regions (R22, R73) -/

/-- A region starts at a packet. -/
def Skein.startRegion (k : Skein) (pc : Pc) (r : ClauseRec) : Skein :=
  { k with regionPc := pc, regionCount := k.regionCount + 1, regionRec := r }

/-- Merge the gangs that wait at one `REGANG`, where every slice of its set has arrived (R129, R130); a region that the
packet ends starts then.  DESIGN CHOICE: several gangs whose packets end a region and that merge here start one region, so
the region counter rises by 1; R22 does not say how often (log 28). -/
def Skein.tryMerge (k : Skein) (at_ : Pc × BitVec 8) : Skein :=
  let set := k.joinSet at_.2
  if set != 0 && k.waitingAt at_ == set then
    let region := k.gangs.any fun q => q.2.arrivedAt == some at_ && q.2.region
    let next := at_.1 + 1
    let k := { (k.setPcs set next).joinGang set with
      gangs := Tab.put (leadOf set) Cursor.empty (k.gangs.filter fun q => q.2.arrivedAt != some at_) }
    if region then k.startRegion next .empty else k
  else k

/-- A slice that exits counts as arrived: every waiting `REGANG` is looked at again (R129). -/
def Skein.retryMerges (k : Skein) : Skein :=
  (k.gangs.filterMap fun q => q.2.arrivedAt).foldl (fun k a => k.tryMerge a) k

/-! ### End of a packet -/

/-- Part the issuing gang: the slices of `taken` move to `t`, the others to the packet after (R124, R128). -/
def Skein.partGang (k : Skein) (g : Nat) (taken : BitVec 8) (t next : Pc) : Skein :=
  let all := k.gangMask g
  let a := all &&& taken
  let b := all &&& ~~~taken
  let k := { k with gangs := Tab.del g k.gangs }
  let k := ((k.setPcs a t).setPcs b next).joinGang a
  let k := k.joinGang b
  let k := if a = 0 then k else k.setCursor (leadOf a) Cursor.empty
  if b = 0 then k else k.setCursor (leadOf b) Cursor.empty

/-- The exit of a gang's slices (R126). -/
def Skein.exitGang (k : Skein) (g : Nat) : Skein :=
  let all := k.gangMask g
  let k := { k with
    exited := k.exited ||| all
    gangs := Tab.del g k.gangs
    gangmap := BitVec.ofNat 24 ((List.range 8).foldl
      (fun m sl => m + (if all.getLsbD sl then sl else k.gangOf sl) <<< (3 * sl)) 0) }
  if k.exited = 0xFF then { k with exiting := true } else k.retryMerges

/-- The end of a packet of gang `g`: its transfer takes effect, and the region it ends gives way to the next.  DESIGN CHOICE:
a packet with a `REGION` or commit-class word that ends in the `EXIT` of a gang that is not the skein's last starts no
region, since that gang has no next packet; R22 and R136 speak of the skein's last slices only (log 28). -/
def Skein.endPacket (k : Skein) (g : Nat) : Skein :=
  let c := k.cursor g
  let pc := k.pcOf g
  let next := pc + 1
  let mask := k.gangMask g
  let k := { k with retired := k.retired + 1 }
  let start := fun (k : Skein) (t : Pc) (r : ClauseRec) => if c.region then k.startRegion t r else k
  match c.ctl with
  | none =>
    if c.packets.length ≤ 1 then start ((k.setPcs mask next).setCursor g Cursor.empty) next .empty
    else start ((k.setPcs mask next).setCursor g
      { c with packets := c.packets.tail, first := false, slot := 0, region := false, passed := false }) next c.stopAfter
  | some (.move t) => start ((k.setPcs mask t).setCursor g Cursor.empty) t .empty
  | some (.part taken t) => start (k.partGang g taken t next) (if taken.getLsbD (leadOf mask) then t else next) .empty
  | some .exit => k.exitGang g
  | some (.regang m) =>
    (k.setCursor g { c with ctl := none, arrivedAt := some (pc, m), wait := some .regang }).tryMerge (pc, m)
  | some .endTrap => k

end Sys2Proof.Machine
end

