-- ==== Sys2Proof/Machine/Clause.lean ====
section
/-! DEFINITION. `CLAUSE_HEADER` (R70, R71, R113) and `FIXED_RESULT_VISIBLE` (R79 to R83). -/

namespace Sys2Proof.Machine

/-- A clause is decoded whole; then its gap is spent, and it begins once every flag of its wait mask reads 0.  The gap
is spent once for an entry, and the mask is tested until it passes (R71). -/
def execClauseHeader (wait : BitVec 12) (setA setB len : BitVec 4) (gap : BitVec 2) (s : State) : Out :=
  let c := s.cur
  match clauseBad s.decCtx 0 (c.packets.take (len.toNat + 1)) with
  | some (k, slot) => .next (s.illegal k slot)
  | none =>
    let s := if c.gapDone then s
      else (s.setMe { s.me with cycle := s.me.cycle + gap.toNat }).setCur { c with gapDone := true }
    if (List.range 12).any fun n => wait.getLsbD n && decide (0 < s.me.flag n) then .next (s.hold (.flags wait))
    else .next { s.setCur { s.cur with phase := .running, setA := setA, setB := setB, slot := 1, wait := none } with
      sig := .done }

/-- The results of a skein that are due become visible, in order of visibility (R79, R81).  Where none is due nothing
changes. -/
def execFixedResultVisible (sk : Nat) (s : State) : Out := .next (s.settleSkein sk false)

end Sys2Proof.Machine
end

