-- ==== Sys2Proof/Machine/Copy.lean ====
section
/-! DEFINITION. The copy engine: copies, gathers, batches and spools (R203 to R209). -/

namespace Sys2Proof.Machine

/-! ### Batches (R23, R205, R206) -/

/-- A copy joins the open batch; `dests` are its global destination ranges. -/
def Skein.joinBatch (k : Skein) (dests : List (Nat × Nat)) : Skein :=
  { k with openBatch := { k.openBatch with copies := k.openBatch.copies + 1, dests := k.openBatch.dests ++ dests } }
/-- One copy of a batch has ended; the first failure's code and address stay. -/
def Batch.copyEnded (fail : Option (Byte × Dword)) (b : Batch) : Batch :=
  let b := { b with copies := b.copies - 1 }
  match fail with
  | some (c, a) => if b.failed then b else { b with failed := true, code := c, addr := a }
  | none => b
def Skein.copyEnded (num : BitVec 32) (fail : Option (Byte × Dword)) (k : Skein) : Skein :=
  let f := fun (b : Batch) => if b.num = num then b.copyEnded fail else b
  { k with openBatch := f k.openBatch, batches := k.batches.map f }
/-- Every copy of the batch has ended. -/
def Batch.complete (b : Batch) : Bool := b.copies == 0

/-- The oldest `n` sealed batches cease to be outstanding: the core's L1 lines in their global destination ranges are
invalidated.  With it the first that failed. -/
def State.retire (s : State) (n : Nat) : State × Option Batch :=
  let bs := s.me.batches.take n
  let w := s.who
  let lines := bs.flatMap fun b => b.dests.flatMap fun d => s.rangeLines w.core (s.ctxOf w) d.1 d.2
  let s := s.setMe { s.me with batches := s.me.batches.drop n }
  (if lines.isEmpty then s else s.invalidateL1 w.core (s.fusedOf w) lines.contains, bs.find? Batch.failed)
/-- A failed batch raises its FAULT when it is waited for (R205). -/
def State.waited (r : State × Option Batch) : Out :=
  match r.2 with
  | some b => r.1.fault b.code.toNat b.addr
  | none => .next r.1

/-- The number after a batch's, which skips 0 (R23). -/
def nextBatch (n : BitVec 32) : BitVec 32 := if n + 1 = 0 then 1 else n + 1
/-- Outstanding sealed batches at most (R206). -/
def maxBatches : Nat := 8
/-- `SEAL` (R206). -/
def execSeal (d : SReg) (s : State) : Out :=
  s.awaits [d] <| s.commitClass <| s.memoryWord false <|
    let full := decide (maxBatches ≤ s.me.batches.length)
    if full && !((s.me.batches.headD (.new 0)).complete) then .next (s.hold .batch)
    else
      let r := if full then s.retire 1 else (s, none)
      let k := r.1.me
      let s := r.1.setMe { k with batches := k.batches ++ [k.openBatch], openBatch := .new (nextBatch k.openBatch.num) }
      match s.commit.putScalar (.seal d) latScl d none ⟨k.openBatch.num.setWidth 64, false, none⟩ 0 with
      | .next t => State.waited (t, r.2)
      | o => o
/-- `WAITB` (R206). -/
def execWaitb (a : SReg) (s : State) : Out :=
  s.awaits [a] <| s.memoryWord false <| s.unpoisoned [a] <|
    match s.me.batches.findIdx? fun b => b.num == (s.sreg a).val.setWidth 32 with
    | none => .next s
    | some i =>
      if (s.me.batches.take (i + 1)).all Batch.complete then State.waited (s.retire (i + 1))
      else .next (s.hold .batch)

/-! ### Issue of copies -/

/-- The lowest failing one of the checks at issue: code and address. -/
def firstBad : List (Bool × Nat × Dword) → Option (Nat × Dword)
  | [] => none
  | (bad, c, a) :: t => if bad then some (c, a) else firstBad t

/-- An end of a copy lies in the scratchpad. -/
def CopyEnd.isPad : CopyEnd → Bool
  | .pad _ => true
  | .glob _ => false
/-- A scratchpad range that reaches outside the allotment. -/
def State.padBad (s : State) (e : CopyEnd) (len : Nat) : Bool :=
  match e with
  | .pad off => decide ((s.panel s.who.panel).padSize < off + len)
  | .glob _ => false
/-- The global range that a copy writes. -/
def CopyEnd.range (e : CopyEnd) (len : Nat) : List (Nat × Nat) :=
  match e with
  | .glob va => [(va, len)]
  | .pad _ => []

/-- A copy is handed to the copy engine. -/
def State.startCopy (s : State) (dst src : CopyEnd) (len : Nat) (obj : Option Ptr) (spool : Option (Nat × Nat)) : State :=
  let w := s.who
  let b := s.me.openBatch.num
  ((s.setMe (s.me.joinBatch (dst.range len))).commit).addOp w none (s.dmode w) (.copy dst src len len obj b spool none false)

/-- `CPY` (R203). -/
def execCpy (q : CopyDir) (a b x : SReg) (s : State) : Out :=
  s.awaits [a, b, x, x + 1] <| s.commitClass <| s.memoryWord true <| s.unpoisoned [a, b, x, x + 1] <|
    let va := (s.sreg a).val
    let vb := (s.sreg b).val
    let n := (s.sreg x).val
    let dst : CopyEnd := if q == .g2p || q == .p2p then .pad va.toNat else .glob va.toNat
    let src : CopyEnd := if q == .p2g || q == .p2p then .pad vb.toNat else .glob vb.toNat
    match firstBad [(va.toNat % 16 != 0, 4, va), (vb.toNat % 16 != 0, 4, vb),
        (n.toNat % 16 != 0 || bitsOf n.toNat 32 32 != 0, 2, va), (s.padBad dst n.toNat, 3, va), (s.padBad src n.toNat, 3, vb)] with
    | some (c, t) => s.fault c t
    | none =>
      match s.objectPtr s.who (q == .p2p) (s.sreg (x + 1)).val with
      | .error c => s.fault c (s.sreg (x + 1)).val
      | .ok obj => .next (s.startCopy dst src n.toNat obj none)

/-! ### Spools (R27, R207 to R209) -/

def Panel.spool (p : Panel) (n : Nat) : Spool := Tab.get Spool.unconfigured p.spools n
def State.setSpool (s : State) (p n : Nat) (x : Spool) : State :=
  s.setPanel p { s.panel p with spools := Tab.put n x (s.panel p).spools }
/-- The scratchpad offset of the slot that a claim or a take of this number has. -/
def Spool.slot (x : Spool) (j : Nat) : Nat := x.base + x.size * (j % x.count)
/-- A claim takes the next slot in order. -/
def Spool.claim (x : Spool) : Spool := { x with nextClaim := x.nextClaim + 1, claims := x.claims ++ [(x.nextClaim, false)] }
/-- Slots fill in claim order: the leading claims whose copies have completed. -/
def Spool.settle (x : Spool) : Spool :=
  let done := (x.claims.takeWhile fun c => c.2).length
  { x with claims := x.claims.drop done, filled := x.filled + done }
/-- The copy of a claim has completed. -/
def Spool.copied (x : Spool) (j : Nat) : Spool :=
  Spool.settle { x with claims := x.claims.map fun c => if c.1 == j then (j, true) else c }
/-- The oldest filled slot is taken. -/
def Spool.take (x : Spool) : Spool :=
  { x with filled := x.filled - 1, nextTake := x.nextTake + 1, held := x.held ++ [x.slot x.nextTake] }
/-- The oldest slot taken is released. -/
def Spool.release (x : Spool) : Spool := if x.held.isEmpty then x else { x with held := x.held.tail, free := x.free + 1 }

/-- A copy of a spool of a panel. -/
def Op.isSpool (o : Op) (p n : Nat) : Bool :=
  o.panel == p && (match o.kind with | .copy _ _ _ _ _ _ (some (m, _)) _ _ => m == n | _ => false)

/-- `CPY.spl` (R208): the slot's offset follows from its place in the order of claims. -/
def execCpySpl (n : BitVec 3) (b x : SReg) (s : State) : Out :=
  s.awaits [b, x, x + 1] <| s.commitClass <| s.memoryWord true <| s.unpoisoned [b, x, x + 1] <|
    let w := s.who
    let y := (s.panel w.panel).spool n.toNat
    let vb := (s.sreg b).val
    let len := (s.sreg x).val
    match firstBad [(y.count == 0, 2, vb), (vb.toNat % 16 != 0, 4, vb),
        (len.toNat % 16 != 0 || bitsOf len.toNat 32 32 != 0, 2, vb), (decide (y.size < len.toNat), 3, vb)] with
    | some (c, t) => s.fault c t
    | none =>
      match s.objectPtr w false (s.sreg (x + 1)).val with
      | .error c => s.fault c (s.sreg (x + 1)).val
      | .ok obj =>
        .next ((s.setSpool w.panel n.toNat y.claim).startCopy (.pad (y.slot y.nextClaim)) (.glob vb.toNat) len.toNat obj
          (some (n.toNat, y.nextClaim)))

/-- `SPLCFG` (R207): its checks, then its wait until no copy to the spool is outstanding. -/
def execSplcfg (n : BitVec 3) (a : SReg) (s : State) : Out :=
  s.awaits [a, a + 1] <| s.commitClass <| s.memoryWord false <| s.unpoisoned [a, a + 1] <|
    let w := s.who
    let v := (s.sreg a).val
    let vb := (s.sreg (a + 1)).val
    let count := bitsOf v.toNat 32 7
    let size := bitsOf v.toNat 16 16
    let base := bitsOf vb.toNat 0 20
    match firstBad [(bitsOf v.toNat 39 25 != 0 || bitsOf v.toNat 0 16 != 0 || decide (64 < count) || (count != 0 && size == 0), 2, v),
        (base % 16 != 0 || size % 16 != 0 || (count != 0 && decide ((s.panel w.panel).padSize < base + size * count)), 3, vb)] with
    | some (c, t) => s.fault c t
    | none =>
      if s.ops.any fun q => q.2.isSpool w.panel n.toNat then .next (s.hold (.spool n.toNat))
      else .next (s.commit.setSpool w.panel n.toNat
        { Spool.unconfigured with base := base, size := size, count := count, free := count })

/-- `SPLGET` (R209). -/
def execSplget (n : BitVec 3) (d : SReg) (s : State) : Out :=
  s.awaits [d] <| s.commitClass <| s.memoryWord false <|
    let p := s.who.panel
    let y := (s.panel p).spool n.toNat
    if y.count = 0 then s.fault 2 0
    else if y.filled = 0 then .next (s.hold (.spool n.toNat))
    else (s.commit.setSpool p n.toNat y.take).putScalar (.splget n d) latScl d none
      ⟨BitVec.ofNat 64 (y.slot y.nextTake), false, none⟩ 0

/-- `SPLREL` (R209). -/
def execSplrel (n : BitVec 3) (s : State) : Out :=
  s.commitClass <| s.memoryWord false <|
    let p := s.who.panel
    let y := (s.panel p).spool n.toNat
    if y.count = 0 then s.fault 2 0 else .next (s.commit.setSpool p n.toNat y.release)

/-! ### Gathers -/

/-- The lanes of a gather: lane, source, destination offset, what its checks came to (R204, R383). -/
def State.gatherLanes (s : State) (n : Nat) (dst : Nat) (b : Dword) (x : VReg) : List (Nat × Nat × Nat) :=
  s.lanes.map fun l => (l, (b + (s.vlane x l).val.signExtend 64).toNat, dst + l * n)
/-- `CPYG` (R204): the destination range, and the form and alignment of every source, are checked at issue; sources are
translated as they are read. -/
def execCpyg (e : Size) (a b : SReg) (x : VReg) (s : State) : Out :=
  s.awaits [a, b] <| s.commitClass <| s.memoryWord true <| s.unpoisoned [a, b] <|
  s.unpoisonedLanes (s.addrToken b (some x)) <|
    let w := s.who
    let n := sizeBytes e
    let va := (s.sreg a).val
    if (s.panel w.panel).padSize < va.toNat + 32 * n then s.fault 3 va
    else
      let ls := s.gatherLanes n va.toNat (s.sreg b).val x
      match firstBad (ls.flatMap fun l => [(!canonical l.2.1, 2, BitVec.ofNat 64 l.2.1), (l.2.1 % n != 0, 4, BitVec.ofNat 64 l.2.1)]) with
      | some (c, t) => s.fault c t
      | none =>
        .next (((s.setMe (s.me.joinBatch [])).commit).addOp w none (s.dmode w)
          (.gather n (ls.map Prod.snd) s.me.openBatch.num none false))

/-! ### Performing copies (R205) -/

/-- One end of a part of a copy: offset in the panel's scratchpad, or physical place. -/
inductive CopyAt where
  | pad (off : Nat)
  | glob (x : Xlat)
  deriving DecidableEq, Repr

/-- A place that one end of a copy reaches, or the code and address of its fault; the foyer is no destination (R306). -/
def State.copyPlace (s : State) (w : Who) (need : Need) : CopyEnd → Except (Nat × Nat) CopyAt
  | .pad off => .ok (.pad off)
  | .glob va =>
    match s.translateAt w.core (s.ctxOf w) va need with
    | .error c => .error (c, va)
    | .ok x => if need.w && isFoyer x.pa then .error (2, va) else .ok (.glob x)

/-- The sectors of `n` bytes. -/
def sectorsOf (pa n : Nat) : List Nat := (List.range ((pa % 64 + n + 63) / 64)).map (pa / 64 + ·)
/-- A part meets a sector that is uncorrectable or whose tag does not match, at its source, or at its destination where it
does not replace the sector whole (R289, R297). -/
def State.copyBad (s : State) (n : Nat) (dst : Bool) : CopyAt → Bool
  | .pad _ => false
  | .glob x => !isFoyer x.pa && (sectorsOf x.pa n).any fun sec =>
      (s.mem.isBad sec || s.mem.tagFails { x with pa := sec * 64 }) &&
      !(dst && decide (x.pa ≤ sec * 64) && decide (sec * 64 + 64 ≤ x.pa + n))

/-- `n` bytes within one line as the copy engine reads them: the scratchpad, or the L2 view of the core's die (R203); in
deterministic mode memory as the commit has left it at its turn (R277). -/
def State.copyRead (s : State) (w : Who) (n : Nat) : CopyAt → State × List Byte
  | .pad off => (s, (s.panel w.panel).padBytes off n)
  | .glob x =>
    if s.dmode w then (s, s.mem.homeBytes x.pa n)
    else if isFoyer x.pa then (s.setMem (s.mem.seen (coreDie w.core) (x.pa / 64)), s.mem.homeBytes x.pa n)
    else
      let r := (sectorsOf x.pa n).foldl (fun (a : MemSys × List Byte) sec =>
        let q := a.1.dieSector (coreDie w.core) sec
        (q.1, a.2 ++ q.2)) (s.mem, [])
      (s.setMem r.1, (r.2.drop (x.pa % 64)).take n)

/-- Write bytes of a copy: lineage of their lines or granules is untagged, then they are written at their home. -/
def State.copyWrite (s : State) (w : Who) (bs : List Byte) : CopyAt → State
  | .pad off => s.padWrite w.panel (bs.zipIdx.map fun b => (off + b.2, b.1))
  | .glob x =>
    let ws := bs.zipIdx.map fun b => (x.pa + b.2, b.1)
    let s := s.sealed ((sectorsOf x.pa bs.length).map fun sec => (0, 0, { x with pa := sec * 64 }))
    (s.untagLines w.core ((ws.map fun p => globLine p.1).eraseDups)).writeHome w.core ws
/-- The record of a sector that an end of a copy cannot use (R297). -/
def State.copyRecord (s : State) (w : Who) (va : Nat) : CopyAt → State
  | .pad _ => s
  | .glob x => s.recordBad w x.pa va

/-- Move an end of a copy on. -/
def CopyEnd.move (n : Nat) : CopyEnd → CopyEnd
  | .glob va => .glob (va + n)
  | .pad off => .pad (off + n)
def CopyEnd.addr : CopyEnd → Nat
  | .glob va => va
  | .pad off => off
/-- Bytes of the next part of a copy: neither end crosses a line. -/
def copyPart (dst src : CopyEnd) (len : Nat) : Nat := min len (min (256 - dst.addr % 256) (256 - src.addr % 256))

/-- What comes next of a copy or gather: it waits, it has moved on, it is at its end, or it meets a fault or a refusal. -/
inductive CopyNext where
  | wait
  | moved (s : State)
  | atEnd
  | fault (s : State) (code addr : Nat)
  deriving DecidableEq, Repr

/-- The record of what it has asked the driver for, in an operation's kind. -/
def OpKind.ask (p : Option Nat) : OpKind → OpKind
  | .copy d s l f o b sp _ r => .copy d s l f o b sp p r
  | .gather n ls b _ r => .gather n ls b p r
  | k => k
/-- A page that is not placed: the copy asks the driver once, and waits; a refusal ends it with the page's code. -/
def State.copyMiss (s : State) (id : Nat) (o : Op) (asked : Option Nat) (refused : Bool) (code addr kind : Nat) : CopyNext :=
  if !mayLogCode code then .fault s code addr
  else
    let page := addr / 4096 * 4096
    if refused then .fault s code addr
    else if asked == some page then .wait
    else .moved ((s.setOp id { o with kind := o.kind.ask (some page) }).postFault (s.ctxOf o.who) page code kind)

/-- An earlier copy of the spool has not started, or no slot is free (R208). -/
def State.spoolHeld (s : State) (id : Nat) (o : Op) (n : Nat) : Bool :=
  ((s.panel o.panel).spool n).free == 0 ||
    s.ops.any fun q => decide (q.1 < id) && q.2.isSpool o.panel n && !q.2.started

/-- The next part of a copy, up to one line (R205).  A copy to a spool first takes its free slot (R208).  DESIGN CHOICE: where
a part meets an uncorrectable sector, the fault's address is the start of the part, at most 256 bytes before it; R205 says
no more than that it is the faulting address (log 29). -/
def State.copyNext (s : State) (id : Nat) (o : Op) : CopyNext :=
  let w := o.who
  if o.staged then .wait else
  match o.kind with
  | .copy dst src len full obj b sp asked refused =>
    let held := match sp with | some (n, _) => !o.started && s.spoolHeld id o n | none => false
    if held then .wait
    else if !o.started then
      let s := match sp with
        | some (n, _) => let y := (s.panel o.panel).spool n; s.setSpool o.panel n { y with free := y.free - 1 }
        | none => s
      .moved (s.setOp id { o with started := true })
    else if len = 0 then
      match s.objectNow w obj with
      | .ok _ => .atEnd
      | .error c => s.copyMiss id o asked refused c (match obj with | some (.virt va) => va | _ => 0) 2
    else
      let n := copyPart dst src len
      match s.copyPlace w needR src with
      | .error (c, a) => s.copyMiss id o asked refused c a 0
      | .ok ps =>
        match s.copyPlace w needW dst with
        | .error (c, a) => s.copyMiss id o asked refused c a 1
        | .ok pd =>
          if s.copyBad n false ps then .fault (s.copyRecord w src.addr ps) 5 src.addr
          else if s.copyBad n true pd then .fault (s.copyRecord w dst.addr pd) 5 dst.addr
          else
            let r := s.copyRead w n ps
            .moved ((r.1.copyWrite w r.2 pd).setOp id
              { o with kind := .copy (dst.move n) (src.move n) (len - n) full obj b sp none false })
  | .gather n ls b asked refused =>
    match ls with
    | [] => .atEnd
    | (va, off) :: t =>
      match s.copyPlace w needR (.glob va) with
      | .error (c, a) => s.copyMiss id o asked refused c a 0
      | .ok ps =>
        if s.copyBad n false ps then .fault (s.copyRecord w va ps) 5 va
        else
          let r := s.copyRead w n ps
          .moved ((r.1.copyWrite w r.2 (.pad off)).setOp id { o with kind := .gather n t b none false })
  | _ => .wait

/-- The end of a copy or gather: its object, its batch, its slot (R203, R205, R208).  An object that cannot be reached is
left alone. -/
def State.copyEnd (s : State) (id : Nat) (o : Op) (fail : Option (Nat × Nat)) : State :=
  let s := s.delOp id
  let fin := fun (s : State) (b : BitVec 32) (f : Option (Nat × Nat)) =>
    s.modSkein o.sk (Skein.copyEnded b (f.map fun p => (BitVec.ofNat 8 p.1, BitVec.ofNat 64 p.2)))
  match o.kind with
  | .copy _ _ _ full obj b sp _ _ =>
    let s := match sp with
      | some (n, j) => s.setSpool o.panel n (((s.panel o.panel).spool n).copied j)
      | none => s
    match s.objectNow o.who obj with
    | .ok p => fin (s.subtractFrom o.core p (BitVec.ofNat 32 full)) b fail
    | .error _ => fin s b fail
  | .gather _ _ b _ _ => fin s b fail
  | _ => s

/-- The operation of a name, if it is a copy or a gather. -/
def State.copyOp (s : State) (id : Nat) : Option Op :=
  match s.op id with
  | some o => match o.kind with | .copy _ _ _ _ _ _ _ _ _ | .gather _ _ _ _ _ => some o | _ => none
  | none => none

/-- One part of a copy. -/
def State.copyLine (s : State) (id : Nat) : State :=
  match s.copyOp id with
  | some o => match s.copyNext id o with | .moved t => t | _ => s
  | none => s
/-- A copy goes on as far as it can, and ends where it has written every byte. -/
def copyRun : Nat → Nat → State → State
  | 0, _, s => s
  | n + 1, id, s =>
    match s.copyOp id with
    | none => s
    | some o =>
      match s.copyNext id o with
      | .wait => s
      | .moved t => copyRun n id t
      | .atEnd => s.copyEnd id o none
      | .fault _ _ _ => s
/-- More parts than a copy still has: each but the last moves at least 16 bytes or one lane. -/
def Op.parts (o : Op) : Nat :=
  match o.kind with
  | .copy _ _ len _ _ _ _ _ _ => len / 16 + 4
  | .gather _ ls _ _ _ => ls.length + 4
  | _ => 0

/-- `COPY_COMPLETE` (R203): the copy of this name writes what is left of it, and ends; where it meets a page that is not
placed, a fault, or no free slot, it stays there. -/
def execCopyComplete (id : Nat) (s : State) : Out :=
  match s.copyOp id with
  | some o => .next (copyRun o.parts id s)
  | none => .next s
/-- `COPY_FAULT` (R205): the copy of this name ends at the fault or refusal that it has come to; where it has come to none
nothing changes. -/
def execCopyFault (id : Nat) (s : State) : Out :=
  match s.copyOp id with
  | some o => match s.copyNext id o with | .fault t c a => .next (t.copyEnd id o (some (c, a))) | _ => .next s
  | none => .next s

end Sys2Proof.Machine
end

