-- ==== Sys2Proof/Machine/Matrix.lean ====
section
/-! DEFINITION. Matrix operands (R214 to R217), the matrix step (R58, R59, R218), accumulators as dense rows (R211), and the
conversion of a row by a drain (R225). -/

namespace Sys2Proof.Machine

/-! ### Formats (Tables 7.1, 7.2, 2.7) -/

/-- An element format of the array. -/
inductive MatElem where
  | plain (f : Fmt)
  | block (b : BlockFmt)
  deriving DecidableEq, Repr

/-- The format that a descriptor gives, if its combination is accepted: element, width in bits, chunk. -/
def matFmt (desc : Dword) : Option (MatElem × Nat × Nat) :=
  let e := bitsOf desc.toNat 0 4
  let bs := (bitsOf desc.toNat 4 2, bitsOf desc.toNat 6 2)
  if bs = (0, 0) then
    match e with
    | 0 => some (.plain f32, 32, 4)
    | 1 => some (.plain bf16, 16, 16)
    | 2 => some (.plain f16, 16, 16)
    | 3 => some (.plain e4m3, 8, 32)
    | 4 => some (.plain e5m2, 8, 32)
    | _ => none
  else if bs = (2, 1) then
    match e with
    | 3 => some (.block .mxfp8e4, 8, 32)
    | 4 => some (.block .mxfp8e5, 8, 32)
    | 5 => some (.block .mxfp4, 4, 64)
    | 6 => some (.block .mxint8, 8, 32)
    | _ => none
  else if bs = (2, 2) then
    match e with
    | 7 => some (.block .dbx8, 8, 32)
    | 8 => some (.block .dbx4, 4, 64)
    | _ => none
  else none

def MatElem.isBlock : MatElem → Bool
  | .block _ => true
  | .plain _ => false
/-- Bytes of a block's scale. -/
def MatElem.scaleBytes : MatElem → Nat
  | .block b => if isDbx b then 2 else 1
  | .plain _ => 0

/-! ### Operands (Table 7.3) -/

def MatOp.base (m : MatOp) : Nat := bitsOf m.first.toNat 0 20
def MatOp.rpitch (m : MatOp) : Nat := bitsOf m.first.toNat 20 16
def MatOp.tpitch (m : MatOp) : Nat := bitsOf m.first.toNat 36 16
def MatOp.rot (m : MatOp) : Nat := bitsOf m.second.toNat 0 3
/-- Rows of A or columns of B that are present, of `rows`. -/
def MatOp.extent (m : MatOp) (rows : Nat) : Nat :=
  let e := bitsOf m.second.toNat 4 8
  if m.pad then (if e = 0 then rows else e) else rows
def MatOp.sbase (m : MatOp) : Nat := bitsOf m.desc.toNat 14 50
def MatOp.shift (m : MatOp) : Nat := bitsOf m.desc.toNat 8 6

/-- The offset of element (i, k) from the base before rotation (R215). -/
def MatOp.offset (m : MatOp) (w c i k : Nat) : Nat := k / c * m.tpitch + (i * m.rpitch + k % c * w / 8)
/-- The address of element (i, k) in the scratchpad. -/
def MatOp.addr (m : MatOp) (w c i k : Nat) : Nat :=
  m.base + k / c * m.tpitch + ((i * m.rpitch + k % c * w / 8) ^^^ ((i % 2 ^ m.rot) <<< 4))
/-- The address of the scale of the block of 32 elements that holds k. -/
def MatOp.scaleAddr (m : MatOp) (w c i k : Nat) : Nat := m.sbase + m.offset w c i (k / 32 * 32) >>> m.shift
/-- The byte of the register stream that element (i, k) begins at, of `rows` rows (R216). -/
def streamByte (rows w c i k : Nat) : Nat := k / c * (rows * c * w / 8) + i * (c * w / 8) + k % c * w / 8
/-- Registers that a register operand reads, if whole. -/
def streamRegs (rows w k : Nat) : Option Nat := if rows * k * w % 1024 = 0 then some (rows * k * w / 1024) else none

/-- The geometry of an operand is within R215 or R216. -/
def MatOp.geometryOk (m : MatOp) (rows k : Nat) (f : MatElem × Nat × Nat) : Bool :=
  let (e, w, c) := f
  if m.pad then
    bitsOf m.first.toNat 52 12 == 0 && bitsOf m.second.toNat 12 52 == 0 && bitsOf m.second.toNat 3 1 == 0 &&
    m.base % 16 == 0 && m.rpitch % 16 == 0 && m.tpitch % 16 == 0 && decide (m.rot ≤ 4) && decide (m.extent rows ≤ rows) &&
    (e.scaleBytes != 2 || (List.range (m.extent rows)).all fun i =>
      (List.range ((k + 31) / 32)).all fun b => m.scaleAddr w c i (32 * b) % 2 == 0)
  else
    !e.isBlock && k % c == 0 &&
    match streamRegs rows w k with
    | some n => decide (m.regs + n ≤ 64)
    | none => false
/-- Every element that would be read lies in `size` bytes; elements are read by runs of at most 16 bytes, which a granule
holds. -/
def MatOp.inBounds (m : MatOp) (rows k size : Nat) (f : MatElem × Nat × Nat) : Bool :=
  let (_, w, c) := f
  let run := 128 / w
  !m.pad || (List.range (m.extent rows)).all fun i =>
    (List.range ((k + run - 1) / run)).all fun g =>
      let n := min run (min (k - run * g) (c - run * g % c))
      decide (m.addr w c i (run * g) + (n * w + 7) / 8 ≤ size)
/-- Every scale that would be read lies in `size` bytes. -/
def MatOp.scalesIn (m : MatOp) (rows k size : Nat) (f : MatElem × Nat × Nat) : Bool :=
  let (e, w, c) := f
  !e.isBlock || (List.range (m.extent rows)).all fun i =>
    (List.range ((k + 31) / 32)).all fun b => decide (m.scaleAddr w c i (32 * b) + e.scaleBytes ≤ size)

/-- Why an operation never begins: status and detail (R219). -/
def Mmat.refusal (m : Mmat) (size : Nat) : Option (Nat × Nat) :=
  let ra := if m.pair then 128 else 64
  match matFmt m.a.desc, matFmt m.b.desc with
  | none, _ => some (2, 1)
  | _, none => some (2, 2)
  | some fa, some fb =>
    if decide (2 ^ 20 < m.k) || (m.k % 32 != 0 && (fa.1.isBlock || fb.1.isBlock)) then some (2, 3)
    else if !m.a.geometryOk ra m.k fa then some (2, 4)
    else if !m.b.geometryOk 64 m.k fb then some (2, 5)
    else if !m.a.inBounds ra m.k size fa then some (3, 1)
    else if !m.b.inBounds 64 m.k size fb then some (3, 2)
    else if !m.a.scalesIn ra m.k size fa then some (3, 3)
    else if !m.b.scalesIn 64 m.k size fb then some (3, 4)
    else none

/-! ### Elements -/

/-- The code of an element that begins at a byte. -/
def elemCode (w k : Nat) (byte : Nat → Byte) (a : Nat) : Nat :=
  if w = 4 then bitsOf (byte a).toNat (4 * (k % 2)) 4
  else (List.range (w / 8)).foldl (fun x j => x + (byte (a + j)).toNat <<< (8 * j)) 0
/-- The value of an element, and whether it is poisoned, which makes it +0 (R215 to R217); `st` is the register stream. -/
def MatOp.elem (m : MatOp) (pad : Nat → Byte) (st : Nat → Byte × Bool) (rows : Nat) (f : MatElem × Nat × Nat) (i k : Nat) : Num × Bool :=
  let (e, w, c) := f
  if m.extent rows ≤ i then (.fin false 0 0, false)
  else if m.pad then
    let x := elemCode w (k % c) pad (m.addr w c i k)
    match e with
    | .plain g => (g.decode x, false)
    | .block b =>
      let s := m.scaleAddr w c i k
      (decodeElem b x (pad s).toNat (pad (s + 1)).toNat, false)
  else
    let a := streamByte rows w c i k
    if (st a).2 then (.fin false 0 0, true)
    else
      match e with
      | .plain g => (g.decode (elemCode w (k % c) (fun n => (st n).1) a), false)
      | .block _ => (.fin false 0 0, false)

/-! ### Dense accumulators (R211) -/

/-- `n` entries of a table from number `k` on. -/
def denseFrom : Nat → Nat → Tab Lane → List Lane
  | 0, _, _ => []
  | n + 1, k, [] => Lane.zero :: denseFrom n (k + 1) []
  | n + 1, k, (j, v) :: t => if j = k then v :: denseFrom n (k + 1) t else Lane.zero :: denseFrom n (k + 1) ((j, v) :: t)
/-- The table of a list of entries from number 0 on. -/
def sparse (ls : List Lane) : Tab Lane :=
  ls.zipIdx.filterMap fun p => if p.1 = Lane.zero then none else some (p.2, p.1)
/-- The 4,096 elements of an accumulator in row order. -/
def Acc.dense (a : Acc) : List Lane := denseFrom 4096 0 a.elem

/-! ### A step -/

/-- Rounding of the array: RNE, with subnormals kept. -/
def matRound : Round := ⟨f32, .rne, false, false⟩
/-- One output element of a step: the exact sum of the chunk, rounded, then added. -/
def stepElem (a b : List (Num × Bool)) (old : Lane) : Lane :=
  let ps := (a.zip b).map fun p => (p.1.1, p.2.1)
  let s := (fpDot matRound ps (some (.fin false 0 0))).1
  let v := (fpAdd matRound (f32.decode old.val.toNat) (f32.decode s)).1
  ⟨BitVec.ofNat 32 v, old.poison || a.any Prod.snd || b.any Prod.snd⟩
/-- A step over the rows of A, each with 64 outputs. -/
def stepRows (bs : List (List (Num × Bool))) : List (List (Num × Bool)) → List Lane → List Lane
  | [], _ => []
  | a :: as, olds => ((bs.zip (olds.take 64)).map fun p => stepElem a p.1 p.2) ++ stepRows bs as (olds.drop 64)

/-- The chunk of an operation. -/
def Mmat.chunk (m : Mmat) : Nat :=
  match matFmt m.a.desc, matFmt m.b.desc with
  | some fa, some fb => min fa.2.2 fb.2.2
  | _, _ => 1
/-- Steps of an operation (R218). -/
def Mmat.total (m : Mmat) : Nat := (m.k + m.chunk - 1) / m.chunk
/-- What a step reads: the scratchpad and the two register streams. -/
structure MatView where
  pad : Nat → Byte
  sa : Nat → Byte × Bool
  sb : Nat → Byte × Bool
/-- `n` bytes of a memory that lists nothing below address `a`, from there on. -/
def Memory.dense : Nat → Nat → Memory → List Byte
  | 0, _, _ => []
  | n + 1, a, [] => Memory.unlisted :: Memory.dense n (a + 1) []
  | n + 1, a, (j, b) :: t =>
    if j = a then b :: Memory.dense n (a + 1) t else Memory.unlisted :: Memory.dense n (a + 1) ((j, b) :: t)
/-- The view of an operation on a panel's scratchpad. -/
def Mmat.view (m : Mmat) (p : Panel) : MatView :=
  let pad := (Memory.dense p.padSize 0 p.scratch).toArray
  let sa := m.a.stream.toArray
  let sb := m.b.stream.toArray
  ⟨fun n => pad.getD n 0, fun n => sa.getD n (0, false), fun n => sb.getD n (0, false)⟩

/-- Step `t` over the outputs, which are 64 rows, or 128 for a pair. -/
def Mmat.step (m : Mmat) (v : MatView) (t : Nat) (olds : List Lane) : List Lane :=
  match matFmt m.a.desc, matFmt m.b.desc with
  | some fa, some fb =>
    let c := m.chunk
    let ks := (List.range (min c (m.k - t * c))).map (t * c + ·)
    let ra := if m.pair then 128 else 64
    let as := (List.range ra).map fun i => ks.map fun k => m.a.elem v.pad v.sa ra fa i k
    let bs := (List.range 64).map fun j => ks.map fun k => m.b.elem v.pad v.sb 64 fb j k
    stepRows bs as olds
  | _, _ => olds
/-- `n` steps from step `t` on. -/
def Mmat.run (m : Mmat) (v : MatView) : Nat → Nat → List Lane → List Lane
  | 0, _, olds => olds
  | n + 1, t, olds => m.run v n (t + 1) (m.step v t olds)

/-! ### Drains (R225) -/

/-- Bits of an element that a drain writes. -/
def drainBits : DrainFmt → Nat
  | .f32 => 32
  | .bf16 => 16
  | .mxfp8e4 | .mxfp8e5 | .dbx8 => 8
  | .mxfp4 | .dbx4 => 4
/-- The block format of a requantising drain. -/
def drainBlock : DrainFmt → Option BlockFmt
  | .f32 | .bf16 => none
  | .mxfp8e4 => some .mxfp8e4
  | .mxfp8e5 => some .mxfp8e5
  | .mxfp4 => some .mxfp4
  | .dbx8 => some .dbx8
  | .dbx4 => some .dbx4
/-- Bytes of a row. -/
def drainRow (f : DrainFmt) : Nat := 8 * drainBits f
/-- Bytes of a block's scale. -/
def drainScale (f : DrainFmt) : Nat :=
  match drainBlock f with
  | some b => if isDbx b then 2 else 1
  | none => 0

/-- One row as it is drained: bytes with their poison marks, scales likewise, and the flags for Q. -/
structure DrainRow where
  bytes : List (Byte × Bool)
  scales : List (Byte × Bool)
  flags : FpFlags
  deriving DecidableEq, Repr

/-- Half a row, 32 elements, in a block format. -/
def drainBlock32 (b : BlockFmt) (w : Nat) (ls : List Lane) : DrainRow :=
  let q := quantise b (ls.map fun l => f32.decode l.val.toNat)
  let p := ls.any Lane.poison
  let sc : List Byte := if isDbx b then [BitVec.ofNat 8 q.lo, BitVec.ofNat 8 q.hi] else [BitVec.ofNat 8 q.lo]
  ⟨(packBytes w q.elems).map fun x => (x, p), sc.map fun x => (x, p), q.flags⟩
/-- A row of 64 elements. -/
def drainRowOf (f : DrainFmt) (ls : List Lane) : DrainRow :=
  match drainBlock f with
  | some b =>
    let x := drainBlock32 b (drainBits f) (ls.take 32)
    let y := drainBlock32 b (drainBits f) (ls.drop 32)
    ⟨x.bytes ++ y.bytes, x.scales ++ y.scales, x.flags ||| y.flags⟩
  | none =>
    if f == .f32 then ⟨ls.flatMap fun l => (leBytes 4 l.val.toNat).map fun x => (x, l.poison), [], 0⟩
    else
      let rs := ls.map fun l => ((⟨bf16, .rne, false, false⟩ : Round).deliver 0 (f32.decode l.val.toNat), l.poison)
      ⟨rs.flatMap fun r => (leBytes 2 r.1.1).map fun x => (x, r.2), [], rs.foldl (fun a r => a ||| r.1.2) 0 &&& (fOF ||| fUF ||| fNX)⟩
/-- Rows of a list of elements. -/
def rowsOf : Nat → List Lane → List (List Lane)
  | 0, _ => []
  | n + 1, ls => ls.take 64 :: rowsOf n (ls.drop 64)

end Sys2Proof.Machine
end

