-- ==== Sys2Proof/Machine/Engine.lean ====
section
/-! DEFINITION. The engine queue (R212, R213), matrix words and their events (R218 to R227), and futures (R228, R229). -/

namespace Sys2Proof.Machine

/-! ### Handles (Table 7.5) -/

/-- The value of a pending handle. -/
def handleWord (kind progress : Nat) : Dword := BitVec.ofNat 64 (kind <<< 60 + progress % 2 ^ 32)
/-- The value of a completed handle. -/
def statusWord (status detail flags progress : Nat) : Dword :=
  BitVec.ofNat 64 (2 ^ 63 + (status % 256) <<< 48 + (detail % 256) <<< 40 + (flags % 32) <<< 32 + progress % 2 ^ 32)
/-- Every scalar pending on an operation shows its progress (R228). -/
def State.setHandle (s : State) (id : Nat) (v : Dword) : State :=
  let f := fun (x : Scalar) => if x.pend == some id then { x with val := v } else x
  { s with skeins := Tab.mapv (fun k =>
      { k with
        s := Tab.mapv f k.s
        pending := k.pending.map fun p => match p.eff with | .scalar r x t => { p with eff := .scalar r (f x) t } | _ => p }) s.skeins }

/-! ### The queue -/

/-- Operations that the queue holds (R212). -/
def queueSize : Nat := 16
/-- An engine word waits while the queue is full. -/
def State.engineWord (s : State) (body : Out) : Out :=
  s.commitClass (if queueSize ≤ s.myCore.queue.length then .next (s.hold .queueFull) else body)
/-- An operation enters the queue of the issuing skein's core. -/
def State.enqueue (s : State) (flag : Option Nat) (kind : OpKind) : State :=
  let id := s.nextId
  let s := s.commit.newWordOp flag kind
  let c := s.myCore
  s.setCore s.curCore { c with queue := c.queue ++ [id] }
/-- An operation with a handle: its destination is pending from the next issue group on (R229). -/
def State.enqueueHandle (s : State) (d : SReg) (kindCode : Nat) (kind : OpKind) : State :=
  (s.pend 1 (.scalar d.toNat ⟨handleWord kindCode 0, false, some s.nextId⟩ none)).enqueue none kind
/-- An operation leaves its core's queue. -/
def State.dequeue (s : State) (core id : Nat) : State :=
  let c := s.core core
  s.setCore core { c with queue := c.queue.filter (· != id) }
/-- An operation with a handle ends with a status. -/
def State.endHandle (s : State) (id : Nat) (o : Op) (st : Dword) : State := (s.dequeue o.core id).finishFuture id st
/-- An operation with a flag ends. -/
def State.endEngine (s : State) (id : Nat) (o : Op) : State := ((s.dequeue o.core id).delOp id).endFlag o

/-- The accumulator that an operation acts on. -/
def OpKind.accOf : OpKind → Option (Nat × Nat)
  | .mmat m => some (m.panel, m.acc)
  | .mzero p a | .mload p a _ _ _ | .mdrain p a _ _ _ _ _ _ _ _ => some (p, a)
  | _ => none
/-- An operation's turn has come: no operation on its accumulator entered the queue before it. -/
def State.turn (s : State) (id : Nat) (o : Op) : Bool :=
  match o.kind.accOf with
  | none => true
  | some a => !((s.core o.core).queue.takeWhile (· != id)).any fun j =>
      match s.op j with | some q => q.kind.accOf == some a | none => false
/-- An operation on an accumulator of a panel is in the queue (R227). -/
def State.accBusy (s : State) (core p a : Nat) : Bool :=
  (s.core core).queue.any fun j => match s.op j with | some q => q.kind.accOf == some (p, a) | none => false

/-! ### Accumulators -/

def Panel.acc (p : Panel) (n : Nat) : Acc := Tab.get Acc.zero p.accs n
/-- The panel's `acc0` is a paired accumulator (R221). -/
def State.paired (s : State) (p n : Nat) : Bool :=
  n == 0 && (s.launch (s.panel p).launch).block.flags.getLsbD 2
/-- The elements of an accumulator, with the lent half of a paired one. -/
def State.accElems (s : State) (p n : Nat) (pair : Bool) : List Lane :=
  let x := s.panel p
  (x.acc n).dense ++ (if pair then x.lent.dense else [])
/-- Write the elements of an accumulator, and change its Q and cursor. -/
def State.setAcc (s : State) (p n : Nat) (pair : Bool) (ls : List Lane) (f : Acc → Acc) : State :=
  let x := s.panel p
  let a := f { x.acc n with elem := sparse (ls.take 4096) }
  s.setPanel p { x with
    accs := Tab.put n a x.accs
    lent := if pair then { x.lent with elem := sparse (ls.drop 4096) } else x.lent }

/-! ### MMAT -/

/-- The scalars of a matrix operand. -/
def matScalars : MatSrc → List SReg
  | .regs _ => []
  | .pad a => [a, a + 1]
/-- The bytes of `n` registers from `a` on, in stream order, per lane under the pattern table (R213, R216). -/
def State.regStream (s : State) (a : VReg) (n : Nat) : List (Byte × Bool) :=
  (List.range n).flatMap fun r => (List.range 32).flatMap fun l =>
    let x := s.readKey (s.me.key (a.toNat + r) l)
    (leBytes 4 x.val.toNat).map fun b => (b, x.poison)
/-- A matrix operand as it is read at issue. -/
def State.matOperand (s : State) (x : MatSrc) (desc : Dword) (rows k : Nat) : MatOp :=
  match x with
  | .pad a => ⟨desc, true, (s.sreg a).val, (s.sreg (a + 1)).val, [], 0⟩
  | .regs v =>
    let n := match matFmt desc with
      | some (_, w, _) => if k ≤ 2 ^ 20 then (match streamRegs rows w k with | some n => min n (64 - v.toNat) | none => 0) else 0
      | none => 0
    ⟨desc, false, 0, 0, s.regStream v n, v.toNat⟩

/-- `MMAT` enters the queue with its operands as read at issue (R213, R218); one that issues while its context is being saved
is asked to stop from the start (R220, R340). -/
def State.mmatWord (s : State) (pair : Bool) (d : SReg) (acc : BitVec 2) (a b : MatSrc) (da db kk : SReg) : Out :=
  let rs := matScalars a ++ matScalars b ++ [da, db, kk]
  s.awaits (d :: rs) <| s.engineWord <| s.unpoisoned rs <|
    let k := (s.sreg kk).val.toNat
    let m : Mmat :=
      ⟨s.me.panel, acc.toNat, pair, s.matOperand a (s.sreg da).val (if pair then 128 else 64) k,
        s.matOperand b (s.sreg db).val 64 k, k, false, 0, 0, false, (s.context s.myCtx).life == .saving⟩
    .next (s.enqueueHandle d 0 (.mmat m))
/-- `MMAT.s` (R218). -/
def execMmatS (d : SReg) (acc : BitVec 2) (a b : MatSrc) (da db kk : SReg) (s : State) : Out :=
  s.mmatWord false d acc a b da db kk
/-- `MMAT.pair` (R221). -/
def execMmatPair (d : SReg) (acc : BitVec 2) (a b : MatSrc) (da db kk : SReg) (s : State) : Out :=
  s.mmatWord true d acc a b da db kk

/-- Apply a test to the `MMAT` of a name whose turn has come. -/
def State.withMmat (s : State) (id : Nat) (f : Op → Mmat → State) : State :=
  match s.op id with
  | some o => match o.kind with | .mmat m => if s.turn id o then f o m else s | _ => s
  | none => s
def State.setMmat (s : State) (id : Nat) (o : Op) (m : Mmat) : State := s.setOp id { o with kind := .mmat m }
/-- `MMAT_BEGIN` (R218, R219): checks, then Q is read and cleared. -/
def execMmatBegin (id : Nat) (s : State) : Out :=
  .next (s.withMmat id fun o m =>
    if m.begun || m.stop then s
    else
      match m.refusal (s.panel m.panel).padSize with
      | some (st, det) => s.endHandle id o (statusWord st det 0 0)
      | none =>
        let p := s.panel m.panel
        let q := (p.acc m.acc).q
        (s.setPanel m.panel { p with accs := Tab.put m.acc { p.acc m.acc with q := 0 } p.accs }).setMmat id o
          { m with begun := true, qread := q })
/-- Perform `n` steps. -/
def State.mmatSteps (s : State) (m : Mmat) (n : Nat) : State :=
  let v := m.view (s.panel m.panel)
  s.setAcc m.panel m.acc m.pair (m.run v n m.steps (s.accElems m.panel m.acc m.pair)) id
/-- `MMAT_INTERRUPTIBLE_POINT` (R220): at a boundary of 16 steps the operation is cancelled where that is asked for, stands
still where a stop is, and otherwise takes the next 16 steps, if it goes on past them. -/
def execMmatInterruptiblePoint (id : Nat) (s : State) : Out :=
  .next (s.withMmat id fun o m =>
    if !m.begun then s
    else if m.cancel then s.endHandle id o (statusWord 1 0 m.qread.toNat m.steps)
    else if m.stop || m.total ≤ m.steps + 16 then s
    else
      ((s.mmatSteps m 16).setMmat id o { m with steps := m.steps + 16 }).setHandle id (handleWord 0 (m.steps + 16)))
/-- The last of the boundaries after every 16th step is the operation's end, where it has steps (R220). -/
def Mmat.endsAtPoint (m : Mmat) : Bool := m.total != 0 && m.total % 16 == 0
/-- `MMAT_COMPLETE` (R218, R220): the last steps, at most 16, are taken, and the handle holds OK; where the end is an
interruptible point and a cancellation is asked for, it holds CANCELLED. -/
def execMmatComplete (id : Nat) (s : State) : Out :=
  .next (s.withMmat id fun o m =>
    if !m.begun || m.stop || decide (m.steps + 16 < m.total) then s
    else (s.mmatSteps m (m.total - m.steps)).endHandle id o
      (statusWord (if m.cancel && m.endsAtPoint then 1 else 0) 0 m.qread.toNat m.total))

/-! ### MZERO and MLOAD -/

/-- `MZERO` (R223). -/
def execMzero (acc : BitVec 2) (s : State) : Out := s.engineWord (.next (s.enqueue none (.mzero s.me.panel acc.toNat)))

/-- `MLOAD` (R224): registers are read at issue, a scratchpad source is checked at issue. -/
def execMload (acc : BitVec 2) (a : MatSrc) (fs : Bool) (s : State) : Out :=
  match a with
  | .regs v =>
    s.awaitsFlag fs <| s.engineWord <|
      let ls := (List.range 64).map fun j => s.readKey (s.me.key (v.toNat + j / 32) (j % 32))
      let f := s.flagOf fs
      .next ((s.setMe (s.me.incFlag f)).enqueue f (.mload s.me.panel acc.toNat (some ls) 0 0))
  | .pad x =>
    s.awaits [x] <| s.awaitsFlag fs <| s.engineWord <| s.unpoisoned [x] <|
      let v := (s.sreg x).val
      let base := bitsOf v.toNat 0 20
      let pitch := bitsOf v.toNat 20 16
      let rows := if s.paired s.me.panel acc.toNat then 128 else 64
      match firstBad [(base % 16 != 0 || pitch % 16 != 0, 4, BitVec.ofNat 64 base), (bitsOf v.toNat 36 28 != 0, 2, BitVec.ofNat 64 base),
          (decide (s.myPanel.padSize < base + (rows - 1) * pitch + 256), 3, BitVec.ofNat 64 base)] with
      | some (c, t) => s.fault c t
      | none =>
        let f := s.flagOf fs
        .next ((s.setMe (s.me.incFlag f)).enqueue f (.mload s.me.panel acc.toNat none base pitch))

/-- The elements that an `MLOAD` writes. -/
def State.mloadElems (s : State) (p rows : Nat) (regs : Option (List Lane)) (base pitch : Nat) : List Lane :=
  match regs with
  | some ls => (List.range rows).flatMap fun _ => ls
  | none => (List.range rows).flatMap fun i => (List.range 64).map fun j =>
      ⟨BitVec.ofNat 32 (leNat ((s.panel p).padBytes (base + i * pitch + 4 * j) 4)), false⟩

/-! ### MDRAIN -/

/-- The band or the rows of a drain, from row `r0` on, with the flags that they give. -/
def State.drainRows (s : State) (p acc : Nat) (f : DrainFmt) (r0 n : Nat) : List DrainRow :=
  let ls := (s.accElems p acc (s.paired p acc)).drop (64 * r0)
  (rowsOf n ls).map (drainRowOf f)
/-- Flags go into Q. -/
def State.orQ (s : State) (p acc : Nat) (rs : List DrainRow) (f : Acc → Acc) : State :=
  let x := s.panel p
  let a := x.acc acc
  s.setPanel p { x with accs := Tab.put acc (f { a with q := rs.foldl (fun q r => q ||| r.flags) a.q }) x.accs }

/-- Lanes from a stream of bytes with poison marks: a lane with a poisoned byte takes the array's token (R31). -/
def streamLanes : List (Byte × Bool) → List Nat → List (Nat × Lane)
  | _, [] => []
  | bs, k :: ks =>
    let b := bs.take 4
    let v : Lane := if b.any Prod.snd then ⟨token 0x10 noAccn, true⟩ else ⟨BitVec.ofNat 32 (leNat (b.map Prod.fst)), false⟩
    (k, v) :: streamLanes (bs.drop 4) ks

/-- The band at the cursor, of 4 or of 8 (R226). -/
def State.bandRows (s : State) (p acc : Nat) (f : DrainFmt) : List DrainRow :=
  s.drainRows p acc f (16 * (((s.panel p).acc acc).band.toNat % if s.paired p acc then 8 else 4)) 16
/-- What a register drain writes of the band at the cursor (R226). -/
def State.bandLanes (s : State) (p acc : Nat) (f : DrainFmt) (keys scKeys : List Nat) : List (Nat × Lane) :=
  let rs := s.bandRows p acc f
  streamLanes (rs.flatMap DrainRow.bytes) keys ++ streamLanes (rs.flatMap DrainRow.scales) scKeys
/-- The flags of the band go into Q, and the cursor moves on (R225, R226). -/
def State.passBand (s : State) (p acc : Nat) (f : DrainFmt) : State :=
  let bands := if s.paired p acc then 8 else 4
  s.orQ p acc (s.bandRows p acc f) fun a => { a with band := BitVec.ofNat 3 ((a.band.toNat % bands + 1) % bands) }

/-- The bytes of a memory drain: address and byte. -/
def drainBytes (f : DrainFmt) (dst sc pitch : Nat) (rs : List DrainRow) : List (Nat × Byte) :=
  rs.zipIdx.flatMap fun r =>
    (r.1.bytes.zipIdx.map fun b => (dst + r.2 * pitch + b.2, b.1.1)) ++
    (r.1.scales.zipIdx.map fun b => (sc + 2 * r.2 * drainScale f + b.2, b.1.1))
/-- Translate the addresses of a global drain, each as a lane of its own; the foyer is no destination (R306), nor is a sector
that is uncorrectable or whose tag does not match and that the drain does not replace whole (R289, R297). -/
def State.drainXlat (s : State) (w : Who) (vas : List Nat) : List LaneTry :=
  s.withTarget 1 (vas.map fun va =>
    (0, va, match s.translateAt w.core (s.ctxOf w) va needW with
      | .error c => .error c
      | .ok x => if isFoyer x.pa then .error 2 else .ok x))

/-- Keys of `n` registers from `r` on, in stream order. -/
def State.regKeys (s : State) (r n : Nat) : List Nat :=
  (List.range n).flatMap fun i => (List.range 32).map fun l => s.me.key (r + i) l

/-- Registers that a register drain writes: as many as an element has bits (R226). -/
def drainRegs (f : DrainFmt) : Nat := drainBits f

/-- A memory drain, after its waits: poison, faults, then its rows are written, and its flag falls at `MDRAIN_COMPLETE`
(R227). -/
def State.drainMemory (s : State) (f : DrainFmt) (pad : Bool) (acc : Nat) (d sc sp : BitVec 6) (fs : Bool) : Out :=
  let w := s.who
  let p := w.panel
  let rows := if s.paired p acc then 128 else 64
  let quant := decide (drainScale f ≠ 0)
  let vd := (s.sreg d).val
  let vs := if quant then (s.sreg sc).val else 0
  let vp := (s.sreg sp).val
  let pitch := vp.toNat
  let sb := max 1 (drainScale f)
  let rs := s.drainRows p acc f 0 rows
  if rs.any fun r => (r.bytes ++ r.scales).any Prod.snd then s.poison (token 0x10 noAccn).toNat
  else
    let bs := drainBytes f vd.toNat vs.toNat pitch rs
    let top := (s.panel p).padSize
    match firstBad [(vd.toNat % 16 != 0, 4, vd), (vs.toNat % sb != 0, 4, vs),
        (decide (pitch < drainRow f) || pitch % 16 != 0 || bitsOf pitch 32 32 != 0, 2, vd),
        (pad && decide (top < vd.toNat + (rows - 1) * pitch + drainRow f), 3, vd),
        (pad && quant && decide (top < vs.toNat + 2 * rows * drainScale f), 3, vs)] with
    | some (c, t) => s.fault c t
    | none =>
      let fl := s.flagOf fs
      let go := fun (s : State) =>
        let op : OpKind := .mdrain p acc f (if pad then .pad else .glob) vd.toNat vs.toNat pitch [] [] []
        let id := s.nextId
        let s := ((s.setMe (s.me.incFlag fl)).enqueue fl op).orQ p acc rs fun a => a
        match s.op id with | some o => s.setOp id { o with started := true } | none => s
      if pad then s.pastAtomics (some p) (bs.map Prod.fst) 1 (.next ((go s).padWord w bs))
      else
        let ts := s.drainXlat w (bs.map Prod.fst)
        match failed ts with
        | f :: _ => s.accessFault w ts f.2.2 f.2.1
        | [] =>
          let ok := passed ts
          let pas := ok.map fun t => t.2.2.pa
          s.pastAtomics none pas 1 (.next (((go s).sealed ok).writeGlobal w (ok.map fun t => t.2.1) (pas.zip (bs.map Prod.snd))))

/-- `MDRAIN` (R225 to R227). -/
def execMdrain (f : DrainFmt) (t : DrainTgt) (acc : BitVec 2) (d sc sp : BitVec 6) (fs : Bool) (s : State) : Out :=
  match t with
  | .regs =>
    s.awaitsFlag fs <| s.engineWord <|
      let fl := s.flagOf fs
      let scs := if drainScale f = 0 then [] else s.regKeys sc.toNat 1
      .next ((s.setMe (s.me.incFlag fl)).enqueue fl (.mdrain s.me.panel acc.toNat f .regs 0 0 0 (s.regKeys d.toNat (drainRegs f)) scs []))
  | _ =>
    let rs := [d] ++ (if drainScale f = 0 then [] else [sc]) ++ [sp]
    s.awaits rs <| s.awaitsFlag fs <| s.engineWord <| s.memoryWord true <| s.unpoisoned rs <|
      if s.accBusy s.curCore s.me.panel acc.toNat then .next (s.hold .earlier)
      else s.drainMemory f (t == .pad) acc.toNat d sc sp fs

/-! ### Events of the queue -/

/-- What an operation does at its turn: `MZERO` and `MLOAD` rewrite their accumulator, a register drain takes its band, which
is on its way to the registers until it completes (R85, R226). -/
def State.perform (s : State) (id : Nat) (o : Op) : State :=
  match o.kind with
  | .mzero p a =>
    let pair := s.paired p a
    (s.setAcc p a pair [] fun x => { x with band := 0 }).dequeue o.core id |>.delOp id
  | .mload p a regs base pitch =>
    let pair := s.paired p a
    let ls := s.mloadElems p (if pair then 128 else 64) regs base pitch
    (s.setAcc p a pair ls fun x => { x with band := 0 }).setOp id { o with started := true }
  | .mdrain p a f .regs d sc pitch keys scKeys _ =>
    (s.passBand p a f).setOp id
      { o with started := true, kind := .mdrain p a f .regs d sc pitch keys scKeys (s.bandLanes p a f keys scKeys) }
  | _ => s
/-- `ENGINE_OP_START` (R212): the operation of this name is performed once its turn has come. -/
def execEngineOpStart (id : Nat) (s : State) : Out :=
  match s.op id with
  | some o => .next (if !o.started && s.turn id o then s.perform id o else s)
  | none => .next s
/-- `MLOAD_COMPLETE` (R224): an `MLOAD` that has been performed ends, and its flag falls. -/
def execMloadComplete (id : Nat) (s : State) : Out :=
  match s.op id with
  | some o => .next (match o.started, o.kind with | true, .mload _ _ _ _ _ => s.endEngine id o | _, _ => s)
  | none => .next s
/-- `MDRAIN_COMPLETE` (R84, R85, R226, R227): what a drain has taken to the registers stands there, but where a later write
has won, and its flag falls. -/
def execMdrainComplete (id : Nat) (s : State) : Out :=
  match s.op id with
  | some o =>
    .next (match o.started, o.kind with
      | true, .mdrain _ _ _ _ _ _ _ _ _ got =>
        (if got.isEmpty then s else s.modSkein o.sk fun k => k.setLanes (o.keep got) none).endEngine id o
      | _, _ => s)
  | none => .next s

/-! ### Futures (R229) -/

/-- `FWAIT` (R229). -/
def execFwait (a : SReg) (s : State) : Out := s.awaits [a] (.next s)
/-- `FTEST` (R229). -/
def execFtest (d a : SReg) (s : State) : Out :=
  s.awaits [d] (s.putScalar (.ftest d a) latScl d none ⟨if (s.sreg a).pend.isSome then 0 else 1, false, none⟩ 0)
/-- `FCANCEL` (R213, R229): an `MMAT` that has not begun is cancelled at once, another at its next interruptible point. -/
def execFcancel (a : SReg) (s : State) : Out :=
  s.commitClass <| s.unpoisoned [a] <|
    let s := s.commit
    match (s.sreg a).pend with
    | none => .next s
    | some id =>
      match s.op id with
      | some o =>
        match o.kind with
        | .mmat m => .next (if m.begun then s.setMmat id o { m with cancel := true } else s.endHandle id o (statusWord 1 0 0 0))
        | _ => .next s
      | none => .next s

end Sys2Proof.Machine
end

