-- ==== Sys2Proof/Machine/Coll.lean ====
section
/-! DEFINITION. Collectives (R231 to R233), and how their values are combined (R61). -/

namespace Sys2Proof.Machine

/-! ### Parameters (Table 7.6) -/

/-- A collective that combines elements. -/
def CollKind.reduces : CollKind → Bool
  | .allreduce | .redscat => true
  | _ => false
/-- Bytes of an element of a reducing kind; the others count bytes. -/
def CollReq.elem (c : CollReq) : Nat := if c.kind.reduces then (if c.rop == .addd then 8 else 4) else 1
/-- Bytes of the send and of the receive range (R232). -/
def CollReq.sendLen (c : CollReq) : Nat :=
  match c.kind with
  | .allreduce | .allgather => c.count * c.elem
  | .redscat | .alltoall => c.n * c.count * c.elem
def CollReq.recvLen (c : CollReq) : Nat :=
  match c.kind with
  | .allreduce | .redscat => c.count * c.elem
  | .allgather | .alltoall => c.n * c.count

/-- What a participant counts its collectives of a tag by. -/
def collKey (tag panel idx : Nat) : Nat := tag * 2 ^ 40 + panel * 32 + idx
/-- The collective as its word's scalars give it; `round` counts the participant's earlier ones with the tag (R231).  DESIGN
CHOICE: an index that is not below the count is a parameter that breaks Table 7.6, and so ends BADOP; R231 and R233 name no
status for it (log 31). -/
def State.collReq (s : State) (kind : CollKind) (rop : CollOp) (scope : CollScope) (a : SReg) : CollReq :=
  let v := fun (i : BitVec 6) => (s.sreg (a + i)).val.toNat
  let p := bitsOf (v 3) 0 16
  let n := bitsOf (v 3) 16 16
  let tag := bitsOf (v 3) 32 32
  let c := bitsOf (v 2) 0 32
  let bad := v 0 % 16 != 0 || v 1 % 16 != 0 || bitsOf (v 2) 32 32 != 0 || n == 0 || decide (n ≤ p) ||
    (!kind.reduces && c % 16 != 0)
  ⟨kind, rop, scope, v 0, v 1, c, p, n, tag, Tab.get 0 s.collRounds (collKey tag s.me.panel s.me.idx), bad, none⟩

/-- The scope of a collective, as a release has it. -/
def collScope : CollScope → Scope
  | .die => .die
  | .pkg => .pkg
  | .pod => .pod
/-- `COLL` (R231, R233): a release at its scope, then the collective waits for its participants; in deterministic mode its issue is
staged (R277). -/
def execColl (kind : CollKind) (rop : CollOp) (scope : CollScope) (d a : SReg) (s : State) : Out :=
  let rs := [a, a + 1, a + 2, a + 3]
  s.awaits (d :: rs) <| s.engineWord <| s.memoryWord true <| s.unpoisoned rs <| s.released (collScope scope) fun s =>
    let c := s.collReq kind rop scope a
    let id := s.nextId
    let k := collKey c.tag s.me.panel s.me.idx
    let s := { s.enqueueHandle d 1 (.coll c) with collRounds := Tab.put k (c.round + 1) s.collRounds }
    match s.op id with
    | some o => .next (s.setOp id { o with staged := s.dmode s.who })
    | none => .next s

/-! ### Combining (R61) -/

/-- One combination, the lower-indexed side on the left: integers wrap, floats round to nearest even without DAZ, FTZ or
flags. -/
def collCombine (r : CollOp) (x y : Nat) : Nat :=
  match r with
  | .addi => (x + y) % 2 ^ 32
  | .addf => (fpAdd ⟨f32, .rne, false, false⟩ (f32.decode x) (f32.decode y)).1
  | .addd => (fpAdd ⟨f64, .rne, false, false⟩ (f64.decode x) (f64.decode y)).1
  | .mini => if sInt 32 y < sInt 32 x then y else x
  | .maxi => if sInt 32 x < sInt 32 y then y else x
  | .minf => (fpMin f32 x y (f32.decode x) (f32.decode y)).1
  | .maxf => (fpMax f32 x y (f32.decode x) (f32.decode y)).1
/-- One level of adjacent pairs. -/
def pairLevel (f : Nat → Nat → Nat) : List Nat → List Nat
  | x :: y :: t => f x y :: pairLevel f t
  | t => t
/-- Levels until one value is left. -/
def pairTree (f : Nat → Nat → Nat) : Nat → List Nat → Nat
  | 0, t => t.headD 0
  | n + 1, t => if t.length ≤ 1 then t.headD 0 else pairTree f n (pairLevel f t)
/-- Some binary tree over the participants: two of the remaining sides, chosen freely, are combined at a time. -/
def freeTree (f : Nat → Nat → Nat) : Nat → Nat → List (Nat × Nat) → Nat
  | 0, _, t => (t.headD (0, 0)).2
  | n + 1, seed, t =>
    if t.length ≤ 1 then (t.headD (0, 0)).2
    else
      let i := Config.choice (seed + 2 * n) % t.length
      let a := t.getD i (0, 0)
      let t := t.eraseIdx i
      let j := Config.choice (seed + 2 * n + 1) % t.length
      let b := t.getD j (0, 0)
      let r := if a.1 < b.1 then (a.1, f a.2 b.2) else (b.1, f b.2 a.2)
      freeTree f n seed (r :: t.eraseIdx j)
/-- The value of element `x`, from the participants' values in order of their index. -/
def collValue (r : CollOp) (det : Bool) (tick x : Nat) (vs : List Nat) : Nat :=
  if det then pairTree (collCombine r) vs.length vs
  else freeTree (collCombine r) vs.length (2 ^ 80 + tick * 2 ^ 50 + x * 2 ^ 18) (vs.zipIdx.map fun p => (p.2, p.1))

/-- Element `x` of a list of bytes. -/
def elemAt (bs : List Byte) (e x : Nat) : Nat := leNat ((bs.drop (x * e)).take e)
/-- The receive bytes of participant `p`, from all send buffers by index (R231). -/
def CollReq.result (c : CollReq) (det : Bool) (tick : Nat) (sends : List (List Byte)) : List Byte :=
  let e := c.elem
  match c.kind with
  | .allreduce => (List.range c.count).flatMap fun x => leBytes e (collValue c.rop det tick x (sends.map fun b => elemAt b e x))
  | .redscat =>
    (List.range c.count).flatMap fun x =>
      leBytes e (collValue c.rop det tick (c.part * c.count + x) (sends.map fun b => elemAt b e (c.part * c.count + x)))
  | .allgather => sends.flatMap fun b => b.take c.count
  | .alltoall => sends.flatMap fun b => (b.drop (c.part * c.count)).take c.count

/-! ### Completion (R233) -/

/-- The members of the collective of an operation that have issued: those of its context with its tag and round. -/
def State.collGroup (s : State) (o : Op) (c : CollReq) : List (Nat × Op × CollReq) :=
  let ctx := s.ctxOf o.who
  s.ops.filterMap fun q =>
    match q.2.kind with
    | .coll d =>
      if !q.2.staged && !d.bad && d.out.isNone && d.tag == c.tag && d.round == c.round && s.ctxOf q.2.who == ctx then some (q.1, q.2, d) else none
    | _ => none
/-- Send buffers that have come from other packages for a tag: participant and bytes, the earliest of each (R364). -/
def State.remoteSends (s : State) (c : CollReq) : List (Nat × List Byte) :=
  if c.scope != .pod then [] else
  (s.fabric.podColl.filter fun m => m.1 == c.tag).foldl
    (fun acc m => if acc.any fun a => a.1 == m.2.1 then acc else acc ++ [(m.2.1, m.2.2)]) []
/-- The participants disagree, repeat an index, or do not share the scope's die (R233). -/
def collDisagrees (g : List (Nat × Op × CollReq)) (remote : List (Nat × List Byte)) : Bool :=
  match g with
  | [] => false
  | (_, o, c) :: t =>
    t.any (fun q =>
      let d := q.2.2
      d.kind != c.kind || (c.kind.reduces && d.rop != c.rop) || d.scope != c.scope || d.count != c.count || d.n != c.n ||
        (c.scope == .die && coreDie q.2.1.core != coreDie o.core)) ||
    (let ps := g.map (fun q => q.2.2.part) ++ remote.map Prod.fst
     decide (ps.eraseDups.length < ps.length) || ps.any fun p => decide (c.n ≤ p))

/-- Translate the bytes of a range of a participant, each as a lane of its own. -/
def State.collRange (s : State) (w : Who) (need : Need) (va n : Nat) : List LaneTry :=
  (List.range n).map fun i => (0, va + i, s.translateAt w.core (s.ctxOf w) (va + i) need)
/-- The send bytes and the receive bytes of a participant, with their checks (R233, R289, R297). -/
def State.collSends (s : State) (w : Who) (c : CollReq) : List LaneTry :=
  s.withMemory w (fun _ => .home) (s.collRange w needR c.send c.sendLen)
def State.collRecvs (s : State) (w : Who) (c : CollReq) : List LaneTry := s.withTarget 1 (s.collRange w needW c.recv c.recvLen)

/-- The bytes of a participant are written, and its core's L1 loses the lines. -/
def State.collWrite (s : State) (w : Who) (bs : List (Nat × Byte)) : State :=
  let lines := (bs.map fun b => b.1 / 256).eraseDups
  let s := (s.untagLines w.core (lines.map (2 * ·))).writeHome w.core bs
  s.invalidateL1 w.core (s.fusedOf w) lines.contains
/-- What a chain through the collective carries (R266): beyond a die, a participant's die has applied what the dies of the
others had (R268). -/
def State.collJoin (s : State) (o : Op) (c : CollReq) : State :=
  if wide (collScope c.scope) then s.setMem (s.mem.joinDies (coreDie o.core)) else s
/-- A participant's collective ends with its bytes written. -/
def State.endColl (s : State) (q : Nat × Op × CollReq) (st : Dword) (bs : List (Nat × Byte)) : State :=
  ((if bs.isEmpty then s else s.collWrite q.2.1.who bs).collJoin q.2.1 q.2.2).endHandle q.1 q.2.1 st
/-- What a collective has come to for a participant: it ends, or in deterministic mode a commit will end it (R276, R278). -/
def State.settleColl (s : State) (q : Nat × Op × CollReq) (st : Dword) (bs : List (Nat × Byte)) : State :=
  if s.dmode q.2.1.who then s.setOp q.1 { q.2.1 with kind := .coll { q.2.2 with out := some (st, bs) } } else s.endColl q st bs

/-- Every participant has issued and agrees: all send buffers are read, then every receive buffer is written.  Where one
of them faults, its receive bytes may be written in part. -/
def State.runColl (s : State) (o : Op) (c : CollReq) (g : List (Nat × Op × CollReq)) (remote : List (Nat × List Byte)) :
    State :=
  let sends := g.map fun q => (q.2.2.part, s.collSends q.2.1.who q.2.2)
  let recvs := g.map fun q => (q, s.collRecvs q.2.1.who q.2.2)
  let codes := (sends.flatMap fun x => failed x.2) ++ recvs.flatMap fun x => failed x.2
  let bytesOf := fun (p : Nat) =>
    match sends.find? (fun x => x.1 == p) with
    | some x => (passed x.2).map fun t => s.mem.homeByte t.2.2.pa
    | none => match remote.find? (fun m => m.1 == p) with | some m => m.2 | none => []
  let all := (List.range c.n).map bytesOf
  let det := s.dmode o.who
  let tick := s.tick
  let part := fun (bs : List (Nat × Byte)) => if codes.isEmpty then bs else bs.filter fun b => det || Config.coin tick b.1
  let st := match codes with | [] => statusWord 0 0 0 0 | f :: _ => statusWord 4 f.2.2 0 0
  let ends := recvs.map fun x =>
    (x.1, part (((passed x.2).map fun t => t.2.2.pa).zip (if (failed x.2).isEmpty then x.1.2.2.result det tick all else [])))
  let s := g.foldl (fun s q => (s.noteBad q.2.1.who (s.collSends q.2.1.who q.2.2)).sealed (passed (s.collRecvs q.2.1.who q.2.2))) s
  let used := remote.map Prod.fst
  let s := if used.isEmpty then s else
    { s with fabric := { s.fabric with
        podColl := used.foldl (fun ms p => ms.eraseP fun m => m.1 == c.tag && m.2.1 == p) s.fabric.podColl } }
  ends.foldl (fun s e => s.settleColl e.1 st e.2) s

/-- How many participants of a failed collective are still to come. -/
def State.collLeft (s : State) (ctx tag round : Nat) : Option Nat :=
  (s.collBad.find? fun b => b.1 == ctx && b.2.1 == tag && b.2.2.1 == round).map fun b => b.2.2.2
/-- Every member ends in MISMATCH, and so does each that comes later, until every participant has come (R233). -/
def State.failColl (s : State) (ctx : Nat) (c : CollReq) (g : List (Nat × Op × CollReq)) (remote : Nat) : State :=
  let all := g.foldl (fun n q => max n q.2.2.n) c.n - remote
  let left := (s.collLeft ctx c.tag c.round).getD all - g.length
  let rest := s.collBad.filter fun b => !(b.1 == ctx && b.2.1 == c.tag && b.2.2.1 == c.round)
  g.foldl (fun s q => s.settleColl q (statusWord 5 0 0 0) [])
    { s with collBad := if left = 0 then rest else (ctx, c.tag, c.round, left) :: rest }

/-- A package that has been lost had a part in the collective; which had is free (R365; log 41). -/
def State.collLost (s : State) (ctx : Nat) (c : CollReq) : Bool :=
  c.scope == .pod && s.fabric.lost.any fun n => Config.podMember n ctx c.tag
/-- Under reduced service a collective wider than a die is held (R369). -/
def State.collHeld (s : State) (c : CollReq) : Bool := c.scope != .die && s.host.status.getLsbD 3
/-- A collective completes for every participant, once all of them have issued or they are seen to disagree.  No item is named
for a parameter outside Table 7.6: the detail is a free value. -/
def State.resolveColl (s : State) (id : Nat) (o : Op) (c : CollReq) : State :=
  let ctx := s.ctxOf o.who
  let g := s.collGroup o c
  let remote := s.remoteSends c
  if o.staged || c.out.isSome || s.collHeld c then s
  else if c.bad then s.settleColl (id, o, c) (statusWord 2 (Config.freeByte s.tick id).toNat 0 0) []
  else if (s.collLeft ctx c.tag c.round).isSome || s.collLost ctx c || collDisagrees g remote then s.failColl ctx c g remote.length
  else if g.length + remote.length < c.n then s
  else s.runColl o c g remote
/-- `COLL_COMPLETE` (R233). -/
def execCollComplete (id : Nat) (s : State) : Out :=
  match s.op id with
  | none => .next s
  | some o => match o.kind with | .coll c => .next (s.resolveColl id o c) | _ => .next s

/-- A commit resolves the collectives of its launch that it can, and delivers them (R276, R278). -/
def State.commitColls (s : State) (seq : Nat) : State :=
  let mine := fun (s : State) => s.ops.filterMap fun q =>
    match q.2.kind with | .coll c => if q.2.launch == seq then some (q.1, q.2, c) else none | _ => none
  let s := (mine s).foldl (fun s q =>
    match s.op q.1 with
    | some o => (match o.kind with | .coll c => s.resolveColl q.1 o c | _ => s)
    | none => s) s
  (mine s).foldl (fun s q => match q.2.2.out with | some r => s.endColl q r.1 r.2 | none => s) s

end Sys2Proof.Machine
end

