-- ==== Sys2Proof/Machine/Debug.lean ====
section
/-! DEFINITION. How numbers are written (R2), and the debugger's stop (R142, R346, R347, R262). -/

namespace Sys2Proof.Machine

/-! ### Numbers in print (R2) -/

/-- One upper-case hexadecimal digit. -/
def hexDigit (n : Nat) : Char := "0123456789ABCDEF".toList.getD (n % 16) '0'
/-- The lowest `k` hexadecimal digits of a number, most significant first, with an underscore every four. -/
def hexDigits : Nat → Nat → List Char
  | 0, _ => []
  | k + 1, x => hexDigit (x / 16 ^ k) :: (if k != 0 && k % 4 == 0 then '_' :: hexDigits k x else hexDigits k x)
/-- A number of `k` digits. -/
def hexK (k x : Nat) : String := "0x" ++ String.ofList (hexDigits k x)
/-- A number without leading zeros. -/
def hexN (x : Nat) : String := hexK (if x = 0 then 1 else x.log2 / 4 + 1) x
/-- Two digits of a byte, without a prefix. -/
def hexByte (b : Byte) : String := String.ofList (hexDigits 2 b.toNat)
/-- The lowest `k` binary digits. -/
def binK (k x : Nat) : String := "0b" ++ String.ofList ((List.range k).reverse.map fun i => if x.testBit i then '1' else '0')
/-- A decimal number. -/
def dec (x : Nat) : String := toString x
/-- Pad with spaces to the left or to the right. -/
def padLeft (n : Nat) (t : String) : String := String.ofList (List.replicate (n - t.length) ' ') ++ t
def padRight (n : Nat) (t : String) : String := t ++ String.ofList (List.replicate (n - t.length) ' ')

/-- A line of the vitrine. -/
def State.print (s : State) (t : String) : State := { s with vit := { s.vit with out := s.vit.out ++ [t] } }

/-! ### Stops -/

/-- How the vitrine names a skein (R261); the trap skein as core/T. -/
def skeinName (core slot panel idx : Nat) : String :=
  if slot = trapSlot then dec core ++ "/T" else dec core ++ "/" ++ dec panel ++ "/" ++ dec idx
/-- A packet as the vitrine numbers it: from the first packet of the code that it has placed. -/
def Vitrine.packet (v : Vitrine) (pc : Pc) : Nat :=
  if v.opened.isSome && decide (v.codeBase / 12 ≤ pc.toNat) then pc.toNat - v.codeBase / 12 else pc.toNat
/-- The mask of a world: all ones for world 0, else that of the context that owns it (R349, Table 13.1). -/
def State.worldMask (s : State) (world : Nat) : BitVec 16 :=
  if world = 0 then 0x1F else ((List.find? (fun c => c.2.world == world) s.contexts).map fun c => c.2.mask).getD 0
/-- The debugger may see what a world holds (R259, R345). -/
def State.mayDebug (s : State) (world : Nat) : Bool := (s.worldMask world).getLsbD 3
/-- The world of the skein's launch lets the debugger attach, and it is attached (R142, R259, R345). -/
def State.debugOn (s : State) (k : Nat) : Bool :=
  let x := s.skein k
  let l := s.launch (s.panel x.panel).launch
  (s.core (k / 65)).debugReg.getLsbD 0 && l.attached && s.mayDebug l.block.world

/-- The gang has issued no word of its clause (R346). -/
def Cursor.fresh (c : Cursor) : Bool :=
  match c.phase with
  | .running => c.first && decide (c.slot ≤ 1)
  | .resume _ => false
  | _ => true
/-- A gang that the debugger holds: it stopped, or its skein stops and it stands at a clause's first packet or waits,
or its panel stops and it stands between packets (R346). -/
def Skein.heldGang (k : Skein) (g : Nat) : Bool :=
  let c := k.cursor g
  c.stop || (k.stopped && (c.fresh || c.wait.isSome)) || (k.dbgHold && c.between)

/-- The cores that the vitrine's launch uses. -/
def State.launchCores (s : State) : List Nat :=
  match s.vit.launched with
  | none => []
  | some seq => (s.cores.filter fun c => c.2.slots.contains (some seq)).map Prod.fst
/-- Breakpoint register `n` of a core, from what the vitrine has set (R381, Table 12.5): a breakpoint without a core stands on
each core that the launch uses. -/
def State.brk (s : State) (core n : Nat) : Dword :=
  let all := if s.launchCores.contains core then s.vit.breaks.find? fun b => b.num == n && b.core.isNone else none
  match all.or (s.vit.breaks.find? fun b => b.num == n && b.core == some core) with
  | some b => BitVec.ofNat 64 (2 ^ 63 + b.pc.toNat)
  | none => 0
/-- The curator writes a core's breakpoint and debug control registers for the vitrine, while the mask of the core's world
permits it (R345, R381).  DESIGN CHOICE: what it writes to stoppanel is a free bit, since no command of Table 8.6 names it
(log 49). -/
def State.armCore (s : State) (core : Nat) : State :=
  let c := s.core core
  if s.vit.opened.isSome && s.mayDebug c.world then
    s.setCore core { c with
      brk := (List.range 4).map fun n => (n, s.brk core n)
      debugReg := if Config.coin s.tick core then 3 else 1 }
  else s
/-- The gang is the one that `step` lets issue (R347). -/
def State.steps (s : State) (k g : Nat) : Bool := s.vit.stepping == some g && s.vit.sel == k

/-- A skein's gang stops for the debugger with BREAK `n` at packet `pc` and slot `slot`; under stoppanel the panel's other
skeins stop at their next packet boundary (R346, R347).  The line of R262 is printed.  The caller makes the results of the
skein visible where the stop falls (R83). -/
def State.debugStop (s : State) (k g n : Nat) (pc : Pc) (slot : Nat) (rec_ : ClauseRec) : State :=
  let x := s.skein k
  let s := { s with vit := { s.vit with sel := k } }
  let s := s.modSkein k fun x =>
    { x.setCursor g { x.cursor g with stop := true, passed := true } with stopped := true, stopRec := rec_ }
  let s := if (s.core (k / 65)).debugReg.getLsbD 1 then
      { s with skeins := s.skeins.map fun q =>
          if q.2.panel == x.panel && q.1 != k then (q.1, { q.2 with dbgHold := true }) else q }
    else s
  s.print ("stop " ++ skeinName (k / 65) (k % 65) (s.panel x.panel).index x.idx ++ "  BREAK " ++ dec n ++ "  pc " ++
    hexN (s.vit.packet pc) ++ "." ++ dec slot ++ "  region " ++ hexN (s.vit.packet x.regionPc))

end Sys2Proof.Machine
end

