-- ==== Sys2Proof/Machine/Text.lean ====
section
/-! DEFINITION. Text that the vitrine reads and prints: numbers (R2, R239), the names of operations in cabinet keys (R371),
binary32 values in decimal (R375), and the text form of a launch parameter block (R311). -/

namespace Sys2Proof.Machine

/-! ### Names of operations (R371) -/

def elemSuffix : ElemTy → String
  | .w => ".w"
  | .h2 => ".h2"
  | .b4 => ".b4"
def sizeSuffix : Size → String
  | .b => ".b"
  | .h => ".h"
  | .w => ".w"
  | .d => ".d"
def redSuffix : RedOp → String
  | .add => ".add"
  | .and => ".and"
  | .or => ".or"
  | .xor => ".xor"
  | .min => ".min"
  | .max => ".max"
  | .minu => ".minu"
  | .maxu => ".maxu"
  | .addf => ".addf"
  | .minf => ".minf"
  | .maxf => ".maxf"
  | .addd => ".addd"
def condSuffix : Cond → String
  | .eq => ".eq"
  | .ne => ".ne"
  | .lt => ".lt"
  | .le => ".le"
  | .gt => ".gt"
  | .ge => ".ge"
def fcondSuffix : FCond → String
  | .eq => ".eq"
  | .ne => ".ne"
  | .lt => ".lt"
  | .le => ".le"
  | .gt => ".gt"
  | .ge => ".ge"
  | .ord => ".ord"
  | .un => ".un"
def fmtSuffix : ElemFmt → String
  | .f32 => ".f32"
  | .f64 => ".f64"
  | .f16 => ".f16"
  | .bf16 => ".bf16"
  | .e4m3 => ".e4m3"
  | .e5m2 => ".e5m2"
  | .e2m1 => ".e2m1"
  | .int8 => ".int8"
  | .int4 => ".int4"
  | .int16 => ".int16"
  | .int32 => ".int32"
  | .uint8 => ".uint8"
  | .uint16 => ".uint16"
  | .uint32 => ".uint32"
  | .int64 => ".int64"
def modSuffix : CvtMod → String
  | .rm => ""
  | .rne => ".rne"
  | .rz => ".rz"
  | .rup => ".rup"
  | .rdn => ".rdn"
  | .sat => ".sat"
  | .rneSat => ".rne.sat"
  | .rzSat => ".rz.sat"
def blockSuffix : BlockFmt → String
  | .dbx8 => ".dbx8"
  | .dbx4 => ".dbx4"
  | .mxfp8e4 => ".mxfp8e4"
  | .mxfp8e5 => ".mxfp8e5"
  | .mxfp4 => ".mxfp4"
  | .mxint8 => ".mxint8"

/-- The mnemonic of a word that a cabinet entry may hold, with its type suffix. -/
def opName : Instr → String
  | .sadd _ _ _ => "SADD"
  | .ssub _ _ _ => "SSUB"
  | .smul _ _ _ => "SMUL"
  | .smulh _ _ _ => "SMULH"
  | .smulhu _ _ _ => "SMULHU"
  | .sdiv _ _ _ => "SDIV"
  | .sdivu _ _ _ => "SDIVU"
  | .srem _ _ _ => "SREM"
  | .sremu _ _ _ => "SREMU"
  | .sand _ _ _ => "SAND"
  | .sor _ _ _ => "SOR"
  | .sxor _ _ _ => "SXOR"
  | .sandn _ _ _ => "SANDN"
  | .sshl _ _ _ => "SSHL"
  | .sshr _ _ _ => "SSHR"
  | .ssra _ _ _ => "SSRA"
  | .smin _ _ _ => "SMIN"
  | .smax _ _ _ => "SMAX"
  | .sminu _ _ _ => "SMINU"
  | .smaxu _ _ _ => "SMAXU"
  | .scmpEq _ _ _ => "SCMP.eq"
  | .scmpNe _ _ _ => "SCMP.ne"
  | .scmpLt _ _ _ => "SCMP.lt"
  | .scmpLe _ _ _ => "SCMP.le"
  | .scmpLtu _ _ _ => "SCMP.ltu"
  | .scmpLeu _ _ _ => "SCMP.leu"
  | .ssel _ _ _ => "SSEL"
  | .spopc _ _ => "SPOPC"
  | .sclz _ _ => "SCLZ"
  | .sctz _ _ => "SCTZ"
  | .sbfe _ _ _ => "SBFE"
  | .sbfi _ _ _ => "SBFI"
  | .saddI _ _ _ => "SADD"
  | .sandI _ _ _ => "SAND"
  | .sorI _ _ _ => "SOR"
  | .sxorI _ _ _ => "SXOR"
  | .sshlI _ _ _ => "SSHL"
  | .sshrI _ _ _ => "SSHR"
  | .ssraI _ _ _ => "SSRA"
  | .scmpEqI _ _ _ => "SCMP.eq"
  | .scmpNeI _ _ _ => "SCMP.ne"
  | .scmpLtI _ _ _ => "SCMP.lt"
  | .scmpLeI _ _ _ => "SCMP.le"
  | .scmpLtuI _ _ _ => "SCMP.ltu"
  | .scmpLeuI _ _ _ => "SCMP.leu"
  | .smovi _ _ => "SMOVI"
  | .slui _ _ => "SLUI"
  | .smov _ _ => "SMOV"
  | .sget _ _ => "SGET"
  | .vadd t _ _ _ => "VADD" ++ elemSuffix t
  | .vsub t _ _ _ => "VSUB" ++ elemSuffix t
  | .vmul t _ _ _ => "VMUL" ++ elemSuffix t
  | .vmulh t _ _ _ => "VMULH" ++ elemSuffix t
  | .vmulhu t _ _ _ => "VMULHU" ++ elemSuffix t
  | .vand _ _ _ => "VAND"
  | .vor _ _ _ => "VOR"
  | .vxor _ _ _ => "VXOR"
  | .vandn _ _ _ => "VANDN"
  | .vshl t _ _ _ => "VSHL" ++ elemSuffix t
  | .vshr t _ _ _ => "VSHR" ++ elemSuffix t
  | .vsra t _ _ _ => "VSRA" ++ elemSuffix t
  | .vmin t _ _ _ => "VMIN" ++ elemSuffix t
  | .vmax t _ _ _ => "VMAX" ++ elemSuffix t
  | .vminu t _ _ _ => "VMINU" ++ elemSuffix t
  | .vmaxu t _ _ _ => "VMAXU" ++ elemSuffix t
  | .vabsd t _ _ _ => "VABSD" ++ elemSuffix t
  | .vaddsat t _ _ _ => "VADDSAT" ++ elemSuffix t
  | .vsubsat t _ _ _ => "VSUBSAT" ++ elemSuffix t
  | .vpopc t _ _ => "VPOPC" ++ elemSuffix t
  | .vclz t _ _ => "VCLZ" ++ elemSuffix t
  | .vbfe _ _ _ => "VBFE"
  | .vbfi _ _ _ => "VBFI"
  | .vmov _ _ => "VMOV"
  | .vidx _ => "VIDX"
  | .vaddI _ _ _ => "VADD.w"
  | .vmulI _ _ _ => "VMUL.w"
  | .vandI _ _ _ => "VAND"
  | .vorI _ _ _ => "VOR"
  | .vxorI _ _ _ => "VXOR"
  | .vshlI _ _ _ => "VSHL.w"
  | .vshrI _ _ _ => "VSHR.w"
  | .vsraI _ _ _ => "VSRA.w"
  | .vminI _ _ _ => "VMIN.w"
  | .vmaxI _ _ _ => "VMAX.w"
  | .vminuI _ _ _ => "VMINU.w"
  | .vmaxuI _ _ _ => "VMAXU.w"
  | .vmovi _ _ => "VMOVI"
  | .vfadd _ _ _ => "VFADD"
  | .vfsub _ _ _ => "VFSUB"
  | .vfmul _ _ _ => "VFMUL"
  | .vfmin _ _ _ => "VFMIN"
  | .vfmax _ _ _ => "VFMAX"
  | .vfabs _ _ => "VFABS"
  | .vfneg _ _ => "VFNEG"
  | .vfclass _ _ => "VFCLASS"
  | .vfscale _ _ _ => "VFSCALE"
  | .vfrint _ _ => "VFRINT"
  | .vfma _ _ _ _ => "VFMA"
  | .vfms _ _ _ _ => "VFMS"
  | .vfnma _ _ _ _ => "VFNMA"
  | .vmad _ _ _ _ => "VMAD"
  | .vaddmin _ _ _ _ => "VADDMIN"
  | .vfaddmin _ _ _ _ => "VFADDMIN"
  | .vdadd _ _ _ => "VDADD"
  | .vdmul _ _ _ => "VDMUL"
  | .vdfma _ _ _ => "VDFMA"
  | .vcadd _ _ _ => "VCADD"
  | .vcmul _ _ _ => "VCMUL"
  | .vcfma _ _ _ => "VCFMA"
  | .vfdiv _ _ _ _ => "VFDIV"
  | .vfsqrt _ _ _ => "VFSQRT"
  | .vexp2 _ _ _ => "VEXP2"
  | .vlog2 _ _ _ => "VLOG2"
  | .vrcp _ _ _ => "VRCP"
  | .vrsq _ _ _ => "VRSQ"
  | .vsinp _ _ _ => "VSINP"
  | .vcosp _ _ _ => "VCOSP"
  | .vrng _ _ _ => "VRNG"
  | .vshup _ _ _ => "VSHUP"
  | .vshdn _ _ _ => "VSHDN"
  | .vrot _ _ _ => "VROT"
  | .vperm _ _ _ => "VPERM"
  | .vbcast _ _ _ => "VBCAST"
  | .vred o _ _ => "VRED" ++ redSuffix o
  | .vscan o _ _ => "VSCAN" ++ redSuffix o
  | .vcvt dst src m _ _ => "VCVT" ++ fmtSuffix dst ++ fmtSuffix src ++ modSuffix m
  | .vpack dst src m _ _ => "VPACK" ++ fmtSuffix dst ++ fmtSuffix src ++ modSuffix m
  | .vunpk dst src m _ _ => "VUNPK" ++ fmtSuffix dst ++ fmtSuffix src ++ modSuffix m
  | .vqdbx blk _ _ => "VQDBX" ++ blockSuffix blk
  | .vdqdbx blk _ _ => "VDQDBX" ++ blockSuffix blk
  | .vcmp k _ _ _ => "VCMP" ++ condSuffix k
  | .vcmpu k _ _ _ => "VCMPU" ++ condSuffix k
  | .vfcmp k _ _ _ => "VFCMP" ++ fcondSuffix k
  | .vsel _ _ _ => "VSEL"
  | .ptst _ _ => "PTST"
  | .ld z _ _ _ _ => "LD" ++ sizeSuffix z
  | .ldSpec z _ _ _ _ => "LD.spec" ++ sizeSuffix z
  | .ldByp z _ _ _ _ => "LD.byp" ++ sizeSuffix z
  | .ldAcqCore z _ _ _ _ => "LD.acq.core" ++ sizeSuffix z
  | .ldAcqQuad z _ _ _ _ => "LD.acq.quad" ++ sizeSuffix z
  | .ldAcqDie z _ _ _ _ => "LD.acq.die" ++ sizeSuffix z
  | .ldAcqPkg z _ _ _ _ => "LD.acq.pkg" ++ sizeSuffix z
  | .ldAcqPod z _ _ _ _ => "LD.acq.pod" ++ sizeSuffix z
  | .ldp z _ _ _ _ => "LDP" ++ sizeSuffix z
  | .ldpSpec z _ _ _ _ => "LDP.spec" ++ sizeSuffix z
  | .ldc z _ _ _ _ => "LDC" ++ sizeSuffix z
  | _ => ""

/-- The key of a word has an immediate (R36). -/
def hasImm (i : Instr) : Bool :=
  match encode false i with
  | [_, _] => true
  | [w] =>
    match major i with
    | 0x02 | 0x05 => true
    | 0x03 => fld w 18 2 != 2
    | 0x0E | 0x10 => !bit w 7
    | _ => false
  | _ => false

/-! ### binary32 in decimal (R375) -/

/-- A list of characters without the zeros at its end. -/
def dropZeros (cs : List Char) : List Char := (cs.reverse.dropWhile (· == '0')).reverse
/-- m × 2^(−k), exactly. -/
def decFrac (m k : Nat) : String :=
  let x := m * 5 ^ k
  let f := dropZeros ((padLeft k (dec (x % 10 ^ k))).toList.map fun c => if c == ' ' then '0' else c)
  dec (x / 10 ^ k) ++ (if f.isEmpty then "" else "." ++ String.ofList f)
/-- The value of a binary32 number. -/
def decF32 (w : Word) : String :=
  let e := bitsOf w.toNat 23 8
  let f := bitsOf w.toNat 0 23
  let sign := if w.getLsbD 31 then "-" else ""
  if e = 255 then (if f = 0 then sign ++ "inf" else "nan")
  else
    let m := if e = 0 then f else f + 2 ^ 23
    let p := max e 1
    sign ++ (if m = 0 then "0" else if 150 ≤ p then dec (m * 2 ^ (p - 150)) else decFrac m (150 - p))
/-- A binary32 value in hexadecimal, then in decimal. -/
def showF32 (w : Word) : String := hexK 8 w.toNat ++ " (" ++ decF32 w ++ ")"

/-! ### Numbers that the vitrine reads (R239) -/

/-- A digit of a base. -/
def digitOf (base : Nat) (c : Char) : Option Nat :=
  let n := c.toNat
  let v := if 48 ≤ n && n ≤ 57 then n - 48 else if 65 ≤ n && n ≤ 70 then n - 55 else if 97 ≤ n && n ≤ 102 then n - 87 else 99
  if v < base then some v else none
/-- Digits of a base, underscores ignored. -/
def digitsOf (base : Nat) : List Char → Nat → Option Nat
  | [], x => some x
  | '_' :: cs, x => digitsOf base cs x
  | c :: cs, x => match digitOf base c with | some d => digitsOf base cs (x * base + d) | none => none
/-- A number without its suffix. -/
def plainNumber (cs : List Char) : Option Nat :=
  match cs with
  | [] => none
  | '0' :: 'x' :: c :: t => digitsOf 16 (c :: t) 0
  | '0' :: 'b' :: c :: t => digitsOf 2 (c :: t) 0
  | '_' :: _ => none
  | _ => digitsOf 10 cs 0
/-- A number of R239, with a suffix K or M. -/
def parseNum (cs : List Char) : Option Nat :=
  match cs.reverse with
  | 'k' :: t => (plainNumber t.reverse).map (· * 2 ^ 10)
  | 'm' :: t => (plainNumber t.reverse).map (· * 2 ^ 20)
  | _ => plainNumber cs

/-! ### Lines -/

def lowerChar (c : Char) : Char := if 65 ≤ c.toNat && c.toNat ≤ 90 then Char.ofNat (c.toNat + 32) else c
def isBlank (c : Char) : Bool := c == ' ' || c == '\t' || c == '\r'
def trim (cs : List Char) : List Char := ((cs.dropWhile isBlank).reverse.dropWhile isBlank).reverse
/-- Split at a character. -/
def splitAt1 (x : Char) : List Char → List (List Char)
  | [] => [[]]
  | c :: cs =>
    match splitAt1 x cs with
    | h :: t => if c == x then [] :: h :: t else (c :: h) :: t
    | [] => [[c]]
/-- A line without its comment. -/
def uncomment : List Char → List Char
  | [] => []
  | ';' :: _ => []
  | '/' :: '/' :: _ => []
  | c :: cs => c :: uncomment cs
/-- The name and the value of a line; a line without both reads as an empty name. -/
def nameValue (cs : List Char) : String × List Char :=
  match splitAt1 '=' cs with
  | [n, v] => (String.ofList (trim n), trim v)
  | _ => ("", [])
/-- The lines of a text form: names and values in lower case, blank lines left out (R311). -/
def textLines (bs : List Byte) : List (String × List Char) :=
  let cs := bs.map fun b => lowerChar (Char.ofNat b.toNat)
  (((splitAt1 '\n' cs).map fun l => trim (uncomment l)).filter fun l => !l.isEmpty).map nameValue

/-! ### The text form of a launch parameter block (R311, Table 11.6) -/

/-- Names that fill one field with a number: the field's place and length in bytes. -/
def numberNames : List (String × Nat × Nat) :=
  [("version", 0, 2), ("context", 4, 4), ("code", 8, 8), ("skeins", 28, 1), ("acc", 30, 1), ("swizzle", 32, 1),
   ("qexp", 33, 1), ("dcores", 34, 2), ("world", 36, 1), ("priority", 37, 1), ("bcount", 38, 1), ("seed", 40, 8),
   ("ctrbase", 48, 8), ("cbank", 56, 8), ("cbsize", 64, 4), ("deadline", 68, 4), ("watchdog", 72, 8), ("btable", 80, 8)]
/-- Names of the launch flags, by bit (Table 11.2). -/
def flagNames : List String := ["independent", "dmode", "pair", "quadl1", "quadplace", "hostvis"]
/-- Write a number of `n` bytes at a place.  DESIGN CHOICE: one that does not fit writes the greatest that does, which the Registrar
then checks (R311, R312; log 51). -/
def putNum (bs : List Byte) (off n x : Nat) : List Byte := bs.take off ++ leBytes n (min x (2 ^ (8 * n) - 1)) ++ bs.drop (off + n)
/-- Numbers separated by commas. -/
def numbers (v : List Char) : Option (List Nat) := (splitAt1 ',' v).mapM fun c => parseNum (trim c)
/-- Write numbers one after another. -/
def putNums (off n : Nat) : List Nat → List Byte → List Byte
  | [], bs => bs
  | x :: t, bs => putNums (off + n) n t (putNum bs off n x)
/-- Traversals by name. -/
def traversalOf (v : String) : Option Nat := ["row-major", "column-major", "morton", "hilbert"].findIdx? (· == v)
/-- Write the two numbers of a digest region. -/
def putDigest (bs : List Byte) (off : Nat) (v : List Char) : Option (List Byte) :=
  (numbers v).bind fun xs => if xs.length = 2 then some (putNums off 8 xs bs) else none
/-- One line of the text form. -/
def setField (bs : List Byte) (name : String) (v : List Char) : Option (List Byte) :=
  match List.find? (fun f => f.1 == name) numberNames with
  | some f => (parseNum v).map (putNum bs f.2.1 f.2.2)
  | none =>
    match flagNames.findIdx? (· == name) with
    | some i =>
      let w := leNat ((bs.drop 2).take 2)
      match String.ofList v with
      | "on" => some (putNum bs 2 2 (w ||| 2 ^ i))
      | "off" => some (putNum bs 2 2 (if w.testBit i then w - 2 ^ i else w))
      | _ => none
    | none =>
      match name with
      | "grid" => (numbers v).bind fun xs => if 3 < xs.length then none else some (putNums 16 4 ((xs ++ [1, 1, 1]).take 3) bs)
      | "scratch" => (parseNum v).bind fun x => if x % 4096 = 0 then some (putNum bs 29 1 (x / 4096)) else none
      | "traversal" => (traversalOf (String.ofList v)).map (putNum bs 31 1)
      | "dep" => (numbers v).bind fun xs => if 4 < xs.length then none else some (putNums 88 8 xs bs)
      | "digest0" => putDigest bs 120 v
      | "digest1" => putDigest bs 136 v
      | "digest2" => putDigest bs 152 v
      | "digest3" => putDigest bs 168 v
      | _ => none
/-- All lines, each name once. -/
def setFields : List (String × List Char) → List String → List Byte → Option (List Byte)
  | [], _, bs => some bs
  | (n, v) :: t, seen, bs => if seen.contains n then none else (setField bs n v).bind (setFields t (n :: seen))
/-- The block before any line: the Reset column of Table 11.1, the container's panel record (skeins, scratch, acc, pair, l1)
and its code address. -/
def blankBlock (panel : List Nat) (code : Nat) : List Byte :=
  let p := fun i => panel.getD i 0
  leBytes 2 1 ++ leBytes 2 (4 * (p 3 % 2) + 8 * (p 4 % 2)) ++ leBytes 4 0 ++ leBytes 8 code ++ leBytes 4 1 ++ leBytes 4 1 ++
    leBytes 4 1 ++ leBytes 1 (p 0) ++ leBytes 1 (p 1) ++ leBytes 1 (p 2) ++ List.replicate 225 0

end Sys2Proof.Machine
end

