-- ==== Sys2Proof/Machine/AsmText.lean ====
section
/-! DEFINITION. The lines of an assembly source (R238), its expressions (R239), its macros (R246) and the files that it
includes (R254): what `ouvas` reads before any word is looked at. -/

namespace Sys2Proof.Machine

/-- Where a line stands: its file, its number, and the macro calls that wrote it, the innermost first (R247). -/
structure Where where
  file : String
  line : Nat
  calls : List String
  deriving DecidableEq, Repr

/-- A line of source. -/
structure Line where
  pos : Where
  text : List Char
  deriving DecidableEq, Repr

/-- A diagnostic: its number in Table 8.3, and where it is given (R247). -/
structure Diag where
  code : Nat
  pos : Where
  deriving DecidableEq, Repr

/-! ### Characters -/

/-- Characters of a symbol; `$` marks a name of one macro expansion (R246). -/
def isName (c : Char) : Bool := c.isAlphanum || c == '_' || c == '$'
def lowerAll (cs : List Char) : List Char := cs.map lowerChar
def str (cs : List Char) : String := String.ofList cs
/-- The characters of a name together, every other character by itself. -/
def runs : List Char → List (List Char)
  | [] => []
  | c :: cs =>
    match runs cs with
    | (d :: r) :: t => if isName c && isName d then (c :: d :: r) :: t else [c] :: (d :: r) :: t
    | t => [c] :: t
/-- A line without its comment; a name in quotes holds none. -/
def dropComment : Bool → List Char → List Char
  | _, [] => []
  | q, '"' :: cs => '"' :: dropComment (!q) cs
  | true, c :: cs => c :: dropComment true cs
  | false, ';' :: _ => []
  | false, '/' :: '/' :: _ => []
  | false, c :: cs => c :: dropComment false cs
def Line.clean (l : Line) : List Char := trim (dropComment false l.text)
/-- The first word of a line and the rest of it. -/
def headRest (cs : List Char) : List Char × List Char :=
  (cs.takeWhile fun c => !isBlank c, trim (cs.dropWhile fun c => !isBlank c))
/-- Split at the commas outside brackets; nothing gives no part. -/
def splitArgs (cs : List Char) : List (List Char) :=
  let p := cs.foldr (fun c (p : Nat × List (List Char)) =>
    let d := if c == ']' || c == ')' then p.1 + 1 else if c == '[' || c == '(' then p.1 - 1 else p.1
    match p.2 with
    | h :: t => (d, if c == ',' && d == 0 then [] :: h :: t else (c :: h) :: t)
    | [] => (d, [[c]])) (0, [[]])
  if (trim cs).isEmpty then [] else p.2.map trim
/-- A label and what follows it on its line (Table 8.1). -/
def splitLabel (cs : List Char) : Option (List Char × List Char) :=
  let n := cs.takeWhile isName
  match n, (cs.dropWhile isName).dropWhile isBlank with
  | c :: _, ':' :: t => if c.isDigit then none else some (n, trim t)
  | _, _ => none

/-! ### Expressions (R239) -/

inductive BinOp where
  | or | xor | and | shl | shr | add | sub | mul | div | rem
  deriving DecidableEq, Repr

/-- How tightly an operator binds. -/
def BinOp.level : BinOp → Nat
  | .or => 0
  | .xor => 1
  | .and => 2
  | .shl | .shr => 3
  | .add | .sub => 4
  | .mul | .div | .rem => 5

inductive Tok where
  | num (n : Nat)
  | sym (s : String)
  | op (o : BinOp)
  | tilde | lpar | rpar
  deriving DecidableEq, Repr

/-- A number with its suffix. -/
def asmNumber (cs : List Char) : Option Nat :=
  match cs.reverse with
  | 'K' :: t => (plainNumber t.reverse).map (· * 2 ^ 10)
  | 'M' :: t => (plainNumber t.reverse).map (· * 2 ^ 20)
  | _ => plainNumber cs
/-- A name or a number. -/
def nameTok (cs : List Char) : Option Tok :=
  match cs with
  | c :: _ => if c.isDigit then (asmNumber cs).map .num else if isName c then some (.sym (str cs)) else none
  | [] => none
/-- The tokens of an expression; none where a character stands that no expression holds. -/
def tokens : List (List Char) → Option (List Tok)
  | [] => some []
  | ['<'] :: ['<'] :: t => (tokens t).map (.op .shl :: ·)
  | ['>'] :: ['>'] :: t => (tokens t).map (.op .shr :: ·)
  | r :: t =>
    (tokens t).bind fun ts =>
      match r with
      | ['|'] => some (.op .or :: ts)
      | ['^'] => some (.op .xor :: ts)
      | ['&'] => some (.op .and :: ts)
      | ['+'] => some (.op .add :: ts)
      | ['-'] => some (.op .sub :: ts)
      | ['*'] => some (.op .mul :: ts)
      | ['/'] => some (.op .div :: ts)
      | ['%'] => some (.op .rem :: ts)
      | ['~'] => some (.tilde :: ts)
      | ['('] => some (.lpar :: ts)
      | [')'] => some (.rpar :: ts)
      | [' '] | ['\t'] => some ts
      | _ => (nameTok r).map (· :: ts)

inductive Expr where
  | num (n : Nat)
  | sym (s : String)
  | neg (e : Expr)
  | not (e : Expr)
  | bin (o : BinOp) (a b : Expr)
  deriving DecidableEq, Repr

/-! An expression is read by precedence: `unary` reads an operand, `level` the operators that bind at least as tightly as a
level.  The first argument bounds the depth. -/
mutual
def Expr.unary : Nat → List Tok → Option (Expr × List Tok)
  | 0, _ => none
  | _ + 1, .num k :: t => some (.num k, t)
  | _ + 1, .sym s :: t => some (.sym s, t)
  | n + 1, .op .sub :: t => (Expr.unary n t).map fun p => (.neg p.1, p.2)
  | n + 1, .tilde :: t => (Expr.unary n t).map fun p => (.not p.1, p.2)
  | n + 1, .lpar :: t =>
    match Expr.level n 0 t with
    | some (e, .rpar :: r) => some (e, r)
    | _ => none
  | _ + 1, _ => none
def Expr.level : Nat → Nat → List Tok → Option (Expr × List Tok)
  | 0, _, _ => none
  | n + 1, l, t =>
    match Expr.unary n t with
    | some (e, r) => Expr.climb n l e r
    | none => none
def Expr.climb : Nat → Nat → Expr → List Tok → Option (Expr × List Tok)
  | 0, _, _, _ => none
  | n + 1, l, a, .op o :: t =>
    if o.level < l then some (a, .op o :: t)
    else
      match Expr.level n (o.level + 1) t with
      | some (b, r) => Expr.climb n l (.bin o a b) r
      | none => none
  | _ + 1, _, a, t => some (a, t)
end
/-- The expression that a text is. -/
def parseExpr (cs : List Char) : Option Expr :=
  (tokens (runs cs)).bind fun ts =>
    match Expr.level (4 * ts.length + 4) 0 ts with
    | some (e, []) => some e
    | _ => none

/-- An exact value, and the symbol and addend that it stands for where it is the one plus the other. -/
structure Val where
  n : Int
  rel : Option (String × Int)
  deriving DecidableEq, Repr

/-- What operators do (R239); OA121 for a division by 0 and a count outside 0 to 63. -/
def BinOp.apply (o : BinOp) (a b : Int) : Except Nat Int :=
  match o with
  | .or => .ok (Int.lor a b)
  | .xor => .ok (Int.xor a b)
  | .and => .ok (Int.land a b)
  | .add => .ok (a + b)
  | .sub => .ok (a - b)
  | .mul => .ok (a * b)
  | .div => if b = 0 then .error 121 else .ok (a.tdiv b)
  | .rem => if b = 0 then .error 121 else .ok (a.tmod b)
  | .shl => if 0 ≤ b ∧ b ≤ 63 then .ok (a * 2 ^ b.toNat) else .error 121
  | .shr => if 0 ≤ b ∧ b ≤ 63 then .ok (a / 2 ^ b.toNat) else .error 121
/-- A symbol plus or minus a number keeps the symbol. -/
def BinOp.rel (o : BinOp) (x y : Val) : Option (String × Int) :=
  match o, x.rel, y.rel with
  | .add, some (s, k), none => some (s, k + y.n)
  | .add, none, some (s, k) => some (s, k + x.n)
  | .sub, some (s, k), none => some (s, k - y.n)
  | _, _, _ => none
/-- The exact value of an expression. -/
def Expr.exact (look : String → Except Nat Val) : Expr → Except Nat Val
  | .num n => .ok ⟨n, none⟩
  | .sym s => look s
  | .neg e =>
    match e.exact look with
    | .ok v => .ok ⟨-v.n, none⟩
    | .error c => .error c
  | .not e =>
    match e.exact look with
    | .ok v => .ok ⟨-v.n - 1, none⟩
    | .error c => .error c
  | .bin o a b =>
    match a.exact look, b.exact look with
    | .ok x, .ok y => (o.apply x.n y.n).map fun n => ⟨n, o.rel x y⟩
    | .error c, _ | _, .error c => .error c
/-- The value kept: 64 bits, as an unsigned number.  DESIGN CHOICE: a constant stands in later expressions for its unsigned value
(log 52). -/
def Expr.value (look : String → Except Nat Val) (e : Expr) : Except Nat Val :=
  (e.exact look).map fun v => { v with n := v.n % 2 ^ 64 }
/-- A kept value read as a signed number, as operands with a sign are. -/
def Val.signed (v : Val) : Int := if v.n < 2 ^ 63 then v.n else v.n - 2 ^ 64

/-! ### Included files (R254) -/

/-- The lines of a file. -/
def linesOf (file : String) (bs : List Byte) : List Line :=
  (splitAt1 '\n' (bs.map fun b => Char.ofNat b.toNat)).zipIdx.map fun p => ⟨⟨file, p.2 + 1, []⟩, p.1⟩
/-- The file that a line includes. -/
def includeOf (l : Line) : Option String :=
  let h := headRest l.clean
  match lowerAll h.1, h.2 with
  | ['.', 'i', 'n', 'c', 'l', 'u', 'd', 'e'], '"' :: t => some (str (t.takeWhile (· != '"')))
  | _, _ => none
/-- The lines with every file inserted in place, none where one is not found or they nest deeper than the first argument. -/
def insertFiles (look : String → Option (List Byte)) : Nat → List Line → Option (List Line)
  | 0, ls => if ls.any fun l => (includeOf l).isSome then none else some ls
  | n + 1, ls =>
    (ls.mapM fun l =>
      match includeOf l with
      | none => some [l]
      | some f => (look f).bind fun bs => insertFiles look n (linesOf f bs)).map List.flatten

/-! ### Macros (R246) -/

structure Macro where
  name : List Char
  params : List (List Char)
  body : List Line
  deriving DecidableEq, Repr

/-- Where expansion stands: the macros known, the one being read, how many calls have been expanded, the lines written, the
last first. -/
structure Expansion where
  macros : List Macro
  reading : Option Macro
  calls : Nat
  out : List Line
  deriving DecidableEq, Repr

/-- The text of a body line: parameters by their arguments, a name with a trailing `$` by the name of this expansion. -/
def substitute (ps : List (List Char × List Char)) (k : Nat) : List (List Char) → List Char
  | [] => []
  | ['%'] :: r :: t =>
    match ps.find? fun p => p.1 == r with
    | some p => p.2 ++ substitute ps k t
    | none => '%' :: r ++ substitute ps k t
  | r :: t => (if r.getLast? == some '$' then r ++ (dec k).toList else r) ++ substitute ps k t
/-- Begin the macro that a `.macro` line names. -/
def Macro.begin (rest : List Char) : Macro := let h := headRest rest; ⟨h.1, splitArgs h.2, []⟩
/-- Write a line that calls nothing, or expand its call; the first argument bounds the depth.  DEDUCED: a macro is known from its
`.endm` on (log 52). -/
def expandLines : Nat → Expansion → List Line → Except Diag Expansion
  | 0, _, ls => .error ⟨120, match ls with | l :: _ => l.pos | [] => ⟨"", 0, []⟩⟩
  | n + 1, x, ls =>
    ls.foldlM (fun (x : Expansion) l =>
      let t := l.clean
      let h := headRest t
      match x.reading, str (lowerAll h.1) with
      | some m, ".endm" => .ok { x with macros := { m with body := m.body.reverse } :: x.macros, reading := none }
      | some m, _ => .ok { x with reading := some { m with body := l :: m.body } }
      | none, ".macro" => .ok { x with reading := some (Macro.begin h.2) }
      | none, _ =>
        let body := (match splitLabel t with | some p => p.2 | none => t)
        let b := headRest body
        match x.macros.find? fun m => m.name == b.1 with
        | none => .ok { x with out := l :: x.out }
        | some m =>
          let args := splitArgs b.2
          if args.length != m.params.length then .error ⟨120, l.pos⟩
          else
            let label := (match splitLabel t with | some p => [{ l with text := p.1 ++ [':'] }] | none => [])
            let lines := m.body.map fun y =>
              (⟨⟨y.pos.file, y.pos.line, str m.name :: l.pos.calls⟩, substitute (m.params.zip args) x.calls (runs y.text)⟩ : Line)
            expandLines n { x with calls := x.calls + 1, out := label ++ x.out } (if lines.isEmpty then [{ l with text := [] }] else lines))
      x
/-- The source after expansion: at most 16 calls deep, every `.macro` closed, no line longer than 1,024 characters (R238). -/
def expandSource (ls : List Line) : Except Diag (List Line) :=
  match ls.find? fun l => decide (1024 < l.text.length) with
  | some l => .error ⟨122, l.pos⟩
  | none =>
    match expandLines 17 ⟨[], none, 0, []⟩ ls with
    | .error d => .error d
    | .ok x =>
      match x.reading with
      | some _ => .error ⟨120, match ls.getLast? with | some l => l.pos | none => ⟨"", 0, []⟩⟩
      | none => .ok x.out.reverse

end Sys2Proof.Machine
end

