-- ==== Sys2Proof/Machine/AsmWord.lean ====
section
/-! DEFINITION. Words of assembly text: the operands and spellings of R238 and of the function tables (R91 to R112), the choice
between an immediate and a literal (R87, R177), and what a relocation is to fill in (R256). -/

namespace Sys2Proof.Machine

/-! ### Symbols -/

/-- What a symbol names: a label of a code section, and whether it marks a clause's first packet (R245); a label of another
section, by that section's type in Table 8.5; a constant. -/
inductive SymKind where
  | code (trap first : Bool)
  | other (ty : Nat)
  | const
  deriving DecidableEq, Repr

/-- A symbol: a code label counts packets from the start of its section, another label bytes (R239). -/
structure Sym where
  name : String
  kind : SymKind
  value : Nat
  deriving DecidableEq, Repr

/-- A place that a relocation fills: its type, its symbol and its addend. -/
structure Fix where
  ty : Nat
  sym : String
  add : Int
  deriving DecidableEq, Repr

/-- What a word is read with: the symbols, the constants of `.equ`, the clause's set fields, whether it stands in trap code,
its packet, and how many packets the code section has, which trap code follows (R377). -/
structure WordCtx where
  syms : List Sym
  equs : List (String × Expr)
  setA : Nat
  setB : Nat
  trap : Bool
  packet : Nat
  codePackets : Nat

/-- The value depends on where the driver puts a section: code, const or data (R256). -/
def SymKind.isPlaced : SymKind → Bool
  | .code _ _ | .other 6 | .other 7 => true
  | _ => false
def findSym (ss : List Sym) (n : String) : Option Sym := ss.find? fun y => y.name == n
/-- The value of a symbol; a label keeps its name, and a cycle of constants is OA105.  The first argument bounds the depth. -/
def lookUp (ss : List Sym) (es : List (String × Expr)) : Nat → String → Except Nat Val
  | 0, _ => .error 105
  | n + 1, s =>
    match findSym ss s with
    | some y => .ok ⟨y.value, if y.kind.isPlaced then some (s, 0) else none⟩
    | none =>
      match es.find? fun e => e.1 == s with
      | some e => e.2.value (lookUp ss es n)
      | none => .error 104
def WordCtx.look (x : WordCtx) : String → Except Nat Val := lookUp x.syms x.equs (x.equs.length + 1)
/-- The value of an operand's text. -/
def WordCtx.value (x : WordCtx) (t : List Char) : Except Nat Val :=
  match parseExpr t with
  | some e => e.value x.look
  | none => .error 102
/-- The value of a text that has to be a constant (OA121). -/
def WordCtx.constant (x : WordCtx) (t : List Char) : Except Nat Int :=
  match x.value t with
  | .ok v => if v.rel.isSome then .error 121 else .ok v.signed
  | .error c => .error c

/-! ### Operands -/

/-- A letter and a decimal number. -/
def lettered (c : Char) : List Char → Option Nat
  | d :: n :: t => if d == c && (n :: t).all Char.isDigit then digitsOf 10 (n :: t) 0 else none
  | _ => none
/-- `s0` to `s63` and the aliases; OA103 for a number above 63, OA102 for anything else. -/
def sregOf (t : List Char) : Except Nat SReg :=
  let l := lowerAll t
  match str l with
  | "em" => .ok regEm
  | "pm" => .ok regPm
  | "lr" => .ok regLr
  | "zero" => .ok regZero
  | _ =>
    match lettered 's' l with
    | some n => if n ≤ 63 then .ok (BitVec.ofNat 6 n) else .error 103
    | none => .error 102
/-- `v0` to `v63`. -/
def vregOf (t : List Char) : Except Nat VReg :=
  match lettered 'v' (lowerAll t) with
  | some n => if n ≤ 63 then .ok (BitVec.ofNat 6 n) else .error 103
  | none => .error 102
/-- `acc0` to `acc3`. -/
def accRegOf (t : List Char) : Except Nat (BitVec 2) :=
  match lowerAll t with
  | 'a' :: 'c' :: r =>
    match lettered 'c' r with
    | some n => if n ≤ 3 then .ok (BitVec.ofNat 2 n) else .error 103
    | none => .error 102
  | _ => .error 102
/-- The text is a scalar register, or a vector register, in limits or not. -/
def isSreg (t : List Char) : Bool := sregOf t != .error 102
def isVreg (t : List Char) : Bool := vregOf t != .error 102
/-- The second operand of a V3 word. -/
def vsrcText (t : List Char) : Except Nat VSrc :=
  if isSreg t then (sregOf t).map .s else (vregOf t).map .v
/-- `f0` to `f11`; OA113 above. -/
def flagNo (t : List Char) : Except Nat Nat :=
  match lettered 'f' (lowerAll t) with
  | some n => if n ≤ 11 then .ok n else .error 113
  | none => .error 102
/-- The value of a keyword operand `name=…`. -/
def keyed (name : List Char) (t : List Char) : Option (List Char) :=
  let k := t.takeWhile (· != '=')
  match t.dropWhile (· != '=') with
  | '=' :: v => if lowerAll (trim k) == name then some (trim v) else none
  | _ => none
/-- Take a final `flag=fn` operand off: its fs bit by the clause's set fields (R105, R242). -/
def WordCtx.flag (x : WordCtx) (ops : List (List Char)) : Except Nat (List (List Char) × Bool) :=
  match ops.getLast?.bind (keyed ['f', 'l', 'a', 'g']) with
  | none => .ok (ops, false)
  | some v =>
    match flagNo v with
    | .error c => .error c
    | .ok n => if n = x.setA then .ok (ops.dropLast, false) else if n = x.setB then .ok (ops.dropLast, true) else .error 113

/-- How a function table extends an immediate (R87). -/
inductive Ext where
  | sign | zero
  deriving DecidableEq, Repr

/-- A number that fits an imm10 field of this extension. -/
def Ext.short (k : Ext) (n : Int) : Bool :=
  match k with
  | .sign => decide (-511 ≤ n ∧ n ≤ 511)
  | .zero => decide (0 ≤ n ∧ n ≤ 1023 ∧ n ≠ 512)
/-- A number that a literal of this extension can stand for, in a 64-bit or a 32-bit operand. -/
def Ext.long (k : Ext) (wide : Bool) (n : Int) : Bool :=
  if wide then
    match k with
    | .sign => decide (-2147483648 ≤ n ∧ n < 2147483648)
    | .zero => decide (0 ≤ n ∧ n < 4294967296)
  else decide (-2147483648 ≤ n ∧ n < 4294967296)
def WordCtx.isCode (x : WordCtx) (n : String) : Bool :=
  match (findSym x.syms n).map Sym.kind with
  | some (.code _ _) => true
  | _ => false
/-- What relocation a literal takes that stands for a label (R256), whose addend counts bytes; a literal target marks a clause's
first packet (R245). -/
def WordCtx.literalFix (x : WordCtx) (r : String × Int) : Except Nat Fix :=
  match (findSym x.syms r.1).map Sym.kind with
  | some (.code _ first) => if first then .ok ⟨4, r.1, 12 * r.2⟩ else .error 106
  | _ => .ok ⟨3, r.1, r.2⟩
/-- The immediate of an SI or VI word (R87).  DEDUCED: a label, or a label and an addend, stands for its final address or packet, in
a literal (log 52). -/
def WordCtx.imm (x : WordCtx) (k : Ext) (wide : Bool) (t : List Char) : Except Nat (Imm × List Fix) :=
  match x.value t with
  | .error c => .error c
  | .ok v =>
    match v.rel with
    | some r => (x.literalFix r).map fun f => (.lit 0, [f])
    | none =>
      let n := v.signed
      if k.short n then .ok (.short (BitVec.ofInt 10 n), [])
      else if k.long wide n then .ok (.lit (BitVec.ofInt 32 n), [])
      else .error 103
/-- A number in limits (OA103). -/
def WordCtx.within (x : WordCtx) (lo hi : Int) (t : List Char) : Except Nat Int :=
  match x.value t with
  | .error c => .error c
  | .ok v => if lo ≤ v.signed ∧ v.signed ≤ hi then .ok v.signed else .error 103

/-! ### Memory operands (R105, R177) -/

/-- The space that a memory operand names. -/
inductive MemSpace where
  | glob | pad | bank
  deriving DecidableEq, Repr

/-- A memory operand: space, base, offset vector, and the text of an immediate. -/
structure MemText where
  space : MemSpace
  base : SReg
  vec : Option VReg
  imm : Option (List Char)

/-- The text up to the first sign outside brackets, and the rest with its sign. -/
def untilSign : Nat → List Char → List Char × List Char
  | _, [] => ([], [])
  | d, c :: cs =>
    if d = 0 && (c == '+' || c == '-') then ([], c :: cs)
    else
      let p := untilSign (if c == '(' then d + 1 else if c == ')' then d - 1 else d) cs
      (c :: p.1, p.2)
/-- A signed rest as the text of an expression. -/
def restText (r : List Char) : Option (List Char) := if r.isEmpty then none else some ('0' :: r)
/-- The operand between the brackets. -/
def memInside (sp : MemSpace) (t : List Char) : Except Nat MemText :=
  let p := untilSign 0 t
  match sregOf (trim p.1) with
  | .error c => .error c
  | .ok b =>
    match p.2 with
    | '+' :: r =>
      let q := untilSign 0 r
      if isVreg (trim q.1) then (vregOf (trim q.1)).map fun v => ⟨sp, b, some v, restText q.2⟩
      else .ok ⟨sp, b, none, restText p.2⟩
    | r => .ok ⟨sp, b, none, restText r⟩
def memText (t : List Char) : Except Nat MemText :=
  match t, t.getLast? with
  | '[' :: cs, some ']' =>
    let inside := trim cs.dropLast
    match inside.head?.map lowerChar, (inside.drop 1).dropWhile isBlank with
    | some 'p', ':' :: r => memInside .pad (trim r)
    | some 'c', ':' :: r => memInside .bank (trim r)
    | _, _ => memInside .glob inside
  | _, _ => .error 102
/-- The lane offset of an M word: written in bytes, in voff where it is a multiple of the size and the quotient fits, else in a
literal (R177).  A label of a const or data section in a global word stands for its final address (log 52). -/
def WordCtx.offset (x : WordCtx) (z : Size) (m : MemText) : Except Nat (Off × List Fix) :=
  match m.imm with
  | none => .ok (match m.vec with | some v => .vec v | none => .imm 0, [])
  | some t =>
    match x.value t with
    | .error c => .error c
    | .ok v =>
      let n := v.signed
      let lit := fun (w : Word) => match m.vec with | some r => Off.vecLit r w | none => Off.lit w
      match v.rel.filter fun r => m.space == .glob && !x.isCode r.1 with
      | some r => .ok (lit 0, [⟨3, r.1, r.2⟩])
      | none =>
        match m.vec with
        | some r => if n = 0 then .ok (.vec r, []) else if Ext.sign.long true n then .ok (lit (BitVec.ofInt 32 n), []) else .error 103
        | none =>
          if n % sizeBytes z = 0 && decide (0 ≤ n / sizeBytes z ∧ n / sizeBytes z ≤ 63) then .ok (.imm (BitVec.ofInt 6 (n / sizeBytes z)), [])
          else if Ext.sign.long true n then .ok (lit (BitVec.ofInt 32 n), [])
          else .error 103
/-- A memory operand of a space. -/
def memOf (sp : MemSpace) (t : List Char) : Except Nat MemText :=
  match memText t with
  | .ok m => if m.space = sp then .ok m else .error 102
  | .error c => .error c
/-- A memory operand with a vector offset and no immediate (R177). -/
def vecOf (sp : MemSpace) (t : List Char) : Except Nat (SReg × VReg) :=
  match memOf sp t with
  | .ok ⟨_, b, some v, none⟩ => .ok (b, v)
  | .ok _ => .error 102
  | .error c => .error c
/-- An operand of the matrix array: a vector, or `[p: s]` (R215, R224). -/
def matText (t : List Char) : Except Nat MatSrc :=
  if isVreg t then (vregOf t).map .regs
  else
    match memText t with
    | .ok ⟨.pad, b, none, none⟩ => .ok (.pad b)
    | .ok _ => .error 102
    | .error c => .error c

/-! ### Selectors (Tables 4.2, 4.5, 4.7) -/

def selectorText (t : List Char) : Option Selector :=
  match str (lowerAll t) with
  | "status" => some .status
  | "skein" => some .skein
  | "panel" => some .panel
  | "panel.x" => some .panelX
  | "panel.y" => some .panelY
  | "panel.z" => some .panelZ
  | "core" => some .core
  | "launch" => some .launch
  | "world" => some .world
  | "gangs" => some .gangs
  | "region" => some .region
  | "batch" => some .batch
  | "cycles" => some .cycles
  | "grid.x" => some .gridX
  | "grid.y" => some .gridY
  | "grid.z" => some .gridZ
  | "skeins" => some .skeins
  | "seed" => some .seed
  | "ctrbase" => some .ctrbase
  | "cbank" => some .cbank
  | "scratch" => some .scratch
  | "accs" => some .accs
  | _ => none
def sysRegText (t : List Char) : Option SysReg :=
  match str (lowerAll t) with
  | "trapcause" => some .trapcause
  | "trappc" => some .trappc
  | "trapaddr" => some .trapaddr
  | "trapbase" => some .trapbase
  | "halted" => some .halted
  | "trapq" => some .trapq
  | "haltreq" => some .haltreq
  | "tscratch0" => some (.tscratch 0)
  | "tscratch1" => some (.tscratch 1)
  | "tscratch2" => some (.tscratch 2)
  | "tscratch3" => some (.tscratch 3)
  | "errpost" => some .errpost
  | _ => none
/-- The last numbers of a dotted selector name, such as those of `accession.3.0`. -/
def dotted (t : List Char) : List (List Char) := splitAt1 '.' t
def smallNo (t : List Char) : Option Nat := match t with | [] => none | _ => if t.all Char.isDigit then digitsOf 10 t 0 else none
def xselText (t : List Char) : Option XSel :=
  let l := lowerAll t
  match vregOf l, sregOf l, lettered 'f' l with
  | .ok v, _, _ => some (.v v)
  | _, .ok s, _ => some (.s s)
  | _, _, some n => if h : n < 12 then some (.f ⟨n, h⟩) else none
  | _, _, none =>
    match dotted l with
    | [['p', 'c', n]] => (smallNo [n]).bind fun k => if k ≤ 7 then some (.pc (BitVec.ofNat 3 k)) else none
    | [a, i, w] =>
      match str a, smallNo i, smallNo w with
      | "accession", some i, some w =>
        if i ≤ 15 && w ≤ 3 then some (.accession (BitVec.ofNat 4 i) (BitVec.ofNat 2 w)) else none
      | "oplog", some e, some w => if e ≤ 3 && w ≤ 3 then some (.oplog (BitVec.ofNat 2 e) (BitVec.ofNat 2 w)) else none
      | _, _, _ => none
    | _ =>
      match str l with
      | "pending" => some .pending
      | "gangmap" => some .gangmap
      | "exited" => some .exited
      | "pattern.a" => some .patternA
      | "pattern.b" => some .patternB
      | "meldopen" => some .meldopen
      | "region.pc" => some .regionPc
      | "region.count" => some .regionCount
      | "stop" => some .stop
      | "status" => some .status
      | "batchstate" => some .batchstate
      | _ => none
/-- The register of an `XREAD` or `XWRITE`: a vector for a vector selector, a scalar otherwise (R333, Table 4.7). -/
def xreg (sel : XSel) (t : List Char) : Except Nat (BitVec 6) :=
  match sel with
  | .v _ | .oplog _ _ => vregOf t
  | _ => sregOf t

/-! ### Forms -/

/-- How the operands of a word are written, with what they make. -/
inductive Form where
  | bare (i : Instr)
  | jump (f : BitVec 15 → Instr)
  | sjump (f : SReg → BitVec 15 → Instr)
  | oneS (f : SReg → Instr)
  | ss (f : SReg → SReg → Instr)
  | sss (f : SReg → SReg → SReg → Instr)
  | sssImm (f : SReg → SReg → SReg → Instr) (k : Ext) (g : SReg → SReg → Imm → Instr)
  | sssShift (f : SReg → SReg → SReg → Instr) (g : SReg → SReg → BitVec 6 → Instr)
  | drop
  | smovi | slui | sget | sput
  | vvx (f : VReg → VReg → VSrc → Instr)
  | vvxImm (f : VReg → VReg → VSrc → Instr) (k : Ext) (g : VReg → VReg → Imm → Instr)
  | vvxShift (f : VReg → VReg → VSrc → Instr) (g : VReg → VReg → BitVec 5 → Instr)
  | vvxFlag (f : VReg → VReg → VSrc → Bool → Instr)
  | vvFlag (f : VReg → VReg → Bool → Instr)
  | vImm
  | vx (f : VReg → VSrc → Instr)
  | oneV (f : VReg → Instr)
  | vv (f : VReg → VReg → Instr)
  | vvs (f : VReg → VReg → SReg → Instr)
  | vvv (f : VReg → VReg → VReg → Instr)
  | vvvv (f : VReg → VReg → VReg → VReg → Instr)
  | ordered (falls : Bool) (f : VReg → VReg → VReg → VReg → Instr)
  | svx (f : SReg → VReg → VSrc → Instr)
  | sv (f : SReg → VReg → Instr)
  | ssv (f : SReg → SReg → VReg → Instr)
  | chk | trap
  | mem (sp : MemSpace) (z : Size) (f : VReg → SReg → Off → Bool → Instr)
  | atom (sp : MemSpace) (f : VReg → SReg → VReg → Bool → Instr)
  | redbv | ldtol
  | pref (f : SReg → VReg → Instr)
  | mmat (f : SReg → BitVec 2 → MatSrc → MatSrc → SReg → SReg → SReg → Instr)
  | mzero | mload
  | mdrain (f : DrainFmt) (t : DrainTgt)
  | sysr | sysw | xread | xwrite | xresume

/-- The value where there is no suffix. -/
def only (sfx : List String) (f : Form) : Option Form := if sfx.isEmpty then some f else none
/-- A `.w` operation; the suffix may be left out. -/
def wOnly (sfx : List String) (f : Form) : Option Form := if sfx.isEmpty || sfx == ["w"] then some f else none
/-- An element type; none is `.w`. -/
def typed (sfx : List String) (f : ElemTy → Form) : Option Form :=
  match sfx with
  | [] | ["w"] => some (f .w)
  | ["h2"] => some (f .h2)
  | ["b4"] => some (f .b4)
  | _ => none
/-- An operation with an element type and an immediate form of `.w`. -/
def typedImm (sfx : List String) (f : ElemTy → VReg → VReg → VSrc → Instr) (k : Ext) (g : VReg → VReg → Imm → Instr) : Option Form :=
  typed sfx fun t => if t == .w then .vvxImm (f t) k g else .vvx (f t)
def typedShift (sfx : List String) (f : ElemTy → VReg → VReg → VSrc → Instr) (g : VReg → VReg → BitVec 5 → Instr) : Option Form :=
  typed sfx fun t => if t == .w then .vvxShift (f t) g else .vvx (f t)
def sizeOf : String → Option Size
  | "b" => some .b
  | "h" => some .h
  | "w" => some .w
  | "d" => some .d
  | _ => none
/-- Suffixes with a size at their end taken off; `.w` is the default (R177). -/
def sized (sfx : List String) : List String × Size :=
  match sfx.getLast?.bind sizeOf with
  | some z => (sfx.dropLast, z)
  | none => (sfx, .w)
def scopeOf : String → Option Scope
  | "core" => some .core
  | "quad" => some .quad
  | "die" => some .die
  | "pkg" => some .pkg
  | "pod" => some .pod
  | _ => none
def condOf : String → Option Cond
  | "eq" => some .eq
  | "ne" => some .ne
  | "lt" => some .lt
  | "le" => some .le
  | "gt" => some .gt
  | "ge" => some .ge
  | _ => none
def fcondOf : String → Option FCond
  | "eq" => some .eq
  | "ne" => some .ne
  | "lt" => some .lt
  | "le" => some .le
  | "gt" => some .gt
  | "ge" => some .ge
  | "ord" => some .ord
  | "un" => some .un
  | _ => none
def redOf : String → Option RedOp
  | "add" => some .add
  | "and" => some .and
  | "or" => some .or
  | "xor" => some .xor
  | "min" => some .min
  | "max" => some .max
  | "minu" => some .minu
  | "maxu" => some .maxu
  | "addf" => some .addf
  | "minf" => some .minf
  | "maxf" => some .maxf
  | "addd" => some .addd
  | _ => none
def elemOf : String → Option ElemFmt
  | "f32" => some .f32
  | "f64" => some .f64
  | "f16" => some .f16
  | "bf16" => some .bf16
  | "e4m3" => some .e4m3
  | "e5m2" => some .e5m2
  | "e2m1" => some .e2m1
  | "int8" => some .int8
  | "int4" => some .int4
  | "int16" => some .int16
  | "int32" => some .int32
  | "uint8" => some .uint8
  | "uint16" => some .uint16
  | "uint32" => some .uint32
  | "int64" => some .int64
  | _ => none
def modOf : List String → Option CvtMod
  | [] => some .rm
  | ["rne"] => some .rne
  | ["rz"] => some .rz
  | ["rup"] => some .rup
  | ["rdn"] => some .rdn
  | ["sat"] => some .sat
  | ["rne", "sat"] => some .rneSat
  | ["rz", "sat"] => some .rzSat
  | _ => none
def blockOf : String → Option BlockFmt
  | "dbx8" => some .dbx8
  | "dbx4" => some .dbx4
  | "mxfp8e4" => some .mxfp8e4
  | "mxfp8e5" => some .mxfp8e5
  | "mxfp4" => some .mxfp4
  | "mxint8" => some .mxint8
  | _ => none
def atomOf : String → Option AtomOp
  | "add" => some .add
  | "addf" => some .addf
  | "min" => some .min
  | "max" => some .max
  | "minu" => some .minu
  | "maxu" => some .maxu
  | "and" => some .and
  | "or" => some .or
  | "xor" => some .xor
  | "xchg" => some .xchg
  | "cas" => some .cas
  | _ => none
def semOf : String → Option Sem
  | "acq" => some .acq
  | "rel" => some .rel
  | "ar" => some .ar
  | _ => none
def drainOf : String → Option DrainFmt
  | "f32" => some .f32
  | "bf16" => some .bf16
  | "mxfp8e4" => some .mxfp8e4
  | "mxfp8e5" => some .mxfp8e5
  | "mxfp4" => some .mxfp4
  | "dbx8" => some .dbx8
  | "dbx4" => some .dbx4
  | _ => none
def tgtOf : String → Option DrainTgt
  | "r" => some .regs
  | "p" => some .pad
  | "g" => some .glob
  | _ => none
def kindOf : String → Option CollKind
  | "allreduce" => some .allreduce
  | "allgather" => some .allgather
  | "redscat" => some .redscat
  | "alltoall" => some .alltoall
  | _ => none
/-- Reductions of a collective, by the names of Table 3.19. -/
def ropOf : String → Option CollOp
  | "add" => some .addi
  | "addf" => some .addf
  | "addd" => some .addd
  | "min" => some .mini
  | "max" => some .maxi
  | "minf" => some .minf
  | "maxf" => some .maxf
  | _ => none
def collScopeOf : String → Option CollScope
  | "die" => some .die
  | "pkg" => some .pkg
  | "pod" => some .pod
  | _ => none
def digit7 (t : String) : Option (BitVec 3) :=
  match t.toList with
  | [c] => (smallNo [c]).bind fun n => if n ≤ 7 then some (BitVec.ofNat 3 n) else none
  | _ => none
/-- A level of the cache. -/
def levelOf (far : String) (t : String) : Option Bool := if t = "l1" then some false else if t = far then some true else none
/-- A conversion by its suffixes. -/
def cvtForm (sfx : List String) (f : ElemFmt → ElemFmt → CvtMod → VReg → VReg → Instr) : Option Form :=
  match sfx with
  | d :: s :: m =>
    match elemOf d, elemOf s, modOf m with
    | some d, some s, some m => some (.vv (f d s m))
    | _, _, _ => none
  | _ => none
/-- An atomic by its operation and width. -/
def atomForm (sp : MemSpace) (sfx : List String) (f : AtomOp → Bool → VReg → SReg → VReg → Bool → Instr) : Option Form :=
  match sized sfx with
  | ([o], .w) => (atomOf o).map fun o => .atom sp (f o false)
  | ([o], .d) => (atomOf o).map fun o => .atom sp (f o true)
  | _ => none
/-- One suffix that a table of names reads. -/
def named {α : Type} (sfx : List String) (g : String → Option α) (f : α → Form) : Option Form :=
  match sfx with
  | [x] => (g x).map f
  | _ => none

/-- Control and scalar words (Tables 3.6 to 3.8, R94). -/
def scalarForm (name : String) (sfx : List String) : Option Form :=
  match name with
  | "nop" => only sfx (.bare .nop)
  | "bra" => only sfx (.jump .bra)
  | "bru" =>
    match sfx with
    | ["z"] => some (.sjump .bruZ)
    | ["nz"] => some (.sjump .bruNz)
    | ["neg"] => some (.sjump .bruNeg)
    | ["nneg"] => some (.sjump .bruNneg)
    | _ => none
  | "bruv" => only sfx (.sjump .bruv)
  | "brs" => only sfx (.sjump .brs)
  | "brzm" => only sfx (.sjump .brzm)
  | "call" => only sfx (.jump .call)
  | "ret" => only sfx (.bare .ret)
  | "jmpi" => only sfx (.oneS .jmpi)
  | "exit" => only sfx (.bare .exit)
  | "yield" => only sfx (.bare .yield)
  | "split" => only sfx (.oneS .split)
  | "regang" => only sfx (.oneS .regang)
  | "meld" => only sfx (.oneS .meld)
  | "meldx" => only sfx (.bare .meldx)
  | "region" => only sfx (.bare .region)
  | "vdrop" => only sfx .drop
  | "sadd" => only sfx (.sssImm .sadd .sign .saddI)
  | "ssub" => only sfx (.sss .ssub)
  | "smul" => only sfx (.sss .smul)
  | "smulh" => only sfx (.sss .smulh)
  | "smulhu" => only sfx (.sss .smulhu)
  | "sdiv" => only sfx (.sss .sdiv)
  | "sdivu" => only sfx (.sss .sdivu)
  | "srem" => only sfx (.sss .srem)
  | "sremu" => only sfx (.sss .sremu)
  | "sand" => only sfx (.sssImm .sand .zero .sandI)
  | "sor" => only sfx (.sssImm .sor .zero .sorI)
  | "sxor" => only sfx (.sssImm .sxor .zero .sxorI)
  | "sandn" => only sfx (.sss .sandn)
  | "sshl" => only sfx (.sssShift .sshl .sshlI)
  | "sshr" => only sfx (.sssShift .sshr .sshrI)
  | "ssra" => only sfx (.sssShift .ssra .ssraI)
  | "smin" => only sfx (.sss .smin)
  | "smax" => only sfx (.sss .smax)
  | "sminu" => only sfx (.sss .sminu)
  | "smaxu" => only sfx (.sss .smaxu)
  | "scmp" =>
    match sfx with
    | ["eq"] => some (.sssImm .scmpEq .sign .scmpEqI)
    | ["ne"] => some (.sssImm .scmpNe .sign .scmpNeI)
    | ["lt"] => some (.sssImm .scmpLt .sign .scmpLtI)
    | ["le"] => some (.sssImm .scmpLe .sign .scmpLeI)
    | ["ltu"] => some (.sssImm .scmpLtu .sign .scmpLtuI)
    | ["leu"] => some (.sssImm .scmpLeu .sign .scmpLeuI)
    | _ => none
  | "ssel" => only sfx (.sss .ssel)
  | "spopc" => only sfx (.ss .spopc)
  | "sclz" => only sfx (.ss .sclz)
  | "sctz" => only sfx (.ss .sctz)
  | "sbfe" => only sfx (.sss .sbfe)
  | "sbfi" => only sfx (.sss .sbfi)
  | "smovi" => only sfx .smovi
  | "slui" => only sfx .slui
  | "smov" => only sfx (.ss .smov)
  | "sget" => only sfx .sget
  | "sput" => only sfx .sput
  | "chk" => only sfx .chk
  | "ptst" => only sfx (.sv .ptst)
  | "trap" => only sfx .trap
  | "dbrk" => only sfx (.bare .dbrk)
  | "fwait" => only sfx (.oneS .fwait)
  | "ftest" => only sfx (.ss .ftest)
  | "fcancel" => only sfx (.oneS .fcancel)
  | "sysr" => only sfx .sysr
  | "sysw" => only sfx .sysw
  | "rft" => only sfx (.bare .rft)
  | "xread" => only sfx .xread
  | "xwrite" => only sfx .xwrite
  | "xresume" => only sfx .xresume
  | _ => none
/-- Vector words (R95 to R103). -/
def vectorForm (name : String) (sfx : List String) : Option Form :=
  match name with
  | "vadd" => typedImm sfx .vadd .sign .vaddI
  | "vsub" => typed sfx fun t => .vvx (.vsub t)
  | "vmul" => typedImm sfx .vmul .sign .vmulI
  | "vmulh" => typed sfx fun t => .vvx (.vmulh t)
  | "vmulhu" => typed sfx fun t => .vvx (.vmulhu t)
  | "vand" => wOnly sfx (.vvxImm .vand .zero .vandI)
  | "vor" => wOnly sfx (.vvxImm .vor .zero .vorI)
  | "vxor" => wOnly sfx (.vvxImm .vxor .zero .vxorI)
  | "vandn" => wOnly sfx (.vvx .vandn)
  | "vshl" => typedShift sfx .vshl .vshlI
  | "vshr" => typedShift sfx .vshr .vshrI
  | "vsra" => typedShift sfx .vsra .vsraI
  | "vmin" => typedImm sfx .vmin .sign .vminI
  | "vmax" => typedImm sfx .vmax .sign .vmaxI
  | "vminu" => typedImm sfx .vminu .zero .vminuI
  | "vmaxu" => typedImm sfx .vmaxu .zero .vmaxuI
  | "vabsd" => typed sfx fun t => .vvx (.vabsd t)
  | "vaddsat" => typed sfx fun t => .vvx (.vaddsat t)
  | "vsubsat" => typed sfx fun t => .vvx (.vsubsat t)
  | "vpopc" => typed sfx fun t => .vv (.vpopc t)
  | "vclz" => typed sfx fun t => .vv (.vclz t)
  | "vbfe" => wOnly sfx (.vvx .vbfe)
  | "vbfi" => wOnly sfx (.vvx .vbfi)
  | "vmov" => wOnly sfx (.vx .vmov)
  | "vidx" => wOnly sfx (.oneV .vidx)
  | "vmovi" => wOnly sfx .vImm
  | "vfadd" => only sfx (.vvx .vfadd)
  | "vfsub" => only sfx (.vvx .vfsub)
  | "vfmul" => only sfx (.vvx .vfmul)
  | "vfmin" => only sfx (.vvx .vfmin)
  | "vfmax" => only sfx (.vvx .vfmax)
  | "vfabs" => only sfx (.vv .vfabs)
  | "vfneg" => only sfx (.vv .vfneg)
  | "vfclass" => only sfx (.vv .vfclass)
  | "vfscale" => only sfx (.vvx .vfscale)
  | "vfrint" => only sfx (.vv .vfrint)
  | "vfma" => only sfx (.vvvv .vfma)
  | "vfms" => only sfx (.ordered false .vfms)
  | "vfnma" => only sfx (.ordered true .vfnma)
  | "vmad" => only sfx (.vvvv .vmad)
  | "vaddmin" => only sfx (.ordered false .vaddmin)
  | "vfaddmin" => only sfx (.ordered true .vfaddmin)
  | "vdadd" => only sfx (.vvx .vdadd)
  | "vdmul" => only sfx (.vvx .vdmul)
  | "vdfma" => only sfx (.vvx .vdfma)
  | "vcadd" => only sfx (.vvx .vcadd)
  | "vcmul" => only sfx (.vvx .vcmul)
  | "vcfma" => only sfx (.vvx .vcfma)
  | "vfdiv" => only sfx (.vvxFlag .vfdiv)
  | "vfsqrt" => only sfx (.vvFlag .vfsqrt)
  | "vexp2" => only sfx (.vvFlag .vexp2)
  | "vlog2" => only sfx (.vvFlag .vlog2)
  | "vrcp" => only sfx (.vvFlag .vrcp)
  | "vrsq" => only sfx (.vvFlag .vrsq)
  | "vsinp" => only sfx (.vvFlag .vsinp)
  | "vcosp" => only sfx (.vvFlag .vcosp)
  | "vrng" => only sfx (.vvFlag .vrng)
  | "vshup" => only sfx (.vvs .vshup)
  | "vshdn" => only sfx (.vvs .vshdn)
  | "vrot" => only sfx (.vvs .vrot)
  | "vperm" => only sfx (.vvv .vperm)
  | "vbcast" => only sfx (.vvs .vbcast)
  | "vred" => named sfx redOf fun o => .vv (.vred o)
  | "vscan" => named sfx redOf fun o => .vv (.vscan o)
  | "vcvt" => cvtForm sfx .vcvt
  | "vpack" => cvtForm sfx .vpack
  | "vunpk" => cvtForm sfx .vunpk
  | "vqdbx" => named sfx blockOf fun b => .vv (.vqdbx b)
  | "vdqdbx" => named sfx blockOf fun b => .vv (.vdqdbx b)
  | "vcmp" => named sfx condOf fun k => .svx (.vcmp k)
  | "vcmpu" => named sfx condOf fun k => .svx (.vcmpu k)
  | "vfcmp" => named sfx fcondOf fun k => .svx (.vfcmp k)
  | "vsel" => only sfx (.vvs .vsel)
  | _ => none
/-- Memory, copy, matrix and engine words (R105 to R112). -/
def memoryForm (name : String) (sfx : List String) : Option Form :=
  match name with
  | "ld" =>
    let z := (sized sfx).2
    match (sized sfx).1 with
    | [] => some (.mem .glob z (.ld z))
    | ["spec"] => some (.mem .glob z (.ldSpec z))
    | ["byp"] => some (.mem .glob z (.ldByp z))
    | ["acq", "core"] => some (.mem .glob z (.ldAcqCore z))
    | ["acq", "quad"] => some (.mem .glob z (.ldAcqQuad z))
    | ["acq", "die"] => some (.mem .glob z (.ldAcqDie z))
    | ["acq", "pkg"] => some (.mem .glob z (.ldAcqPkg z))
    | ["acq", "pod"] => some (.mem .glob z (.ldAcqPod z))
    | _ => none
  | "st" =>
    let z := (sized sfx).2
    match (sized sfx).1 with
    | [] => some (.mem .glob z (.st z))
    | ["rel", "core"] => some (.mem .glob z (.stRelCore z))
    | ["rel", "quad"] => some (.mem .glob z (.stRelQuad z))
    | ["rel", "die"] => some (.mem .glob z (.stRelDie z))
    | ["rel", "pkg"] => some (.mem .glob z (.stRelPkg z))
    | ["rel", "pod"] => some (.mem .glob z (.stRelPod z))
    | _ => none
  | "ldp" =>
    let z := (sized sfx).2
    match (sized sfx).1 with
    | [] => some (.mem .pad z (.ldp z))
    | ["spec"] => some (.mem .pad z (.ldpSpec z))
    | _ => none
  | "stp" => let z := (sized sfx).2; only (sized sfx).1 (.mem .pad z (.stp z))
  | "ldc" => let z := (sized sfx).2; only (sized sfx).1 (.mem .bank z (.ldc z))
  | "atom" => atomForm .glob sfx .atom
  | "atomp" => atomForm .pad sfx .atomp
  | "red" => atomForm .glob sfx .red
  | "redbv" => only sfx .redbv
  | "ldtol" => only sfx .ldtol
  | "fence" =>
    match sfx with
    | [m, p] =>
      match semOf m, scopeOf p with
      | some m, some p => some (.bare (.fence m p))
      | _, _ => none
    | _ => none
  | "cflush" => named sfx (levelOf "mem") fun m => .sss (.cflush m)
  | "cinv" => named sfx (levelOf "mem") fun m => .sss (.cinv m)
  | "pref" => named sfx (levelOf "l2") fun m => .pref (.pref m)
  | "bari" => named sfx scopeOf fun p => .ss (.bari p)
  | "bara" => named sfx scopeOf fun p => .oneS (.bara p)
  | "barw" => named sfx scopeOf fun p => .ss (.barw p)
  | "bar" => named sfx scopeOf fun p => .oneS (.bar p)
  | "bexp" => named sfx scopeOf fun p => .ss (.bexp p)
  | "waitm" => only sfx (.ss .waitm)
  | "cpy" =>
    match sfx with
    | ["g2p"] => some (.sss (.cpy .g2p))
    | ["p2g"] => some (.sss (.cpy .p2g))
    | ["g2g"] => some (.sss (.cpy .g2g))
    | ["p2p"] => some (.sss (.cpy .p2p))
    | ["spl", n] => (digit7 n).map fun n => .ss (.cpySpl n)
    | _ => none
  | "cpyg" => named sfx sizeOf fun z => .ssv (.cpyg z)
  | "seal" => only sfx (.oneS .seal)
  | "waitb" => only sfx (.oneS .waitb)
  | "splcfg" => named sfx digit7 fun n => .oneS (.splcfg n)
  | "splget" => named sfx digit7 fun n => .oneS (.splget n)
  | "splrel" => named sfx digit7 fun n => .bare (.splrel n)
  | "mmat" =>
    match sfx with
    | ["s"] => some (.mmat .mmatS)
    | ["pair"] => some (.mmat .mmatPair)
    | _ => none
  | "mzero" => only sfx .mzero
  | "mload" => only sfx .mload
  | "mdrain" =>
    match sfx with
    | [f, t] =>
      match drainOf f, tgtOf t with
      | some f, some t => some (.mdrain f t)
      | _, _ => none
    | _ => none
  | "coll" =>
    match sfx with
    | [k, p] =>
      match kindOf k, collScopeOf p with
      | some k, some p => some (.ss (.coll k .addi p))
      | _, _ => none
    | [k, r, p] =>
      match kindOf k, ropOf r, collScopeOf p with
      | some k, some r, some p => if k.reduces then some (.ss (.coll k r p)) else none
      | _, _, _ => none
    | _ => none
  | "cseal" => only sfx (.ss .cseal)
  | "copen" => only sfx (.ss .copen)
  | _ => none
/-- The form of a mnemonic with its suffixes; none is OA101. -/
def formOf (mn : List Char) : Option Form :=
  match (splitAt1 '.' (lowerAll mn)).map str with
  | name :: sfx => (scalarForm name sfx).or ((vectorForm name sfx).or (memoryForm name sfx))
  | [] => none

/-! ### Reading a word -/

/-- What a word is, with what relocation has to fill in. -/
abbrev Read := Except Nat (Instr × List Fix)
def read1 {α : Type} (a : Except Nat α) (f : α → Instr) : Read := a.map fun a => (f a, [])
def read2 {α β : Type} (a : Except Nat α) (b : Except Nat β) (f : α → β → Instr) : Read :=
  match a, b with
  | .ok a, .ok b => .ok (f a b, [])
  | .error c, _ | _, .error c => .error c
def read3 {α β γ : Type} (a : Except Nat α) (b : Except Nat β) (c : Except Nat γ) (f : α → β → γ → Instr) : Read :=
  match a, b, c with
  | .ok a, .ok b, .ok c => .ok (f a b c, [])
  | .error e, _, _ | _, .error e, _ | _, _, .error e => .error e
def read4 {α β γ δ : Type} (a : Except Nat α) (b : Except Nat β) (c : Except Nat γ) (d : Except Nat δ) (f : α → β → γ → δ → Instr) :
    Read :=
  match a, b, c, d with
  | .ok a, .ok b, .ok c, .ok d => .ok (f a b c d, [])
  | .error e, _, _, _ | _, .error e, _, _ | _, _, .error e, _ | _, _, _, .error e => .error e
/-- The offset of a branch to a label (R245): OA106 where that marks no clause's first packet, or lies too far.  Trap code follows
the code (R377), and a branch between the two is relocated. -/
def WordCtx.target (x : WordCtx) (t : List Char) : Except Nat (BitVec 15 × List Fix) :=
  if t.all isName && !t.isEmpty && !(t.headD ' ').isDigit then
    match findSym x.syms (str t) with
    | some ⟨n, .code trap true, v⟩ =>
      let d : Int := (v + (if trap then x.codePackets else 0) : Nat) - (x.packet + (if x.trap then x.codePackets else 0) : Nat)
      if -16384 ≤ d ∧ d ≤ 16383 then .ok (BitVec.ofInt 15 d, if trap == x.trap then [] else [⟨1, n, 0⟩]) else .error 106
    | some _ => .error 106
    | none => if x.equs.any fun e => e.1 == str t then .error 106 else .error 104
  else .error 102
/-- A word with an immediate in place of its last operand. -/
def readImm (a : Except Nat (BitVec 6)) (b : Except Nat (BitVec 6)) (i : Except Nat (Imm × List Fix))
    (f : BitVec 6 → BitVec 6 → Imm → Instr) : Read :=
  match a, b, i with
  | .ok a, .ok b, .ok i => .ok (f a b i.1, i.2)
  | .error e, _, _ | _, .error e, _ | _, _, .error e => .error e
/-- The four registers of a `VDROP`; a shorter list repeats its last (R91). -/
def dropRegs (ops : List (List Char)) : Read :=
  match ops.mapM vregOf with
  | .error c => .error c
  | .ok [a] => .ok (.vdrop a a a a, [])
  | .ok [a, b] => .ok (.vdrop a b b b, [])
  | .ok [a, b, c] => .ok (.vdrop a b c c, [])
  | .ok [a, b, c, d] => .ok (.vdrop a b c d, [])
  | .ok _ => .error 102
/-- The tolerance of an `LDTOL` (R107). -/
def WordCtx.tol (x : WordCtx) (b : SReg) (t : List Char) : Except Nat (BitVec 6) :=
  if isSreg t then
    match sregOf t with
    | .ok s => if s = b + 1 then .ok 32 else .error 102
    | .error c => .error c
  else (x.within (-31) 31 t).map (BitVec.ofInt 6)
/-- Read the operands of a form that takes no flag. -/
def Form.plain (x : WordCtx) (f : Form) (ops : List (List Char)) : Read :=
  match f, ops with
  | .bare i, [] => .ok (i, [])
  | .jump g, [t] => (x.target t).map fun p => (g p.1, p.2)
  | .sjump g, [a, t] =>
    match sregOf a, x.target t with
    | .ok a, .ok p => .ok (g a p.1, p.2)
    | .error c, _ | _, .error c => .error c
  | .oneS g, [a] => read1 (sregOf a) g
  | .ss g, [a, b] => read2 (sregOf a) (sregOf b) g
  | .sss g, [a, b, c] => read3 (sregOf a) (sregOf b) (sregOf c) g
  | .sssImm g k h, [a, b, c] =>
    if isSreg c then read3 (sregOf a) (sregOf b) (sregOf c) g else readImm (sregOf a) (sregOf b) (x.imm k true c) h
  | .sssShift g h, [a, b, c] =>
    if isSreg c then read3 (sregOf a) (sregOf b) (sregOf c) g
    else read3 (sregOf a) (sregOf b) (x.within 0 63 c) fun a b n => h a b (BitVec.ofInt 6 n)
  | .drop, _ => dropRegs ops
  | .smovi, [a, t] => read2 (sregOf a) (x.within (-131072) 131071 t) fun a n => .smovi a (BitVec.ofInt 18 n)
  | .slui, [a, t] =>
    match sregOf a, x.value t with
    | .ok a, .ok v =>
      match v.rel with
      | some r => .ok (.slui a 0, [⟨2, r.1, r.2⟩])
      | none => if 0 ≤ v.signed ∧ v.signed ≤ 262143 then .ok (.slui a (BitVec.ofInt 18 v.signed), []) else .error 103
    | .error c, _ | _, .error c => .error c
  | .sget, [a, t] =>
    match selectorText t with
    | some sel => read1 (sregOf a) fun a => .sget a sel
    | none => .error 102
  | .sput, [t, a] => if selectorText t = some .status then read1 (sregOf a) .sput else .error 102
  | .vvx g, [a, b, c] => read3 (vregOf a) (vregOf b) (vsrcText c) g
  | .vvxImm g k h, [a, b, c] =>
    if isSreg c || isVreg c then read3 (vregOf a) (vregOf b) (vsrcText c) g else readImm (vregOf a) (vregOf b) (x.imm k false c) h
  | .vvxShift g h, [a, b, c] =>
    if isSreg c || isVreg c then read3 (vregOf a) (vregOf b) (vsrcText c) g
    else read3 (vregOf a) (vregOf b) (x.within 0 31 c) fun a b n => h a b (BitVec.ofInt 5 n)
  | .vImm, [a, t] => readImm (vregOf a) (.ok 0) (x.imm .sign false t) fun a _ i => .vmovi a i
  | .vx g, [a, b] => read2 (vregOf a) (vsrcText b) g
  | .oneV g, [a] => read1 (vregOf a) g
  | .vv g, [a, b] => read2 (vregOf a) (vregOf b) g
  | .vvs g, [a, b, c] => read3 (vregOf a) (vregOf b) (sregOf c) g
  | .vvv g, [a, b, c] => read3 (vregOf a) (vregOf b) (vregOf c) g
  | .vvvv g, [a, b, c, d] => read4 (vregOf a) (vregOf b) (vregOf c) (vregOf d) g
  | .ordered falls g, [a, b, c, d] =>
    match vregOf a, vregOf b, vregOf c, vregOf d with
    | .ok a, .ok b, .ok c, .ok d =>
      if falls && b == c then .error 119
      else if falls == decide (c.toNat < b.toNat) then .ok (g a b c d, [])
      else .ok (g a c b d, [])
    | .error e, _, _, _ | _, .error e, _, _ | _, _, .error e, _ | _, _, _, .error e => .error e
  | .svx g, [a, b, c] => read3 (sregOf a) (vregOf b) (vsrcText c) g
  | .sv g, [a, b] => read2 (sregOf a) (vregOf b) g
  | .ssv g, [a, b, c] => read3 (sregOf a) (sregOf b) (vregOf c) g
  | .chk, [a] => if isSreg a then read1 (sregOf a) .chkScalar else read1 (vregOf a) .chk
  | .trap, [t] => read1 (x.within 0 4095 t) fun n => .trap (BitVec.ofInt 12 n)
  | .redbv, [a, m] => read2 (vregOf a) (vecOf .glob m) fun a p => .redbv a p.1 p.2
  | .pref g, [m] => read1 (vecOf .glob m) fun p => g p.1 p.2
  | .mmat g, [d, acc, a, b, da, db, k] =>
    match sregOf d, accRegOf acc, matText a, matText b with
    | .ok d, .ok acc, .ok a, .ok b => read3 (sregOf da) (sregOf db) (sregOf k) (g d acc a b)
    | .error e, _, _, _ | _, .error e, _, _ | _, _, .error e, _ | _, _, _, .error e => .error e
  | .mzero, [a] => read1 (accRegOf a) .mzero
  | .sysr, [a, t] =>
    match sysRegText t with
    | some r => read1 (sregOf a) fun a => .sysr a r
    | none => .error 102
  | .sysw, [t, a] =>
    match sysRegText t with
    | some r => read1 (sregOf a) fun a => .sysw r a
    | none => .error 102
  | .xread, [a, s, t] =>
    match xselText t with
    | some sel => read2 (xreg sel a) (sregOf s) fun a s => .xread a s sel
    | none => .error 102
  | .xwrite, [t, s, a] =>
    match xselText t with
    | some sel => read2 (xreg sel a) (sregOf s) fun a s => .xwrite sel s a
    | none => .error 102
  | .xresume, [s, t] =>
    if lowerAll t == ['e', 'n', 't', 'r', 'y'] then read1 (sregOf s) .xresumeEntry
    else
      match keyed ['p', 'c'] t with
      | some p => read2 (sregOf s) (sregOf p) .xresumePc
      | none => .error 102
  | _, _ => .error 102
/-- The operands of a drain after its accumulator, by format and target (R225 to R227). -/
def drainText (f : DrainFmt) (t : DrainTgt) (acc : BitVec 2) (fs : Bool) (ops : List (List Char)) : Read :=
  let reg := fun (o : List Char) => if t == .regs then vregOf o else sregOf o
  match f.quant, t == .regs, ops with
  | false, true, [d] => read1 (reg d) fun d => .mdrain f t acc d 0 0 fs
  | true, true, [d, sc] => read2 (reg d) (reg sc) fun d sc => .mdrain f t acc d sc 0 fs
  | false, false, [d, sp] => read2 (reg d) (sregOf sp) fun d sp => .mdrain f t acc d 0 sp fs
  | true, false, [d, sc, sp] => read3 (reg d) (reg sc) (sregOf sp) fun d sc sp => .mdrain f t acc d sc sp fs
  | _, _, _ => .error 102
/-- Read the operands of a form that selects a flag; a form that does not takes none. -/
def Form.read (x : WordCtx) (f : Form) (ops : List (List Char)) : Read :=
  match x.flag ops with
  | .error c => .error c
  | .ok (rest, fs) =>
    match f, rest with
    | .vvxFlag g, [a, b, c] => read3 (vregOf a) (vregOf b) (vsrcText c) fun a b c => g a b c fs
    | .vvFlag g, [a, b] => read2 (vregOf a) (vregOf b) fun a b => g a b fs
    | .mem sp z g, [a, m] =>
      match vregOf a, memOf sp m with
      | .ok a, .ok m => (x.offset z m).map fun p => (g a m.base p.1 fs, p.2)
      | .error c, _ | _, .error c => .error c
    | .atom sp g, [a, m] => read2 (vregOf a) (vecOf sp m) fun a p => g a p.1 p.2 fs
    | .ldtol, [a, m, t] =>
      match vregOf a, vecOf .glob m, keyed ['t', 'o', 'l'] t with
      | .ok a, .ok p, some t => read1 (x.tol p.1 t) fun k => .ldtol k a p.1 p.2 fs
      | .error c, _, _ | _, .error c, _ => .error c
      | _, _, none => .error 102
    | .mload, [acc, m] => read2 (accRegOf acc) (matText m) fun acc m => .mload acc m fs
    | .mdrain k t, acc :: r =>
      match accRegOf acc with
      | .ok acc => drainText k t acc fs r
      | .error c => .error c
    | f, _ => f.plain x ops
/-- Read a word: OA101 for its mnemonic, OA103 for operands outside the limits of its encoding (R87, R90). -/
def WordCtx.word (x : WordCtx) (mn : List Char) (ops : List (List Char)) : Read :=
  match formOf mn with
  | none => .error 101
  | some f =>
    match f.read x ops with
    | .ok p => if WellFormed p.1 then .ok p else .error 103
    | .error c => .error c

end Sys2Proof.Machine
end

