-- ==== Sys2Proof/Machine/AsmCode.lean ====
section
/-! DEFINITION. Sections, clauses and packets of assembly text (R240 to R245): where each word stands, what its labels are worth,
and the diagnostics that a word, a line or a clause gives by itself (R253). -/

namespace Sys2Proof.Machine

/-! ### Items (Table 8.1) -/

inductive SectKind where
  | code | trap | const | data | metaBytes
  deriving DecidableEq, Repr

/-- The type of a section in a container (Table 8.5). -/
def SectKind.ty : SectKind → Nat
  | .code | .trap => 1
  | .const => 6
  | .data => 7
  | .metaBytes => 8
/-- The kind of a label of a section; a label of code may mark a clause's first packet. -/
def SectKind.labelKind (k : SectKind) (first : Bool) : SymKind :=
  match k with
  | .code => .code false first
  | .trap => .code true first
  | k => .other k.ty

/-- What a line, or the part of a line after its label, is. -/
inductive Item where
  | sect (k : SectKind)
  | panel (args : List Char)
  | clause (args : List Char)
  | label (n : String)
  | word (chain : Bool) (mn : List Char) (ops : List (List Char))
  | datum (d : String) (args : List Char)
  | equ (n : String) (e : Option Expr)
  | bad (code : Nat)
  deriving DecidableEq, Repr

def sectText (t : List Char) : Option SectKind :=
  match str (lowerAll (t.filter fun c => !isBlank c)) with
  | "code" => some .code
  | "code,trap" => some .trap
  | "const" => some .const
  | "data" => some .data
  | "meta" => some .metaBytes
  | _ => none
/-- A directive, a word or a chained word. -/
def itemOf (t : List Char) : Item :=
  match t with
  | '|' :: r => let h := headRest (trim r); .word true h.1 (splitArgs h.2)
  | _ =>
    let h := headRest t
    match str (lowerAll h.1) with
    | ".section" => match sectText h.2 with | some k => .sect k | none => .bad 101
    | ".panel" => .panel h.2
    | ".clause" => .clause h.2
    | ".word" => .datum ".word" h.2
    | ".half" => .datum ".half" h.2
    | ".byte" => .datum ".byte" h.2
    | ".f32" => .datum ".f32" h.2
    | ".align" => .datum ".align" h.2
    | ".equ" =>
      match splitArgs h.2 with
      | [n, e] => if n.all isName && !n.isEmpty && !(n.headD ' ').isDigit then .equ (str n) (parseExpr e) else .bad 102
      | _ => .bad 102
    | _ => if h.1.head? == some '.' then .bad 101 else .word false h.1 (splitArgs h.2)
/-- The items of a line: its label, then what follows. -/
def itemsOf (l : Line) : List (Where × Item) :=
  let t := l.clean
  match splitLabel t with
  | some (n, r) => (l.pos, .label (str n)) :: if r.isEmpty then [] else [(l.pos, itemOf r)]
  | none => if t.isEmpty then [] else [(l.pos, itemOf t)]

/-! ### The panel and the clause header (R241, R242) -/

structure PanelDecl where
  skeins : Nat
  scratch : Nat
  acc : Nat
  pair : Bool
  quad : Bool
  deriving DecidableEq, Repr

/-- The defaults of R241. -/
def PanelDecl.default : PanelDecl := ⟨1, 0, 0, false, false⟩
/-- A line of `key=value` operands; blanks beside a comma are dropped. -/
def keyArgs (t : List Char) : List (List Char) :=
  let tight := t.foldr (fun c (r : List Char) =>
    if isBlank c && (r.head? == some ',' || (r.head?.map isBlank).getD true) then r
    else if c == ',' then c :: r.dropWhile isBlank
    else (if isBlank c then ' ' else c) :: r) []
  (splitAt1 ' ' tight).filter fun a => !a.isEmpty
/-- A key and its value. -/
def keyValue (a : List Char) : String × List Char :=
  (str (lowerAll (a.takeWhile (· != '='))), (a.dropWhile (· != '=')).drop 1)
def onOff (v : List Char) : Option Bool :=
  match str (lowerAll v) with
  | "on" => some true
  | "off" => some false
  | _ => none
/-- One key of `.panel`; OA114 for another. -/
def WordCtx.panelKey (x : WordCtx) (p : PanelDecl) (a : List Char) : Except Nat PanelDecl :=
  let kv := keyValue a
  let num := fun (f : Nat → PanelDecl) =>
    match x.constant kv.2 with
    | .ok n => if 0 ≤ n then .ok (f n.toNat) else .error 114
    | .error c => .error c
  match kv.1 with
  | "skeins" => num fun n => { p with skeins := n }
  | "scratch" => num fun n => { p with scratch := n }
  | "acc" => num fun n => { p with acc := n }
  | "pair" => match onOff kv.2 with | some b => .ok { p with pair := b } | none => .error 114
  | "l1" =>
    match str (lowerAll kv.2) with
    | "core" => .ok { p with quad := false }
    | "quad" => .ok { p with quad := true }
    | _ => .error 114
  | _ => .error 114
/-- The limits of R241. -/
def PanelDecl.ok (p : PanelDecl) : Bool :=
  decide (1 ≤ p.skeins ∧ p.skeins ≤ 32 ∧ p.scratch ≤ 384 * 1024 ∧ p.scratch % 4096 = 0) &&
  (if p.pair then decide (1 ≤ p.acc ∧ p.acc ≤ 3) else decide (p.acc ≤ 4))
def WordCtx.panel (x : WordCtx) (t : List Char) : Except Nat PanelDecl :=
  match (keyArgs t).foldlM (WordCtx.panelKey x) PanelDecl.default with
  | .ok p => if p.ok then .ok p else .error 114
  | .error c => .error c

/-- The fields of a clause header: the wait mask, setA, setB and the gap. -/
structure Header where
  wait : Nat
  setA : Nat
  setB : Nat
  gap : Nat
  deriving DecidableEq, Repr

def flagList (v : List Char) : Except Nat (List Nat) := if v.isEmpty then .ok [] else (splitAt1 ',' v).mapM fun f => flagNo (trim f)
/-- The mask of a list of flags. -/
def flagMask (fs : List Nat) : Nat := fs.foldl (fun m f => m ||| 2 ^ f) 0
/-- One operand of `.clause`.  DEDUCED: `set` with one flag leaves setB at 15; a flag named twice fills both fields (R242). -/
def WordCtx.clauseKey (x : WordCtx) (h : Header) (a : List Char) : Except Nat Header :=
  let kv := keyValue a
  match kv.1 with
  | "wait" => (flagList kv.2).map fun fs => { h with wait := flagMask fs }
  | "set" =>
    match flagList kv.2 with
    | .ok [] => .ok { h with setA := 15, setB := 15 }
    | .ok [a] => .ok { h with setA := a, setB := 15 }
    | .ok [a, b] => .ok { h with setA := a, setB := b }
    | .ok _ => .error 113
    | .error c => .error c
  | "gap" =>
    match x.constant kv.2 with
    | .ok n => if 0 ≤ n ∧ n ≤ 3 then .ok { h with gap := n.toNat } else .error 103
    | .error c => .error c
  | _ => .error 102
def WordCtx.header (x : WordCtx) (t : List Char) : Except Nat Header := (keyArgs t).foldlM (WordCtx.clauseKey x) ⟨0, 15, 15, 0⟩

/-! ### Clauses -/

/-- A word in its place: what relocation fills in, whether the assembler inserted it, and where it was written. -/
structure AsmWord where
  packet : Nat
  slot : Nat
  chain : Bool
  instr : Instr
  fixes : List Fix
  inserted : Bool
  pos : Where
  deriving DecidableEq, Repr

/-- A clause: its header, its first packet in its section, its words in order, and how many packets it takes. -/
structure AsmClause where
  hdr : Header
  first : Nat
  words : List AsmWord
  len : Nat
  pos : Where
  deriving DecidableEq, Repr

/-- A clause while its words are placed: the last word first, and the next free slot, counted from the header's. -/
structure OpenClause where
  hdr : Header
  first : Nat
  words : List AsmWord
  next : Nat
  pos : Where

/-- What has been read: the section, its open clause, the clauses of the two code sections with the last first, the bytes of the
others, labels that mark the next word or clause, the labels bound, the panel, and the diagnostics, the last first. -/
structure Asm where
  sect : Option SectKind
  cur : Option OpenClause
  code : List AsmClause
  trap : List AsmClause
  const : List Byte
  data : List Byte
  metaBytes : List Byte
  pend : List String
  syms : List Sym
  panel : Option PanelDecl
  errs : List Diag
  warns : List Diag

def Asm.start : Asm := ⟨none, none, [], [], [], [], [], [], [], none, [], []⟩
def Asm.err (s : Asm) (code : Nat) (pos : Where) : Asm := { s with errs := ⟨code, pos⟩ :: s.errs }
def Asm.warn (s : Asm) (code : Nat) (pos : Where) : Asm := { s with warns := ⟨code, pos⟩ :: s.warns }
def Asm.inTrap (s : Asm) : Bool := s.sect == some .trap
/-- The packets that a list of clauses takes, the last clause first. -/
def clausePackets (cs : List AsmClause) : Nat := match cs with | c :: _ => c.first + c.len | [] => 0
def Asm.packets (s : Asm) : Nat := clausePackets (if s.inTrap then s.trap else s.code)
/-- Bind the waiting labels to a packet; `first` says that it is a clause's first by name (R245). -/
def Asm.bind (s : Asm) (packet : Nat) (first : Bool) : Asm :=
  { s with syms := s.pend.map (fun n => ⟨n, .code s.inTrap first, packet⟩) ++ s.syms, pend := [] }

/-- The words of a group that starts at each word, which the chain bits tie together (R77). -/
def asmGroups : List AsmWord → List (List AsmWord)
  | [] => []
  | w :: t =>
    match asmGroups t with
    | g :: gs => if w.chain then (w :: g) :: gs else [w] :: g :: gs
    | [] => [[w]]
/-- The first word of a group that shares a pipe (OA110) or a destination (OA111) with a word before it. -/
def groupBad (seen : List AsmWord) : List AsmWord → Option Diag
  | [] => none
  | w :: t =>
    if seen.any fun x => (pipe x.instr).isSome && pipe x.instr == pipe w.instr then some ⟨110, w.pos⟩
    else if seen.any fun x => (dests x.instr).any fun d => (dests w.instr).any d.meets then some ⟨111, w.pos⟩
    else groupBad (w :: seen) t
/-- The last word placed is a control word (R74). -/
def OpenClause.ended (c : OpenClause) : Bool := match c.words with | w :: _ => isControl w.instr | [] => false
/-- End the open clause (R243): its packets, and its groups checked on the encoded fields (R244). -/
def Asm.close (s : Asm) : Asm :=
  match s.cur with
  | none => s
  | some c =>
    let len := (c.next + 2) / 3
    let words := c.words.reverse
    let done : AsmClause := ⟨c.hdr, c.first, words, len, c.pos⟩
    let s := { s with cur := none }
    let s := if s.inTrap then { s with trap := done :: s.trap } else { s with code := done :: s.code }
    let s := if 16 < len then s.err 107 c.pos else s
    let s := if c.ended && c.next % 3 != 0 then s.warn 506 c.pos else s
    ((asmGroups words).filterMap (groupBad [])).foldl (fun s d => s.err d.code d.pos) s
/-! ### Placing a word (R243, R244) -/

/-- A `NOP` that the assembler inserts (OA506 under -Wpad). -/
def asmNop (packet slot : Nat) (pos : Where) : AsmWord := ⟨packet, slot, false, .nop, [], true, pos⟩
/-- The next slot, past slot 2 where the word calls for a literal. -/
def OpenClause.room (c : OpenClause) (lit : Bool) (pos : Where) : OpenClause :=
  if lit && c.next % 3 == 2 then
    { c with words := asmNop (c.first + c.next / 3) 2 pos :: c.words, next := c.next + 1 }
  else c
/-- Set C in the word before (R244): OA109 where there is none, or it stands in another packet. -/
def OpenClause.chainTo (c : OpenClause) : Option OpenClause :=
  match c.words with
  | w :: t => if w.packet = c.first + c.next / 3 && !w.inserted then some { c with words := { w with chain := true } :: t } else none
  | [] => none
/-- The diagnostic of a word in its section and panel (R27, R42, R221, R337). -/
def wordBad (trap : Bool) (p : PanelDecl) (i : Instr) : Option Nat :=
  if (privileged i && !trap) || (trap && needsPanel i) then some 115
  else
    match accOf i, i with
    | some a, .mmatPair _ _ _ _ _ _ _ => if a < p.acc && p.pair then none else some 123
    | some a, _ => if a < p.acc then none else some 123
    | none, _ => none
/-- A compare writes `em` (OA502). -/
def comparesEm : Instr → Bool
  | .vcmp _ d _ _ | .vcmpu _ d _ _ | .vfcmp _ d _ _ => d == regEm
  | _ => false
/-- A long-latency word of Table 3.3, with its fs bit. -/
def longWord : Instr → Option Bool
  | .vfdiv _ _ _ fs | .vfsqrt _ _ fs | .vexp2 _ _ fs | .vlog2 _ _ fs | .vrcp _ _ fs | .vrsq _ _ fs | .vsinp _ _ fs | .vcosp _ _ fs
  | .vrng _ _ fs => some fs
  | .ld _ _ _ _ fs | .ldSpec _ _ _ _ fs | .ldByp _ _ _ _ fs | .ldAcqCore _ _ _ _ fs | .ldAcqQuad _ _ _ _ fs | .ldAcqDie _ _ _ _ fs
  | .ldAcqPkg _ _ _ _ fs | .ldAcqPod _ _ _ _ fs | .st _ _ _ _ fs | .stRelCore _ _ _ _ fs | .stRelQuad _ _ _ _ fs
  | .stRelDie _ _ _ _ fs | .stRelPkg _ _ _ _ fs | .stRelPod _ _ _ _ fs | .ldp _ _ _ _ fs | .ldpSpec _ _ _ _ fs | .stp _ _ _ _ fs
  | .ldc _ _ _ _ fs => some fs
  | .atom _ _ _ _ _ fs | .atomp _ _ _ _ _ fs | .red _ _ _ _ _ fs => some fs
  | .ldtol _ _ _ _ fs | .mload _ _ fs | .mdrain _ _ _ _ _ _ fs => some fs
  | _ => none
/-- The flag that a long-latency word increments, 12 to 15 for none (R84). -/
def Header.flagOf (h : Header) (i : Instr) : Option Nat := (longWord i).map fun fs => if fs then h.setB else h.setA
/-- Place a word. -/
def Asm.put (s : Asm) (c : OpenClause) (chain : Bool) (p : Instr × List Fix) (pos : Where) : Asm :=
  let lit := takesLit p.1
  let c' := c.room lit pos
  let s := if c'.next = c.next then s else s.warn 506 pos
  match if chain then c'.chainTo else some c' with
  | none => s.err 109 pos
  | some c' =>
    let packet := c'.first + c'.next / 3
    let s := s.bind packet false
    let w : AsmWord := ⟨packet, c'.next % 3, false, p.1, p.2, false, pos⟩
    let s := if comparesEm p.1 then s.warn 502 pos else s
    let s := if (longWord p.1).isSome && 12 ≤ c.hdr.setA && 12 ≤ c.hdr.setB then s.warn 504 pos else s
    { s with cur := some { c' with words := w :: c'.words, next := c'.next + (if lit then 2 else 1) } }

/-! ### Data (R240) -/

/-- Bytes of a value of `n` bytes; OA124 outside both ranges. -/
def WordCtx.dataValue (x : WordCtx) (n : Nat) (t : List Char) : Except Nat (List Byte) :=
  match x.value t with
  | .ok v =>
    if -(2 : Int) ^ (8 * n - 1) ≤ v.signed ∧ v.signed < (2 : Int) ^ (8 * n) then .ok (leBytes n (v.signed % 2 ^ (8 * n)).toNat)
    else .error 124
  | .error c => .error c
/-- A decimal number with an optional fraction and exponent, as digits and a power of ten. -/
def decimalText (t : List Char) : Option (Nat × Int) :=
  let m := t.takeWhile fun c => c != 'e'
  let ip := m.takeWhile (· != '.')
  let fp := (m.dropWhile (· != '.')).drop 1
  let e := (t.dropWhile fun c => c != 'e').drop 1
  let ev : Option Int :=
    if t.contains 'e' then
      match e with
      | '-' :: d => (smallNo d).map fun n => -(n : Int)
      | '+' :: d => (smallNo d).map fun n => (n : Int)
      | d => (smallNo d).map fun n => (n : Int)
    else some 0
  match (if ip.isEmpty then none else digitsOf 10 (ip ++ fp) 0), ev with
  | some n, some k => some (n, k - fp.length)
  | _, _ => none
/-- A hexadecimal number with a `p` exponent, as a magnitude and a power of two. -/
def hexText (t : List Char) : Option (Nat × Int) :=
  let m := t.takeWhile (· != 'p')
  let ip := m.takeWhile (· != '.')
  let fp := (m.dropWhile (· != '.')).drop 1
  let e := (t.dropWhile (· != 'p')).drop 1
  let ev : Option Int :=
    match e with
    | '-' :: d => (smallNo d).map fun n => -(n : Int)
    | '+' :: d => (smallNo d).map fun n => (n : Int)
    | d => (smallNo d).map fun n => (n : Int)
  match (if (ip ++ fp).isEmpty then none else digitsOf 16 (ip ++ fp) 0), ev with
  | some n, some k => some (n, k - 4 * fp.length)
  | _, _ => none
/-- m × 10^k as a binary32, rounded RNE: a quotient with 64 bits or more below the last place, the remainder kept as a bit. -/
def decimalF32 (neg : Bool) (m : Nat) (k : Int) : Nat :=
  let r : Round := ⟨f32, .rne, false, false⟩
  if m = 0 then (if neg then 2 ^ 31 else 0)
  else if 0 ≤ k then (r.apply neg (m * 10 ^ k.toNat) 0).1
  else
    let d := 10 ^ (-k).toNat
    let sh := 300 + Nat.log2 d
    let q := (m <<< sh) / d
    (r.apply neg (2 * q + (if (m <<< sh) % d = 0 then 0 else 1)) (-(sh : Int) - 1)).1
/-- One value of `.f32`. -/
def f32Text (t : List Char) : Except Nat (List Byte) :=
  let l := (lowerAll t).filter (· != '_')
  let neg := l.head? == some '-'
  let u := if neg || l.head? == some '+' then l.drop 1 else l
  match u with
  | '0' :: 'x' :: h =>
    if h.contains 'p' then
      match hexText h with
      | some (m, k) => .ok (leBytes 4 (if m = 0 then (if neg then 2 ^ 31 else 0) else ((⟨f32, .rne, false, false⟩ : Round).apply neg m k).1))
      | none => .error 102
    else if h.contains '.' || u.length != l.length then .error 102
    else
      match digitsOf 16 h 0 with
      | some n => if h.isEmpty then .error 102 else if n < 2 ^ 32 then .ok (leBytes 4 n) else .error 124
      | none => .error 102
  | _ =>
    match decimalText u with
    | some (m, k) => .ok (leBytes 4 (decimalF32 neg m k))
    | none => .error 102
/-- The bytes that a data directive adds to a section of a length. -/
def WordCtx.datum (x : WordCtx) (d : String) (t : List Char) (len : Nat) : Except Nat (List Byte) :=
  let each := fun (f : List Char → Except Nat (List Byte)) =>
    if (splitArgs t).isEmpty then .error 102 else ((splitArgs t).mapM f).map List.flatten
  match d with
  | ".word" => each (x.dataValue 4)
  | ".half" => each (x.dataValue 2)
  | ".byte" => each (x.dataValue 1)
  | ".f32" => each f32Text
  | _ =>
    match x.constant t with
    | .ok n =>
      if 1 ≤ n ∧ n ≤ 4096 ∧ 2 ^ Nat.log2 n.toNat = n.toNat then .ok (List.replicate ((n.toNat - len % n.toNat) % n.toNat) 0)
      else .error 103
    | .error c => .error c

/-! ### A pass over the items -/

/-- The context of a word at its place; `panel` is that of the whole source. -/
def Asm.ctx (s : Asm) (syms : List Sym) (equs : List (String × Expr)) (codePackets : Nat) : WordCtx :=
  match s.cur with
  | some c => ⟨syms, equs, c.hdr.setA, c.hdr.setB, s.inTrap, c.first + c.next / 3, codePackets⟩
  | none => ⟨syms, equs, 15, 15, s.inTrap, s.packets, codePackets⟩
/-- The bytes of the open data section. -/
def Asm.bytes (s : Asm) : Option (List Byte) :=
  match s.sect with
  | some .const => some s.const
  | some .data => some s.data
  | some .metaBytes => some s.metaBytes
  | _ => none
def Asm.addBytes (s : Asm) (bs : List Byte) : Asm :=
  match s.sect with
  | some .const => { s with const := s.const ++ bs }
  | some .data => { s with data := s.data ++ bs }
  | some .metaBytes => { s with metaBytes := s.metaBytes ++ bs }
  | _ => s
def Asm.inCode (s : Asm) : Bool := s.sect == some .code || s.inTrap
/-- End a section: its clause, and the labels at its end. -/
def Asm.endSection (s : Asm) : Asm := let s := s.close; if s.inCode then s.bind s.packets false else s
/-- A label: OA105 where the name is taken, OA112 outside a section. -/
def Asm.label (s : Asm) (equs : List (String × Expr)) (n : String) (pos : Where) : Asm :=
  if s.pend.contains n || (findSym s.syms n).isSome || equs.any (fun e => e.1 == n) then s.err 105 pos
  else
    match s.sect, s.bytes with
    | some k, some bs => { s with syms := ⟨n, k.labelKind false, bs.length⟩ :: s.syms }
    | some _, none => { s with pend := s.pend ++ [n] }
    | none, _ => s.err 112 pos
/-- One item; `ext` are the symbols of the pass before, `panel` its panel. -/
def Asm.item (equs : List (String × Expr)) (ext : List Sym) (panel : PanelDecl) (codePackets : Nat) (s : Asm) (it : Where × Item) :
    Asm :=
  let pos := it.1
  let x := s.ctx ext equs codePackets
  match it.2 with
  | .bad c => s.err c pos
  | .equ _ none => s.err 102 pos
  | .equ n (some e) =>
    match e.value x.look with
    | .ok _ => if (equs.filter fun e => e.1 == n).length ≤ 1 then s else s.err 105 pos
    | .error c => s.err c pos
  | .sect k => let s := s.endSection; { s with sect := some k }
  | .label n => s.label equs n pos
  | .panel t =>
    if s.sect != some .code then s.err 122 pos
    else if s.panel.isSome then s.err 114 pos
    else
      match x.panel t with
      | .ok p => { s with panel := some p }
      | .error c => s.err c pos
  | .clause t =>
    if !s.inCode then s.err 122 pos
    else
      let s := s.close
      match x.header t with
      | .ok h => let n := s.packets; { s.bind n true with cur := some ⟨h, n, [], 1, pos⟩ }
      | .error c => s.err c pos
  | .datum d t =>
    match s.bytes with
    | none => s.err 122 pos
    | some bs =>
      match x.datum d t bs.length with
      | .ok b => s.addBytes b
      | .error c => s.err c pos
  | .word chain mn ops =>
    match s.cur with
    | none => s.err 112 pos
    | some c =>
      if c.ended then s.err 108 pos
      else
        match x.word mn ops with
        | .error e => s.err e pos
        | .ok p =>
          match wordBad s.inTrap panel p.1 with
          | some e => s.err e pos
          | none => s.put c chain p pos
/-- A whole pass over the items with the symbols, the panel and the number of code packets that the pass before found. -/
def asmPass (equs : List (String × Expr)) (items : List (Where × Item)) (given : List Sym) (p : Asm) : Asm :=
  (items.foldl (Asm.item equs (p.syms ++ given) (p.panel.getD PanelDecl.default) (clausePackets p.code)) Asm.start).endSection
/-- The labels of a source before any is placed: their kinds, and the value 0. -/
def firstSyms (items : List (Where × Item)) : List Sym :=
  (items.foldl (fun (a : Option SectKind × List Sym) it =>
    match it.2 with
    | .sect k => (some k, a.2)
    | .label n => (a.1, ⟨n, (a.1.getD .metaBytes).labelKind true, 0⟩ :: a.2)
    | _ => a) (none, [])).2
/-- The constants of `.equ`, each evaluated where it is used. -/
def equsOf (items : List (Where × Item)) : List (String × Expr) :=
  items.filterMap fun it => match it.2 with | .equ n (some e) => some (n, e) | _ => none
/-- Passes until the labels stand: a word may be shorter or longer as its labels move.  DESIGN CHOICE: eight passes at most
(log 52). -/
def asmPasses (equs : List (String × Expr)) (items : List (Where × Item)) (given : List Sym) : Nat → Asm → Asm
  | 0, p => p
  | n + 1, p =>
    let q := asmPass equs items given p
    if q.syms = p.syms ∧ clausePackets q.code = clausePackets p.code ∧ q.panel = p.panel then q else asmPasses equs items given n q
/-- A pass that every later pass repeats; `given` are symbols from elsewhere (R258), `defs` constants from elsewhere (R254). -/
def layOut (items : List (Where × Item)) (defs : List (String × Expr)) (given : List Sym) : Asm :=
  let equs := defs ++ equsOf items
  let syms := firstSyms items
  let placed := syms.map fun y => { y with value := 0 }
  let s0 : Asm := { Asm.start with syms := placed }
  let guess := { asmPass equs items given s0 with errs := [] }
  asmPasses equs items given 8 guess

/-! ### The words (R68 to R71) -/

/-- The words of a clause: header, words with their literals, `NOP`s to the end of the last packet (R243). -/
def AsmClause.words32 (c : AsmClause) : List Word :=
  let ws := c.words.flatMap fun w => encode w.chain w.instr
  let hdr := fmtHeader (BitVec.ofNat 12 c.hdr.wait) (BitVec.ofNat 4 c.hdr.setA) (BitVec.ofNat 4 c.hdr.setB) (BitVec.ofNat 4 (c.len - 1))
    (BitVec.ofNat 2 c.hdr.gap)
  hdr :: ws ++ List.replicate (3 * c.len - 1 - ws.length) 0
/-- The words of a section, its clauses in order. -/
def sectionWords (cs : List AsmClause) : List Word := cs.flatMap AsmClause.words32
/-- The places of a section that relocation fills: the byte of each, with what it takes. -/
def sectionFixes (cs : List AsmClause) : List (Nat × Fix) :=
  cs.flatMap fun c => c.words.flatMap fun w =>
    w.fixes.map fun f => (12 * w.packet + 4 * (w.slot + (if f.ty = 3 || f.ty = 4 then 1 else 0)), f)

end Sys2Proof.Machine
end

