-- ==== Sys2Proof/Machine/AsmFlow.lean ====
section
/-! DEFINITION. What the assembler checks along the paths of a program (R248 to R252): window reads, flags of long-latency words,
melds, regions, and scratchpad offsets that it can evaluate. -/

namespace Sys2Proof.Machine

/-! ### Registers that words read (Tables 3.6 to 3.20) -/

def srcV (n : Nat) (v : VReg) : List Dest := [destV v n]
def srcS (s : SReg) : List Dest := [destS s]
/-- `n` consecutive scalars. -/
def scalarsFrom (s : SReg) (n : Nat) : List Dest := [⟨false, s.toNat, n⟩]
/-- A second operand of `n` vector registers, or a scalar. -/
def vsrcReads (n : Nat) : VSrc → List Dest
  | .v r => srcV n r
  | .s r => srcS r
def offReads : Off → List Dest
  | .vec v | .vecLit v _ => srcV 1 v
  | _ => []
def matReads (n : Nat) : MatSrc → List Dest
  | .regs v => srcV n v
  | .pad s => scalarsFrom s 2
/-- The registers that a word reads, by their encoded numbers, `em` and `pm` apart. -/
def reads (i : Instr) : List Dest :=
  let w := (encode false i).headD 0
  let a := fld w 14 6
  let b := vsrcOf (fld w 8 6) (bit w 7)
  match i with
  | .bruZ a _ | .bruNz a _ | .bruNeg a _ | .bruNneg a _ | .bruv a _ | .brs a _ | .brzm a _ | .jmpi a | .split a | .regang a => srcS a
  | .ret => srcS regLr
  | .meld a => scalarsFrom a 3
  | .spopc _ a | .sclz _ a | .sctz _ a | .smov _ a | .sput a => srcS a
  | .ssel d a b | .sbfi d a b => srcS d ++ srcS a ++ srcS b
  | .vmov _ b => vsrcReads 1 b
  | .vidx _ | .vmovi _ _ => []
  | .vpopc _ _ a | .vclz _ _ a => srcV 1 a
  | .vbfi d a b => srcV 1 d ++ srcV 1 a ++ vsrcReads 1 b
  | .vfabs _ a | .vfneg _ a | .vfclass _ a | .vfrint _ a => srcV 1 a
  | .vfma _ a b e | .vfms _ a b e | .vfnma _ a b e | .vmad _ a b e | .vaddmin _ a b e | .vfaddmin _ a b e =>
    srcV 1 a ++ srcV 1 b ++ srcV 1 e
  | .vdadd _ a b | .vdmul _ a b | .vcadd _ a b | .vcmul _ a b => srcV 2 a ++ vsrcReads 2 b
  | .vdfma d a b | .vcfma d a b => srcV 2 d ++ srcV 2 a ++ vsrcReads 2 b
  | .vfsqrt _ a _ | .vexp2 _ a _ | .vlog2 _ a _ | .vrcp _ a _ | .vrsq _ a _ | .vsinp _ a _ | .vcosp _ a _ | .vrng _ a _ => srcV 1 a
  | .vred o _ a | .vscan o _ a => srcV (if o == .addd then 2 else 1) a
  | .vcvt _ src _ _ a => srcV (if src.width == 64 then 2 else 1) a
  | .vpack dst _ _ _ a => srcV (32 / dst.width) a
  | .vunpk _ _ _ _ a | .vqdbx _ _ a => srcV 1 a
  | .vdqdbx _ _ a => srcV 2 a
  | .chk a | .ptst _ a => srcV 1 a
  | .chkScalar b => srcS b
  | .ld _ _ b o _ | .ldSpec _ _ b o _ | .ldByp _ _ b o _ | .ldAcqCore _ _ b o _ | .ldAcqQuad _ _ b o _ | .ldAcqDie _ _ b o _
  | .ldAcqPkg _ _ b o _ | .ldAcqPod _ _ b o _ | .ldp _ _ b o _ | .ldpSpec _ _ b o _ | .ldc _ _ b o _ => srcS b ++ offReads o
  | .st z d b o _ | .stRelCore z d b o _ | .stRelQuad z d b o _ | .stRelDie z d b o _ | .stRelPkg z d b o _ | .stRelPod z d b o _
  | .stp z d b o _ => srcV (if z == .d then 2 else 1) d ++ srcS b ++ offReads o
  | .atom op w d b o _ | .atomp op w d b o _ | .red op w d b o _ =>
    srcV ((if w then 2 else 1) * (if op == .cas then 2 else 1)) d ++ srcS b ++ srcV 1 o
  | .redbv d b o => srcV 1 d ++ srcS b ++ srcV 1 o
  | .ldtol k _ b o _ => scalarsFrom b (if k == 32 then 2 else 1) ++ srcV 1 o
  | .cflush _ a b x | .cinv _ a b x => srcS a ++ srcS b ++ srcS x
  | .pref _ a b => srcS a ++ srcV 1 b
  | .bari _ a x | .barw _ a x | .bexp _ a x | .waitm a x => srcS a ++ srcS x
  | .bara _ a | .bar _ a | .waitb a | .fwait a | .ftest _ a | .fcancel a => srcS a
  | .cpy _ a b x => srcS a ++ srcS b ++ scalarsFrom x 2
  | .cpySpl _ b x => srcS b ++ scalarsFrom x 2
  | .cpyg _ a b x => srcS a ++ srcS b ++ srcV 1 x
  | .splcfg _ a => scalarsFrom a 2
  | .mmatS _ _ a b da db kk => matReads 1 a ++ matReads 1 b ++ srcS da ++ srcS db ++ srcS kk
  | .mmatPair _ _ a b da db kk => matReads 1 a ++ matReads 1 b ++ srcS da ++ srcS db ++ srcS kk
  | .mload _ (.regs v) _ => srcV 2 v
  | .mload _ (.pad s) _ => srcS s
  | .mdrain f t _ d sc sp _ =>
    match t with
    | .regs => []
    | _ => srcS d ++ (if f.quant then srcS sc else []) ++ srcS sp
  | .coll _ _ _ _ a | .cseal _ a | .copen _ a => scalarsFrom a 4
  | .sysw _ x => srcS x
  | .xread _ a _ | .xresumeEntry a => srcS a
  | .xwrite sel a x =>
    match sel with
    | .v _ => srcS a ++ srcV 1 x
    | _ => srcS a ++ srcS x
  | .xresumePc a x => srcS a ++ srcS x
  | _ =>
    match major i with
    | 0x01 => srcS a ++ srcS (fld w 8 6)
    | 0x02 => srcS a
    | 0x04 | 0x06 | 0x09 | 0x0A | 0x0C => srcV 1 a ++ vsrcReads 1 b
    | 0x05 => srcV 1 a
    | _ => []
/-- Words that act on the active lanes, and so read `em` (R14, R123, R124, R142). -/
def readsEm (i : Instr) : Bool :=
  match i with
  | .bruv _ _ | .brs _ _ | .brzm _ _ | .chk _ | .ptst _ _ | .dbrk | .pref _ _ _ | .cpyg _ _ _ _ => true
  | _ => decide (4 ≤ major i ∧ major i ≤ 0x0C) || decide (0x0E ≤ major i ∧ major i ≤ 0x12)
/-- What a word writes: its destinations, and for `VDROP` its four registers (R137). -/
def writes (i : Instr) : List Dest :=
  match i with
  | .vdrop a b e d => srcV 1 a ++ srcV 1 b ++ srcV 1 e ++ srcV 1 d
  | _ => dests i
/-- The issue cycles after which a fixed-latency result is visible (Table 3.2). -/
def fixedLatency (i : Instr) : Option Nat :=
  match i with
  | .seal _ | .splget _ _ => some 2
  | _ =>
    match pipe i with
    | some .scl => some 2
    | some .valu | some .vfma | some .cvt => some 4
    | some .lane => some 6
    | _ => none
/-- `REGION` and the commit-class words (R135, Table 4.4). -/
def endsRegion : Instr → Bool
  | .region | .atom _ _ _ _ _ _ | .atomp _ _ _ _ _ _ | .red _ _ _ _ _ _ | .redbv _ _ _ | .stRelCore _ _ _ _ _
  | .stRelQuad _ _ _ _ _ | .stRelDie _ _ _ _ _ | .stRelPkg _ _ _ _ _ | .stRelPod _ _ _ _ _ | .fence _ _ | .cflush _ _ _ _
  | .cinv _ _ _ _ | .bari _ _ _ | .bara _ _ | .barw _ _ _ | .bar _ _ | .bexp _ _ _ | .cpy _ _ _ _ | .cpySpl _ _ _ | .cpyg _ _ _ _
  | .seal _ | .splcfg _ _ | .splget _ _ | .splrel _ | .mmatS _ _ _ _ _ _ _ | .mmatPair _ _ _ _ _ _ _ | .mzero _ | .mload _ _ _
  | .mdrain _ _ _ _ _ _ _ | .coll _ _ _ _ _ | .cseal _ _ | .copen _ _ | .fcancel _ | .sysw _ _ | .xwrite _ _ _ | .xresumePc _ _
  | .xresumeEntry _ | .meld _ | .meldx => true
  | _ => false

/-! ### Paths -/

/-- The clauses of both code sections with their absolute first packets, the trap code after the code (R377). -/
structure Graph where
  clauses : List (Nat × AsmClause)
  codeCount : Nat
  codePackets : Nat

def graphOf (code trap : List AsmClause) : Graph :=
  let n := match code.getLast? with | some c => c.first + c.len | none => 0
  ⟨code.map (fun c => (c.first, c)) ++ trap.map (fun c => (n + c.first, c)), code.length, n⟩
/-- The clause that begins at an absolute packet. -/
def Graph.at (g : Graph) (p : Int) : List Nat := (g.clauses.findIdx? fun c => (c.1 : Int) == p).toList
/-- The clauses that may follow a clause (R248): the next one, the target of its branch; a `CALL` comes back to the next one. -/
def Graph.next (g : Graph) (i : Nat) : List Nat :=
  match g.clauses[i]? with
  | none => []
  | some (p, c) =>
    let fall := if i + 1 = g.codeCount ∨ g.clauses.length ≤ i + 1 then [] else [i + 1]
    match c.words.getLast? with
    | none => fall
    | some w =>
      let target := fun (off : BitVec 15) => g.at (((p - c.first) + w.packet : Nat) + off.toInt)
      match w.instr with
      | .bra o => target o
      | .bruZ _ o | .bruNz _ o | .bruNeg _ o | .bruNneg _ o | .bruv _ o | .brs _ o | .brzm _ o | .call o => target o ++ fall
      | .ret | .jmpi _ | .exit | .rft => []
      | _ => fall
/-- Where paths begin: the first clause of each section, and each clause whose packet a literal holds (log 52). -/
def Graph.starts (g : Graph) (syms : List Sym) : List Nat :=
  let taken := g.clauses.flatMap fun c => c.2.words.flatMap fun w => w.fixes.filter fun f => f.ty == 4
  let at_ := taken.flatMap fun f =>
    match findSym syms f.sym with
    | some ⟨_, .code t _, v⟩ => g.at ((v + (if t then g.codePackets else 0) : Nat) + f.add)
    | _ => []
  (if g.clauses.isEmpty then [] else [0]) ++ (if g.codeCount < g.clauses.length then [g.codeCount] else []) ++ at_
/-- What may hold at the start of each clause, `none` where no path comes: what the starts hold is passed along every path until
nothing changes.  `rounds` bounds the passes. -/
def Graph.solve {α : Type} [DecidableEq α] (g : Graph) (join : α → α → α) (step : Nat → α → α) : Nat → List (Option α) → List (Option α)
  | 0, m => m
  | n + 1, m =>
    let m' := (List.range g.clauses.length).foldl (fun (m : List (Option α)) i =>
      match m.getD i none with
      | none => m
      | some a =>
        let out := step i a
        (g.next i).foldl (fun (m : List (Option α)) j =>
          m.set j (some (match m.getD j none with | some b => join b out | none => out))) m) m
    if m' = m then m else g.solve join step n m'
/-- The facts at the start of every clause. -/
def Graph.facts {α : Type} [DecidableEq α] (g : Graph) (starts : List Nat) (init : α) (join : α → α → α) (step : Nat → α → α)
    (rounds : Nat) : List (Option α) :=
  g.solve join step rounds ((List.range g.clauses.length).map fun i => if starts.contains i then some init else none)
/-- A union without repeats. -/
def unite {β : Type} [DecidableEq β] (a b : List β) : List β := b.foldl (fun a x => if a.contains x then a else a ++ [x]) a
/-- The issue groups of a clause, with the `NOP`s that fill its last packet. -/
def AsmClause.groups (c : AsmClause) : List (List AsmWord) :=
  let used := 1 + (c.words.flatMap fun w => encode w.chain w.instr).length
  asmGroups c.words ++ List.replicate (3 * c.len - used) []

/-! ### Values that can be evaluated (R250) -/

/-- A scalar with a known value, and whether it was built in the clause that is being read. -/
structure Known where
  reg : Nat
  value : Nat
  fresh : Bool
  deriving DecidableEq, Repr

def knownAt (ks : List Known) (s : SReg) : Option Nat :=
  if s = regZero then some 0 else (ks.find? fun k => k.reg == s.toNat).map Known.value
/-- A value to build on: of this clause, or `zero`. -/
def freshAt (ks : List Known) (s : SReg) : Option Nat :=
  if s = regZero then some 0 else (ks.find? fun k => k.reg == s.toNat && k.fresh).map Known.value
def immSigned : Imm → Int
  | .short i => i.toInt
  | .lit w => w.toInt
def immUnsigned : Imm → Nat
  | .short i => i.toNat
  | .lit w => w.toNat
/-- The value that `SMOVI`, `SLUI`, `SOR` or `SADD` builds. -/
def builds (ks : List Known) (w : AsmWord) : Option (SReg × Nat) :=
  if !w.fixes.isEmpty then none
  else
    match w.instr with
    | .smovi d i => some (d, (i.toInt % 2 ^ 64).toNat)
    | .slui d i => some (d, i.toNat * 2 ^ 46)
    | .sorI d a i => (freshAt ks a).map fun x => (d, x ||| immUnsigned i)
    | .saddI d a i => (freshAt ks a).map fun x => (d, ((x + immSigned i) % 2 ^ 64).toNat)
    | _ => none
/-- The values known after a group, all of whose words read what was known before it. -/
def knownAfter (ks : List Known) (g : List AsmWord) : List Known :=
  let gone := g.flatMap fun w => dests w.instr
  let kept := ks.filter fun k => !gone.any fun d => !d.vec && decide (d.first ≤ k.reg ∧ k.reg < d.first + d.count)
  (g.filterMap (builds ks)).foldl (fun ks p => if p.1.toNat < 60 then ⟨p.1.toNat, p.2, true⟩ :: ks else ks) kept
def staleAll (ks : List Known) : List Known := ks.map fun k => { k with fresh := false }
/-- What is known on both of two paths. -/
def knownBoth (a b : List Known) : List Known := a.filter b.contains

/-! ### Melds (R250) -/

/-- Whether a meld is open, and its patterns where they can be evaluated. -/
inductive Meld where
  | closed
  | opened (pats : Option (Nat × Nat))
  deriving DecidableEq, Repr

def Meld.isOpen : Meld → Bool
  | .closed => false
  | .opened _ => true
/-- A group after which melds stand as given. -/
def meldAfter (ks : List Known) (ms : List Meld) (g : List AsmWord) : List Meld :=
  g.foldl (fun ms w =>
    match w.instr with
    | .meld a => [.opened (match knownAt ks (a + 1), knownAt ks (a + 2) with | some x, some y => some (x, y) | _, _ => none)]
    | .meldx => [.closed]
    | _ => ms) ms
/-- The registers of a vector range on both paths of a meld; each register of it is translated, an even pair as a pair (R26). -/
def Meld.ranges (m : Meld) (d : Dest) : List Dest :=
  match m with
  | .opened (some (a, b)) =>
    if d.vec then
      [0, (1 : Nat)].flatMap fun path =>
        let tr := fun n => translate true (if path = 1 then 1 else 0) (BitVec.ofNat 64 a) (BitVec.ofNat 64 b) n 0
        if d.count = 2 then [⟨true, tr d.first / 2 * 2, 2⟩]
        else (List.range d.count).map fun k => ⟨true, tr (d.first + k), 1⟩
    else [d]
  | _ => [d]
/-- The ranges of a word's fields under every meld that may stand. -/
def allRanges (ms : List Meld) (ds : List Dest) : List Dest := unite [] (ms.flatMap fun m => ds.flatMap m.ranges)

/-- A word with what holds before its group: the group's number, the known values, the melds. -/
structure SeenWord where
  word : AsmWord
  group : Nat
  known : List Known
  melds : List Meld

/-- The words of groups, from group `k` on. -/
def seeGroups (k : Nat) (ks : List Known) (ms : List Meld) : List (List AsmWord) → List SeenWord
  | [] => []
  | g :: t => g.map (fun w => ⟨w, k, ks, ms⟩) ++ seeGroups (k + 1) (knownAfter ks g) (meldAfter ks ms g) t
/-- What a word reads, `em` and `pm` with it, and what it writes; `zero` is neither. -/
def SeenWord.reads (w : SeenWord) : List Dest :=
  let i := w.word.instr
  (allRanges w.melds (Machine.reads i) ++ (if readsEm i then [destS regEm] else []) ++
    (if readsEm i && w.melds.any Meld.isOpen then [destS regPm] else [])).filter fun d => d.vec || d.first != 63
def SeenWord.writes (w : SeenWord) : List Dest :=
  (allRanges w.melds (Machine.writes w.word.instr)).filter fun d => d.vec || d.first != 63

/-! ### The checks -/

/-- Window reads (R248, OA501): the results not yet visible, each with the cycles that it still takes, counted from the cycle of
the clause's first group without its gap. -/
abbrev Window := List (Dest × Nat)
def windowRun (gap : Nat) (ws : List SeenWord) (f : Window) : Window :=
  ws.foldl (fun f w =>
    match fixedLatency w.word.instr with
    | some l => unite f (w.writes.map fun d => (d, gap + w.group + l))
    | none => f) f
/-- The window reads of a clause: a word of an earlier group, or of an earlier clause, whose result comes later. -/
def windowBad (gap : Nat) (ws : List SeenWord) (f : Window) : List Diag :=
  ws.filterMap fun w =>
    let before := windowRun gap (ws.filter fun y => decide (y.group < w.group)) f
    if before.any fun p => decide (gap + w.group < p.2) && w.reads.any p.1.meets then some ⟨501, w.word.pos⟩ else none
/-- What is left of it after a clause of `cycles` cycles. -/
def windowOut (cycles : Nat) (f : Window) : Window :=
  f.filterMap fun p => if cycles < p.2 then some (p.1, p.2 - cycles) else none

/-- Destinations of long-latency words with the flag that covers each (R249). -/
abbrev Covered := List (Dest × Nat)
def coveredBy (h : Header) (ws : List SeenWord) : Covered :=
  ws.flatMap fun w =>
    match h.flagOf w.word.instr with
    | some f => if f < 12 then w.writes.map fun d => (d, f) else []
    | none => []
def afterWait (h : Header) (c : Covered) : Covered := c.filter fun p => !h.wait.testBit p.2
/-- A use of a destination of an earlier clause without a wait (OA503). -/
def coverBad (ws : List SeenWord) (c : Covered) : List Diag :=
  ws.filterMap fun w => if c.any fun p => (w.reads ++ w.writes).any p.1.meets then some ⟨503, w.word.pos⟩ else none
/-- A use of a long-latency destination in its own clause by a later group (OA125). -/
def ownClauseBad (ws : List SeenWord) : List Diag :=
  ws.filterMap fun w =>
    if ws.any fun y => decide (y.group < w.group) && (longWord y.word.instr).isSome && y.writes.any fun d =>
        (w.reads ++ w.writes).any d.meets then some ⟨125, w.word.pos⟩ else none

/-- The registers of a list of ranges, scalars from 0 and vectors from 64. -/
def regIds (ds : List Dest) : List Nat := ds.flatMap fun d => (List.range d.count).map fun k => d.first + k + (if d.vec then 64 else 0)
/-- A region so far (R251): registers that some path has read before writing, and registers that every path has written. -/
structure RegionFact where
  readFirst : List Nat
  written : List Nat
  deriving DecidableEq, Repr
def RegionFact.join (a b : RegionFact) : RegionFact := ⟨unite a.readFirst b.readFirst, a.written.filter b.written.contains⟩
def RegionFact.start : RegionFact := ⟨[], []⟩
/-- A group of a region: its reads, then its writes, which are OA117 where the region has read the register first. -/
def RegionFact.group (f : RegionFact) (g : List SeenWord) : RegionFact × List Diag :=
  let rf := unite f.readFirst ((regIds (g.flatMap SeenWord.reads)).filter fun r => !f.written.contains r)
  (⟨rf, unite f.written (regIds (g.flatMap SeenWord.writes))⟩,
    g.filterMap fun w => if (regIds w.writes).any rf.contains then some ⟨117, w.word.pos⟩ else none)
/-- The words of a clause, group by group; a packet that holds a word of R135 or R136 ends the region. -/
def regionRun (f : RegionFact) (ws : List SeenWord) : RegionFact × List Diag :=
  let packets := unite [] (ws.map fun w => w.word.packet)
  packets.foldl (fun (s : RegionFact × List Diag) p =>
    let here := ws.filter fun w => w.word.packet == p
    let r := (unite [] (here.map SeenWord.group)).foldl (fun (s : RegionFact × List Diag) k =>
      let g := s.1.group (here.filter fun w => w.group == k)
      (g.1, s.2 ++ g.2)) s
    if here.any fun w => endsRegion w.word.instr then (.start, r.2) else r) (f, [])

/-- The checks of a meld (R250): OA116 and OA508. -/
def meldBad (w : SeenWord) : List Diag :=
  let isOpen := w.melds.any Meld.isOpen
  match w.word.instr with
  | .meld a =>
    let big := fun s => match knownAt w.known s with | some v => decide (5 < bitsOf v 60 4) | none => false
    if isOpen || big (a + 1) || big (a + 2) then [⟨116, w.word.pos⟩] else []
  | .exit => if isOpen then [⟨116, w.word.pos⟩] else []
  | .brs _ _ | .split _ => if isOpen then [⟨508, w.word.pos⟩] else []
  | _ => []

/-- `len` bytes from an offset reach beyond the allotment. -/
def beyond (size : Nat) (off : Int) (len : Nat) : Bool := decide (0 < len) && (decide (off < 0) || decide ((size : Int) < off + len))
/-- The same for offsets and lengths that may not be known. -/
def beyondKnown (size : Nat) (off len : Option Nat) : Bool :=
  match off, len with
  | some o, some n => beyond size o n
  | _, _ => false
/-- A scratchpad word with one offset for every lane. -/
def padBad (size : Nat) (ks : List Known) (z : Size) (b : SReg) (o : Off) : Bool :=
  match knownAt ks b, o with
  | some x, .imm n => beyond size (x + n.toNat * sizeBytes z : Nat) (sizeBytes z)
  | some x, .lit w => beyond size (x + w.toInt) (sizeBytes z)
  | _, _ => false
/-- A scratchpad operand of `MMAT`, as far as it can be evaluated. -/
def matBad (size : Nat) (ks : List Known) (rows : Nat) (a : MatSrc) (desc k : SReg) : Bool :=
  match a with
  | .regs _ => false
  | .pad s =>
    match knownAt ks s, knownAt ks (s + 1), knownAt ks desc, knownAt ks k with
    | some x, some y, some d, some k =>
      let m : MatOp := ⟨BitVec.ofNat 64 d, true, BitVec.ofNat 64 x, BitVec.ofNat 64 y, [], 0⟩
      match matFmt m.desc with
      | some f => decide (k ≤ 2 ^ 20) && !(m.inBounds rows k size f && m.scalesIn rows k size f)
      | none => false
    | _, _, _, _ => false
/-- Scratchpad offsets and lengths that can be evaluated (R252): OA118. -/
def scratchBad (p : PanelDecl) (w : SeenWord) : Bool :=
  let ks := w.known
  let size := p.scratch
  let at_ := knownAt ks
  match w.word.instr with
  | .ldp z _ b o _ | .ldpSpec z _ b o _ | .stp z _ b o _ => w.word.fixes.isEmpty && padBad size ks z b o
  | .cpy .g2p a _ x => beyondKnown size (at_ a) (at_ x)
  | .cpy .p2g _ b x => beyondKnown size (at_ b) (at_ x)
  | .cpy .p2p a b x => beyondKnown size (at_ a) (at_ x) || beyondKnown size (at_ b) (at_ x)
  | .cpyg z a _ _ => beyondKnown size (at_ a) (some (32 * sizeBytes z))
  | .splcfg _ a => beyondKnown size ((at_ (a + 1)).map fun v => bitsOf v 0 20) ((at_ a).map fun v => bitsOf v 32 7 * bitsOf v 16 16)
  | .mmatS _ _ a b da db kk => matBad size ks 64 a da kk || matBad size ks 64 b db kk
  | .mmatPair _ _ a b da db kk => matBad size ks 128 a da kk || matBad size ks 64 b db kk
  | .mload acc (.pad s) _ =>
    match at_ s with
    | some v => beyond size (bitsOf v 0 20) ((if p.pair && acc == 0 then 127 else 63) * bitsOf v 20 16 + 256)
    | none => false
  | _ => false
/-- A copy or spool length that is known and no multiple of 16 (OA507). -/
def lengthBad (w : SeenWord) : Bool :=
  let odd := fun v => match v with | some n => n % 16 != 0 | none => false
  match w.word.instr with
  | .cpy _ _ _ x | .cpySpl _ _ x => odd (knownAt w.known x)
  | .splcfg _ a => odd ((knownAt w.known a).map fun v => bitsOf v 16 16)
  | _ => false

/-! ### All of them -/

/-- The diagnostics of the paths of a program, errors and warnings together. -/
def flowDiags (code trap : List AsmClause) (syms : List Sym) (p : PanelDecl) : List Diag :=
  let g := graphOf code trap
  let n := g.clauses.length
  let starts := g.starts syms
  let clause := fun i => (g.clauses[i]?.map Prod.snd).getD ⟨⟨0, 15, 15, 0⟩, 0, [], 1, ⟨"", 0, []⟩⟩
  let groups := fun i => (clause i).groups
  let known := g.facts starts [] knownBoth (fun i ks => staleAll ((groups i).foldl knownAfter ks)) (64 * n + 2)
  let ks := fun i => (known.getD i none).getD []
  let melds := g.facts starts [Meld.closed] unite
    (fun i ms => ((groups i).foldl (fun (s : List Known × List Meld) gr => (knownAfter s.1 gr, meldAfter s.1 s.2 gr)) (ks i, ms)).2)
    (4 * n + 2)
  let seen := (List.range n).map fun i => seeGroups 0 (ks i) ((melds.getD i none).getD []) (groups i)
  let ws := fun i => seen.getD i []
  let gap := fun i => (clause i).hdr.gap
  let window := g.facts starts ([] : Window) unite
    (fun i f => windowOut (gap i + (groups i).length) (windowRun (gap i) (ws i) f)) 10
  let raised := g.facts starts ([] : List Nat) unite
    (fun i f => unite f ((ws i).filterMap fun w => ((clause i).hdr.flagOf w.word.instr).filter fun f => decide (f < 12))) (n + 2)
  let covered := g.facts starts ([] : Covered) unite
    (fun i f => unite (afterWait (clause i).hdr f) (coveredBy (clause i).hdr (ws i))) (n + 2)
  let region := g.facts starts RegionFact.start RegionFact.join (fun i f => (regionRun f (ws i)).1) (256 * n + 2)
  (List.range n).flatMap fun i =>
    match window.getD i none, raised.getD i none, covered.getD i none, region.getD i none with
    | some wf, some rf, some cf, some gf =>
      let c := clause i
      (if (List.range 12).any fun f => c.hdr.wait.testBit f && !rf.contains f then [⟨505, c.pos⟩] else []) ++
        windowBad c.hdr.gap (ws i) wf ++ coverBad (ws i) (afterWait c.hdr cf) ++ ownClauseBad (ws i) ++ (regionRun gf (ws i)).2 ++
        (ws i).flatMap meldBad ++
        ((ws i).filter (scratchBad p)).map (fun w => ⟨118, w.word.pos⟩) ++ ((ws i).filter lengthBad).map fun w => ⟨507, w.word.pos⟩
    | _, _, _, _ => []

end Sys2Proof.Machine
end

