-- ==== Sys2Proof/Machine/Digest.lean ====
section
/-! DEFINITION. SHA-384, as FIPS 180-4 gives it (R327, R361; log 13). -/

namespace Sys2Proof.Machine

/-! ### Constants: fractional parts of the cube roots of the first 80 primes, and of the square roots of the ninth to the
sixteenth -/

def shaK0 : List Dword :=
  [0x428A2F98D728AE22, 0x7137449123EF65CD, 0xB5C0FBCFEC4D3B2F, 0xE9B5DBA58189DBBC, 0x3956C25BF348B538,
   0x59F111F1B605D019, 0x923F82A4AF194F9B, 0xAB1C5ED5DA6D8118, 0xD807AA98A3030242, 0x12835B0145706FBE,
   0x243185BE4EE4B28C, 0x550C7DC3D5FFB4E2, 0x72BE5D74F27B896F, 0x80DEB1FE3B1696B1, 0x9BDC06A725C71235,
   0xC19BF174CF692694, 0xE49B69C19EF14AD2, 0xEFBE4786384F25E3, 0x0FC19DC68B8CD5B5, 0x240CA1CC77AC9C65]
def shaK1 : List Dword :=
  [0x2DE92C6F592B0275, 0x4A7484AA6EA6E483, 0x5CB0A9DCBD41FBD4, 0x76F988DA831153B5, 0x983E5152EE66DFAB,
   0xA831C66D2DB43210, 0xB00327C898FB213F, 0xBF597FC7BEEF0EE4, 0xC6E00BF33DA88FC2, 0xD5A79147930AA725,
   0x06CA6351E003826F, 0x142929670A0E6E70, 0x27B70A8546D22FFC, 0x2E1B21385C26C926, 0x4D2C6DFC5AC42AED,
   0x53380D139D95B3DF, 0x650A73548BAF63DE, 0x766A0ABB3C77B2A8, 0x81C2C92E47EDAEE6, 0x92722C851482353B]
def shaK2 : List Dword :=
  [0xA2BFE8A14CF10364, 0xA81A664BBC423001, 0xC24B8B70D0F89791, 0xC76C51A30654BE30, 0xD192E819D6EF5218,
   0xD69906245565A910, 0xF40E35855771202A, 0x106AA07032BBD1B8, 0x19A4C116B8D2D0C8, 0x1E376C085141AB53,
   0x2748774CDF8EEB99, 0x34B0BCB5E19B48A8, 0x391C0CB3C5C95A63, 0x4ED8AA4AE3418ACB, 0x5B9CCA4F7763E373,
   0x682E6FF3D6B2B8A3, 0x748F82EE5DEFB2FC, 0x78A5636F43172F60, 0x84C87814A1F0AB72, 0x8CC702081A6439EC]
def shaK3 : List Dword :=
  [0x90BEFFFA23631E28, 0xA4506CEBDE82BDE9, 0xBEF9A3F7B2C67915, 0xC67178F2E372532B, 0xCA273ECEEA26619C,
   0xD186B8C721C0C207, 0xEADA7DD6CDE0EB1E, 0xF57D4F7FEE6ED178, 0x06F067AA72176FBA, 0x0A637DC5A2C898A6,
   0x113F9804BEF90DAE, 0x1B710B35131C471B, 0x28DB77F523047D84, 0x32CAAB7B40C72493, 0x3C9EBE0A15C9BEBC,
   0x431D67C49C100D4C, 0x4CC5D4BECB3E42B6, 0x597F299CFC657E2A, 0x5FCB6FAB3AD6FAEC, 0x6C44198C4A475817]
/-- The 80 round constants. -/
def shaK : List Dword := shaK0 ++ shaK1 ++ shaK2 ++ shaK3
/-- The initial hash value of SHA-384. -/
def shaIv : List Dword :=
  [0xCBBB9D5DC1059ED8, 0x629A292A367CD507, 0x9159015A3070DD17, 0x152FECD8F70E5939, 0x67332667FFC00B31,
   0x8EB44A8768581511, 0xDB0C2E0D64F98FA7, 0x47B5481DBEFA4FA4]

/-! ### The compression function -/

def shaCh (x y z : Dword) : Dword := (x &&& y) ^^^ (~~~x &&& z)
def shaMaj (x y z : Dword) : Dword := (x &&& y) ^^^ (x &&& z) ^^^ (y &&& z)
def shaS0 (x : Dword) : Dword := x.rotateRight 28 ^^^ x.rotateRight 34 ^^^ x.rotateRight 39
def shaS1 (x : Dword) : Dword := x.rotateRight 14 ^^^ x.rotateRight 18 ^^^ x.rotateRight 41
def shaG0 (x : Dword) : Dword := x.rotateRight 1 ^^^ x.rotateRight 8 ^^^ x >>> 7
def shaG1 (x : Dword) : Dword := x.rotateRight 19 ^^^ x.rotateRight 61 ^^^ x >>> 6

/-- The eight working variables. -/
structure Sha where
  a : Dword
  b : Dword
  c : Dword
  d : Dword
  e : Dword
  f : Dword
  g : Dword
  h : Dword
  deriving DecidableEq, Repr

/-- One round, with the next word of the message schedule: `w` holds the sixteen words from the present one on. -/
def shaRound (k : Dword) (s : Sha) (w : List Dword) : Sha × List Dword :=
  let w0 := w.headD 0
  let t1 := s.h + shaS1 s.e + shaCh s.e s.f s.g + k + w0
  let t2 := shaS0 s.a + shaMaj s.a s.b s.c
  let next := shaG1 (w.getD 14 0) + w.getD 9 0 + shaG0 (w.getD 1 0) + w0
  (⟨t1 + t2, s.a, s.b, s.c, s.d + t1, s.e, s.f, s.g⟩, w.tail ++ [next])
def shaRounds : List Dword → Sha → List Dword → Sha
  | [], s, _ => s
  | k :: ks, s, w => let r := shaRound k s w; shaRounds ks r.1 r.2
/-- Sixteen big-endian words of a block. -/
def shaWords (bs : List Byte) : List Dword := (List.range 16).map fun i => BitVec.ofNat 64 (beNat ((bs.drop (8 * i)).take 8))
/-- One block. -/
def shaBlock (h : Sha) (bs : List Byte) : Sha :=
  let r := shaRounds shaK h (shaWords bs)
  ⟨h.a + r.a, h.b + r.b, h.c + r.c, h.d + r.d, h.e + r.e, h.f + r.f, h.g + r.g, h.h + r.h⟩
/-- The blocks of a padded message. -/
def shaBlocks : Nat → List Byte → Sha → Sha
  | 0, _, h => h
  | n + 1, bs, h => shaBlocks n (bs.drop 128) (shaBlock h (bs.take 128))

/-- The message with its padding: a one bit, zeros, and the length in bits. -/
def shaPad (bs : List Byte) : List Byte :=
  let n := bs.length
  bs ++ [0x80] ++ List.replicate ((239 - n % 128) % 128) 0 ++ beBytes 16 (8 * n)

/-- SHA-384 of a message: 48 bytes. -/
def sha384 (bs : List Byte) : List Byte :=
  let p := shaPad bs
  let i := fun n => shaIv.getD n 0
  let h := shaBlocks (p.length / 128) p ⟨i 0, i 1, i 2, i 3, i 4, i 5, i 6, i 7⟩
  [h.a, h.b, h.c, h.d, h.e, h.f].flatMap fun w => beBytes 8 w.toNat

end Sys2Proof.Machine
end

