-- ==== Sys2Proof/Machine/AsmFile.lean ====
section
/-! DEFINITION. The assembler as a whole (R247, R253, R254): its options, the container that it writes (R255, R256), the portable
form (R258) and the listing (R246), and the finalisation of a portable form (R257). -/

namespace Sys2Proof.Machine

/-! ### Assembling lines -/

/-- What becomes of the lines of a program: its sections and the diagnostics of its words and of its paths. -/
structure Program where
  asm : Asm
  diags : List Diag

/-- Whether a diagnostic is an error (R247); with -Werror a warning is one too. -/
def isError (werror : Bool) (d : Diag) : Bool := werror || decide (d.code < 500)
def Asm.codeClauses (s : Asm) : List AsmClause := s.code.reverse
def Asm.trapClauses (s : Asm) : List AsmClause := s.trap.reverse
def Asm.panelDecl (s : Asm) : PanelDecl := s.panel.getD PanelDecl.default
/-- Lay the items out, and check the paths where every word stands. -/
def assembleItems (items : List (Where × Item)) (defs : List (String × Expr)) (given : List Sym) : Program :=
  let s := layOut items defs given
  let flow := if s.errs.isEmpty then flowDiags s.codeClauses s.trapClauses s.syms s.panelDecl else []
  ⟨s, s.errs.reverse ++ s.warns.reverse ++ flow⟩

/-! ### Finalisation (R257, R258) -/

/-- A symbol of a container: name, section, kind and value. -/
structure Symbol where
  name : String
  sect : Nat
  kind : Nat
  value : Nat
  deriving DecidableEq, Repr

/-- The items that portable text may hold (R258); OA101 for another. -/
def portableItem (it : Where × Item) : Where × Item :=
  match it.2 with
  | .sect .code | .sect .trap | .panel _ | .clause _ | .label _ | .word _ _ _ => it
  | _ => (it.1, .bad 101)
/-- The error of the lowest line.  DESIGN CHOICE: of several errors the record carries this one (log 52). -/
def firstError (ds : List Diag) : Option Diag :=
  (ds.filter (isError false)).foldl (fun (b : Option Diag) d =>
    match b with
    | some x => if d.pos.line < x.pos.line then some d else some x
    | none => some d) none
/-- The program that portable text is, with the symbols that it does not define itself, or the diagnostic that refuses it. -/
def finaliseText (text : List Byte) (given : List Sym) : Except Nat Asm :=
  let p := assembleItems (((linesOf "" text).flatMap itemsOf).map portableItem) [] given
  match firstError p.diags with
  | some d => .error d.code
  | none => .ok p.asm

/-! ### The container (R255, R256) -/

/-- Fill up to a multiple of 16 bytes. -/
def fill16 (bs : List Byte) : List Byte := bs ++ List.replicate ((16 - bs.length % 16) % 16) 0
/-- An entry of the section table. -/
def sectEntry (ty rev flags off size : Nat) : List Byte :=
  leBytes 2 ty ++ leBytes 2 rev ++ leBytes 4 flags ++ leBytes 8 off ++ leBytes 8 size ++ leBytes 8 0
/-- The table entries and the bytes of sections from a file offset on. -/
def layFile : Nat → List (Nat × Nat × Nat × List Byte) → List Byte × List Byte
  | _, [] => ([], [])
  | off, (ty, rev, flags, bs) :: t =>
    let r := layFile (off + (fill16 bs).length) t
    (sectEntry ty rev flags off bs.length ++ r.1, fill16 bs ++ r.2)
/-- A container of sections (type, revision, flags, bytes), Table 8.4. -/
def containerOf (ss : List (Nat × Nat × Nat × List Byte)) : List Byte :=
  let start := 64 + 32 * ss.length
  let p := layFile start ss
  let rest := p.1 ++ p.2
  leBytes 4 0x3156554F ++ leBytes 2 1 ++ leBytes 2 ss.length ++ sha384 rest ++ leBytes 8 0 ++ rest
/-- The panel metadata record. -/
def PanelDecl.bytes (p : PanelDecl) : List Byte :=
  leBytes 1 p.skeins ++ leBytes 1 (p.scratch / 4096) ++ leBytes 1 p.acc ++ leBytes 1 (if p.pair then 1 else 0) ++
    leBytes 1 (if p.quad then 1 else 0) ++ List.replicate 11 0
def nameBytes (n : String) : List Byte := (n.toList.map fun c => BitVec.ofNat 8 c.toNat) ++ [0]
/-- The symbol section: entries, then the names. -/
def symbolSection (ys : List Symbol) : List Byte :=
  let r := ys.foldl (fun (p : List Byte × List Byte) y =>
    (p.1 ++ leBytes 4 (24 * ys.length + p.2.length) ++ leBytes 2 y.sect ++ leBytes 2 y.kind ++ leBytes 8 y.value ++ leBytes 8 0,
      p.2 ++ nameBytes y.name)) ([], [])
  r.1 ++ r.2
/-- A relocation entry. -/
def relocEntry (ys : List Symbol) (sect : Nat) (p : Nat × Fix) : List Byte :=
  leBytes 8 p.1 ++ leBytes 2 p.2.ty ++ leBytes 2 sect ++ leBytes 4 ((ys.findIdx? fun y => y.name == p.2.sym).getD 0) ++
    leBytes 8 (p.2.add % 2 ^ 64).toNat
def codeBytes (ws : List Word) : List Byte := ws.flatMap fun w => leBytes 4 w.toNat

/-! ### Portable text (R258) -/

/-- A number in hexadecimal, without underscores. -/
def hexPlain (n : Nat) : List Char := (hexN n).toList.filter (· != '_')
/-- An operand's value as text: a symbol and its addend where its place matters, else the whole value. -/
def WordCtx.valueText (x : WordCtx) (place : Bool) (t : List Char) : List Char :=
  match x.value t with
  | .ok v =>
    match if place then v.rel else none with
    | some (s, 0) => s.toList
    | some (s, k) => s.toList ++ [' ', '+', ' '] ++ hexPlain (k % 2 ^ 64).toNat
    | none => hexPlain (v.n % 2 ^ 64).toNat
  | .error _ => t
/-- Forms whose immediate may stand for an address or a packet (R256), and forms that name a selector. -/
def Form.placed : Form → Bool
  | .jump _ | .sjump _ | .sssImm _ _ _ | .slui | .vvxImm _ _ _ | .vImm => true
  | _ => false
def Form.selects : Form → Bool
  | .sget | .sput | .sysr | .sysw | .xread | .xwrite | .xresume => true
  | _ => false
/-- A memory operand in canonical spelling. -/
def WordCtx.memCanon (x : WordCtx) (m : MemText) : List Char :=
  let sp := match m.space with | .glob => [] | .pad => ['p', ':', ' '] | .bank => ['c', ':', ' ']
  let reg := fun (r : Nat) => if r = 60 then ['e', 'm'] else if r = 61 then ['p', 'm'] else if r = 62 then ['l', 'r']
    else if r = 63 then ['z', 'e', 'r', 'o'] else 's' :: (dec r).toList
  let vec := match m.vec with | some v => [' ', '+', ' ', 'v'] ++ (dec v.toNat).toList | none => []
  let imm := match m.imm with | some t => [' ', '+', ' '] ++ x.valueText (m.space == .glob) t | none => []
  ['['] ++ sp ++ reg m.base.toNat ++ vec ++ imm ++ [']']
/-- An operand in canonical spelling. -/
def WordCtx.operandCanon (x : WordCtx) (f : Form) (t : List Char) : List Char :=
  let l := lowerAll t
  if isSreg t || isVreg t || accRegOf t != .error 102 then l
  else
    match memText t, t.contains '=' with
    | .ok m, _ => x.memCanon m
    | _, true =>
      let k := l.takeWhile (· != '=')
      let v := trim ((t.dropWhile (· != '=')).drop 1)
      trim k ++ ['='] ++ (if isSreg v || (lettered 'f' (lowerAll v)).isSome then lowerAll v else x.valueText false v)
    | _, _ => if f.selects then l else x.valueText f.placed t
def upperChar (c : Char) : Char := if 97 ≤ c.toNat && c.toNat ≤ 122 then Char.ofNat (c.toNat - 32) else c
/-- A mnemonic with every suffix, in upper case. -/
def mnemonicCanon (f : Form) (mn : List Char) : List Char :=
  let parts := (splitAt1 '.' (lowerAll mn)).map str
  let bare := (parts.getLast?.bind sizeOf).isNone
  let tail :=
    match f with
    | .mem _ _ _ | .atom _ _ => if bare then ['.', 'W'] else []
    | .vvxImm _ _ _ | .vvxShift _ _ | .vx _ => if parts.length = 1 then ['.', 'W'] else []
    | _ => []
  mn.map upperChar ++ tail
/-- Words by commas. -/
def commaJoin : List (List Char) → List Char
  | [] => []
  | [x] => x
  | x :: t => x ++ [',', ' '] ++ commaJoin t
def flagsText (fs : List Nat) : List Char :=
  match fs with
  | [] => []
  | [f] => 'f' :: (dec f).toList
  | f :: t => 'f' :: (dec f).toList ++ [','] ++ flagsText t
/-- The set field of a header; a field of 12 to 15 names no flag. -/
def Header.setText (h : Header) : List Char := flagsText ([h.setA, h.setB].filter fun f => decide (f < 12))
def Header.text (h : Header) : List Char :=
  ".clause wait=".toList ++ flagsText ((List.range 12).filter fun f => h.wait.testBit f) ++ " set=".toList ++ h.setText ++
    " gap=".toList ++ hexPlain h.gap
def PanelDecl.text (p : PanelDecl) : List Char :=
  ".panel skeins=".toList ++ hexPlain p.skeins ++ " scratch=".toList ++ hexPlain p.scratch ++ " acc=".toList ++ hexPlain p.acc ++
    (if p.pair then " pair=on" else " pair=off").toList ++ (if p.quad then " l1=quad" else " l1=core").toList
/-- The lines of portable text: the items of the code sections, in source order. -/
def portableLines (items : List (Where × Item)) (defs : List (String × Expr)) (s : Asm) : List (List Char) :=
  let x : WordCtx := ⟨s.syms, defs ++ equsOf items, 15, 15, false, 0, 0⟩
  (items.foldl (fun (a : Bool × List (List Char)) it =>
    let put := fun (l : List Char) => if a.1 then (a.1, l :: a.2) else a
    match it.2 with
    | .sect .code => (true, ".section code".toList :: a.2)
    | .sect .trap => (true, ".section code,trap".toList :: a.2)
    | .sect _ => (false, a.2)
    | .panel _ => put s.panelDecl.text
    | .clause t => put (match x.header t with | .ok h => h.text | .error _ => [])
    | .label n => put (n.toList ++ [':'])
    | .word chain mn ops =>
      match formOf mn with
      | some f =>
        let os := ops.map (x.operandCanon f)
        put ((if chain then ['|', ' '] else []) ++ mnemonicCanon f mn ++ (if os.isEmpty then [] else ' ' :: commaJoin os))
      | none => a
    | _ => a) (false, [])).2.reverse
/-- The portable section (Table 8.7). -/
def portableSection (ls : List (List Char)) : List Byte :=
  let text := ls.flatMap fun l => (l ++ ['\n']).map fun c => BitVec.ofNat 8 c.toNat
  leBytes 4 0x4D524650 ++ leBytes 2 1 ++ leBytes 2 0 ++ leBytes 4 ls.length ++ leBytes 4 text.length ++ List.replicate 16 0 ++ text

/-! ### The listing (R246) -/

/-- Numbers from 0 as three hexadecimal digits or more. -/
def hexMin3 (n : Nat) : String := hexK (max 3 (n.log2 / 4 + 1)) n
/-- A row of the listing. -/
def listRow (packet slot : Nat) (w : Word) (source : String) : String :=
  "| " ++ dec packet ++ " | " ++ hexMin3 (12 * packet + 4 * slot) ++ " | " ++ dec slot ++ " | " ++ hexK 8 w.toNat ++ " | " ++ source ++ " |"
/-- The rows of a clause: its header, its words and literals, the `NOP`s inserted and those that fill its last packet. -/
def AsmClause.listing (source : Where → String) (c : AsmClause) : List String :=
  let h := c.hdr
  let head := source c.pos ++ ": setA " ++ dec h.setA ++ ", setB " ++ dec h.setB ++ ", len " ++ dec (c.len - 1)
  let words := c.words.flatMap fun w =>
    match encode w.chain w.instr with
    | [x] => [listRow w.packet w.slot x (if w.inserted then "NOP (inserted)" else source w.pos)]
    | [x, l] => [listRow w.packet w.slot x (source w.pos), listRow w.packet (w.slot + 1) l "literal"]
    | _ => []
  let used := words.length + 1
  listRow c.first 0 (c.words32.headD 0) head :: words ++
    (List.range (3 * c.len - used)).map fun k => listRow (c.first + (used + k) / 3) ((used + k) % 3) 0 "NOP (padding)"

/-! ### The command (R254) -/

structure AsmOptions where
  sources : List String
  output : String
  portable : Bool
  defs : List (String × Expr)
  dirs : List String
  listing : Option String
  werror : Bool
  wpad : Bool
  deriving DecidableEq, Repr

/-- The arguments of `ouvas`; none is a usage fault.  Revision 2 is the only one that the manual has (R254; log 52). -/
def parseArgs : List String → AsmOptions → Option AsmOptions
  | [], o => if o.sources.isEmpty || o.output.isEmpty then none else some o
  | "-r" :: n :: t, o => if n = "2" then parseArgs t o else none
  | "-p" :: t, o => parseArgs t { o with portable := true }
  | "-D" :: d :: t, o =>
    let n := d.toList.takeWhile (· != '=')
    match (d.toList.dropWhile (· != '=')), parseExpr ((d.toList.dropWhile (· != '=')).drop 1) with
    | '=' :: _, some e => if n.all isName && !n.isEmpty then parseArgs t { o with defs := o.defs ++ [(str n, e)] } else none
    | _, _ => none
  | "-I" :: d :: t, o => parseArgs t { o with dirs := o.dirs ++ [d] }
  | "-l" :: f :: t, o => parseArgs t { o with listing := some f }
  | "-Werror" :: t, o => parseArgs t { o with werror := true }
  | "-Wpad" :: t, o => parseArgs t { o with wpad := true }
  | "-o" :: f :: t, o => parseArgs t { o with output := f }
  | a :: t, o => if a.toList.head? == some '-' then none else parseArgs t { o with sources := o.sources ++ [a] }
def AsmOptions.none : AsmOptions := ⟨[], "", false, [], [], Option.none, false, false⟩

/-- What a run of the assembler leaves: its exit status, its diagnostics, and the files that it writes. -/
structure AsmRun where
  status : Nat
  diags : List Diag
  files : List (String × List Byte)
  deriving DecidableEq, Repr

def textBytes (ls : List String) : List Byte := ls.flatMap fun l => (l.toList ++ ['\n']).map fun c => BitVec.ofNat 8 c.toNat
/-- The sections of a container, in order: code, trap code, portable form, panel, symbols, relocations, const, data, meta; one
that would hold nothing is left out, but for the panel.  DESIGN CHOICE: the order (log 52). -/
def programSections (o : AsmOptions) (items : List (Where × Item)) (s : Asm) : List (Nat × Nat × Nat × List Byte) :=
  let code := codeBytes (sectionWords s.codeClauses)
  let trap := codeBytes (sectionWords s.trapClauses)
  let body : List (Nat × Nat × Nat × List Byte) :=
    [(1, 2, 0, code)] ++ (if trap.isEmpty then [] else [(1, 2, 1, trap)]) ++
      (if o.portable then [(2, 0, 0, portableSection (portableLines items o.defs s))] else []) ++ [(3, 0, 0, s.panelDecl.bytes)]
  let rest : List (Nat × Nat × Nat × List Byte) := [(6, 0, 0, s.const), (7, 0, 0, s.data), (8, 0, 0, s.metaBytes)].filter fun x => !x.2.2.2.isEmpty
  let index := fun (ty flags : Nat) =>
    match body.findIdx? fun x => x.1 == ty && x.2.2.1 == flags with
    | some i => i
    | none => body.length + 2 + (rest.findIdx? fun x => x.1 == ty).getD 0
  let equs := o.defs ++ equsOf items
  let labels := s.syms.reverse.map fun y =>
    match y.kind with
    | .code t _ => (⟨y.name, index 1 (if t then 1 else 0), 0, y.value⟩ : Symbol)
    | .other ty => ⟨y.name, index ty 0, 0, y.value⟩
    | .const => ⟨y.name, 0, 1, y.value⟩
  let consts := equs.filterMap fun e =>
    match lookUp s.syms equs (equs.length + 1) e.1 with
    | .ok v => some (⟨e.1, 0, 1, v.n.toNat⟩ : Symbol)
    | .error _ => none
  let ys := labels ++ consts
  let relocs := (sectionFixes s.codeClauses).flatMap (relocEntry ys (index 1 0)) ++ (sectionFixes s.trapClauses).flatMap (relocEntry ys (index 1 1))
  body ++ [(4, 0, 0, symbolSection ys), (5, 0, 0, relocs)] ++ rest
/-- `ouvas`: 0 on success, 1 when an error was reported, 2 for a usage fault (R254).  A file that cannot be read is a usage fault
(log 52). -/
def ouvas (look : String → Option (List Byte)) (args : List String) : AsmRun :=
  match parseArgs args AsmOptions.none with
  | none => ⟨2, [], []⟩
  | some o =>
    let find := fun f => (f :: o.dirs.map fun d => d ++ "/" ++ f).findSome? look
    match (o.sources.mapM fun f => (look f).map (linesOf f)).bind fun ls => insertFiles find 64 ls.flatten with
    | none => ⟨2, [], []⟩
    | some ls =>
      match expandSource ls with
      | .error d => ⟨1, [d], []⟩
      | .ok ls =>
        let items := ls.flatMap itemsOf
        let p := assembleItems items o.defs []
        let ds := p.diags.filter fun d => o.wpad || d.code != 506
        if ds.any (isError o.werror) then ⟨1, ds, []⟩
        else
          let source := fun (w : Where) => match ls.find? fun l => l.pos = w with | some l => str l.clean | none => ""
          let rows := (p.asm.codeClauses ++ p.asm.trapClauses).flatMap (AsmClause.listing source)
          ⟨0, ds, (o.output, containerOf (programSections o items p.asm)) ::
            match o.listing with | some f => [(f, textBytes rows)] | none => []⟩

end Sys2Proof.Machine
end

