-- ==== Sys2Proof/Machine/Paging.lean ====
section
/-! DEFINITION. Page walks that end (R301), the driver's answers to page faults (R334 to R336), and changes of the tables:
updates, shootdowns and page moves (R299, R302, R304, R359). -/

namespace Sys2Proof.Machine

/-! ### Walks -/

/-- The translation of a page, with what every entry of its walk permits (R300). -/
def State.walkEntry (s : State) (core ctx page : Nat) : Option TlbEntry :=
  let walk := fun (n : Need) => walkFrom s.mem (s.core core).world (page * 4096) n 4 (s.context ctx).root
  let may := fun (n : Need) => match walk n with | .ok _ => true | .error _ => false
  match walk ⟨false, false, false⟩ with
  | .error _ => none
  | .ok (e, l) => some ⟨ctx, page, e, pteFrame e + page * 4096 % 2 ^ (12 + 9 * l), may needR, may needW, may needX⟩
/-- A translation takes a place among at most `n`, the oldest of which goes. -/
def keepEntry (n : Nat) (t : TlbEntry) (ts : List TlbEntry) : List TlbEntry :=
  if ts.contains t then ts else (ts ++ [t]).drop (ts.length + 1 - n)
/-- `WALK_COMPLETE` (R301): the walk of this name puts its page into the TLB of its quad and of its core, or finds its fault,
which the words that asked have taken already; a page that the quad held comes to the core as it was there.  Where there is
no walk nothing changes. -/
def execWalkComplete (id : Nat) (s : State) : Out :=
  match Tab.find? id s.walks with
  | none => .next s
  | some w =>
    let s := { s with walks := Tab.del id s.walks }
    match ((s.quadTlb w.core).find? fun t => t.ctx == w.ctx && t.page == w.page).or (s.walkEntry w.core w.ctx w.page) with
    | none => .next s
    | some t =>
      let c := s.core w.core
      let s := { s with quadTlbs := Tab.put (w.core / 4) (keepEntry quadEntries t (s.quadTlb w.core)) s.quadTlbs }
      .next (s.setCore w.core { c with tlb := keepEntry tlbEntries t c.tlb })

/-! ### Replays (R335) -/

/-- The replay of a `CPY.spl` that a save withdrew: it is issued afresh, into the open batch, and claims a slot (R340). -/
def State.replaySpl (s : State) (k n sp : Nat) : State :=
  let w := s.whoOf k
  let e := Tab.get LogEntry.free (s.skein k).oplog n
  let s := (s.freeEntry k n).modSkein k fun x => x.joinBatch []
  let y := (s.panel w.panel).spool sp
  let batch := (s.skein k).openBatch.num
  let v : Dword := Tab.get 0 e.data1 0 ++ Tab.get 0 e.data0 0
  let len := bitsOf e.sx.toNat 0 32
  match (if y.count = 0 then .error 2 else s.objectPtr w false v : Except Nat (Option Ptr)) with
  | .error c => s.modSkein k (Skein.copyEnded batch (some (BitVec.ofNat 8 c, e.sbase)))
  | .ok obj =>
    (s.setSpool w.panel sp y.claim).addOpAt w e.place none (s.dmode w)
      (.copy (.pad (y.slot y.nextClaim)) (.glob e.sbase.toNat) len len obj batch (some (sp, y.nextClaim)) none false)

/-- The replay of entry `n` of a skein, by the word it holds; one that is on its way already goes on. -/
def State.replay (s : State) (k n : Nat) : State :=
  if s.replaying k n then s else
  match (Tab.get LogEntry.free (s.skein k).oplog n).instr with
  | .ld z d _ o _ => s.replayLoad ⟨.glob, false, false, none⟩ k n z d o
  | .ldByp z d _ o _ => s.replayLoad ⟨.glob, false, true, none⟩ k n z d o
  | .ldAcqCore z d _ o _ => s.replayLoad ⟨.glob, false, false, some .core⟩ k n z d o
  | .ldAcqQuad z d _ o _ => s.replayLoad ⟨.glob, false, false, some .quad⟩ k n z d o
  | .ldAcqDie z d _ o _ => s.replayLoad ⟨.glob, false, false, some .die⟩ k n z d o
  | .ldAcqPkg z d _ o _ => s.replayLoad ⟨.glob, false, false, some .pkg⟩ k n z d o
  | .ldAcqPod z d _ o _ => s.replayLoad ⟨.glob, false, false, some .pod⟩ k n z d o
  | .ldc z d _ o _ => s.replayLoad ⟨.bank, false, false, none⟩ k n z d o
  | .st z _ _ o _ | .stRelCore z _ _ o _ | .stRelQuad z _ _ o _ | .stRelDie z _ _ o _ | .stRelPkg z _ _ o _
  | .stRelPod z _ _ o _ => s.replayStore k n z o
  | .atom op wide d _ _ _ => s.replayAtom k n op wide false d
  | .red op wide d _ _ _ => s.replayAtom k n op wide true d
  | .redbv _ _ _ => s.replayRedbv k n
  | .ldtol kk d _ _ _ => s.replayLdtol k n kk d
  | .bari sc _ _ => s.replayBarrier k n sc (some (.init ((Tab.get LogEntry.free (s.skein k).oplog n).sx.setWidth 32)))
  | .bara sc _ => s.replayBarrier k n sc (some .arrive)
  | .bar sc _ => s.replayBarrier k n sc (some .arriveWait)
  | .bexp sc _ _ => s.replayBarrier k n sc (some (.expect ((Tab.get LogEntry.free (s.skein k).oplog n).sx.setWidth 32)))
  | .cpySpl sp _ _ => s.replaySpl k n sp.toNat
  | _ => s.freeEntry k n

/-- The entries of a context that wait for a page in [lo, hi), in the order they were logged: skein and entry. -/
def State.entriesOf (s : State) (ctx lo hi : Nat) : List (Nat × Nat) :=
  let all : Tab (Nat × Nat) := s.skeins.foldl (fun t q =>
    if (s.launch (s.panel q.2.panel).launch).block.context == ctx then
      q.2.oplog.foldl (fun t e =>
        if e.2.valid && !e.2.cont && decide (lo ≤ e.2.page.toNat) && decide (e.2.page.toNat < hi) then
          Tab.put e.2.order (q.1, e.1) t
        else t) t
    else t) []
  all.map Prod.snd
/-- The copies of a context that have asked for a page in [lo, hi) change what they hold. -/
def State.answerCopies (s : State) (ctx lo hi : Nat) (f : OpKind → OpKind) : State :=
  { s with ops := s.ops.map fun q =>
      let hit := match q.2.kind with
        | .copy _ _ _ _ _ _ _ (some p) _ | .gather _ _ _ (some p) _ => decide (lo ≤ p) && decide (p < hi)
        | _ => false
      if hit && (s.launch q.2.launch).block.context == ctx then (q.1, { q.2 with kind := f q.2.kind }) else q }
/-- Pages of a range are resolved: their entries replay in the order they were logged, and copies go on (R205, R335). -/
def State.resolvePages (s : State) (ctx lo hi : Nat) : State :=
  let es := s.entriesOf ctx lo hi
  es.foldl (fun s e => s.replay e.1 e.2) (s.answerCopies ctx lo hi (OpKind.ask none))

/-- `FAULT_RESOLUTION_POSTED` (R335). -/
def execFaultResolutionPosted (ctx page : Nat) (s : State) : Out := .next (s.resolvePages ctx page (page + 4096))

/-- The address of a lane of an entry, as its word computes it. -/
def State.entryAddr (s : State) (w : Who) (e : LogEntry) (l : Nat) : Nat :=
  match e.instr with
  | .ld z _ _ o _ | .ldByp z _ _ o _ | .ldAcqCore z _ _ o _ | .ldAcqQuad z _ _ o _ | .ldAcqDie z _ _ o _
  | .ldAcqPkg z _ _ o _ | .ldAcqPod z _ _ o _ | .st z _ _ o _ | .stRelCore z _ _ o _ | .stRelQuad z _ _ o _
  | .stRelDie z _ _ o _ | .stRelPkg z _ _ o _ | .stRelPod z _ _ o _ => e.addr o (sizeBytes z) l
  | .ldc z _ _ o _ => s.placeOf w .bank (sizeBytes z) (e.addr o (sizeBytes z) l)
  | .atom _ _ _ _ _ _ | .red _ _ _ _ _ _ | .redbv _ _ _ | .ldtol _ _ _ _ _ => e.addr (.vec 0) 4 l
  | _ => e.sbase.toNat
/-- A refused entry raises FAULT with its code and is freed; one whose replay is on its way waits for its page no more. -/
def State.refuseEntry (s : State) (k n : Nat) : State :=
  if s.replaying k n then s else
  let w := s.whoOf k
  let e := Tab.get LogEntry.free (s.skein k).oplog n
  let s := match e.instr with | .bar _ _ => s.modSkein k fun x => { x with bar := none } | _ => s
  s.faultEntry k n e.code.toNat (s.entryAddr w e (e.lanes.headD 0))
/-- A copy learns that its page is refused. -/
def OpKind.refuse : OpKind → OpKind
  | .copy d s l f o b sp p _ => .copy d s l f o b sp p true
  | .gather n ls b p _ => .gather n ls b p true
  | k => k
/-- `FAULT_REFUSAL_POSTED` (R335, R205): the entries that wait for the page end in FAULT, and copies end with the page's
code.  The traps of one core are raised in one cycle, so in ascending skein slot (R330). -/
def execFaultRefusalPosted (ctx page : Nat) (s : State) : Out :=
  let es := s.entriesOf ctx page (page + 4096)
  let es := (s.skeins.map Prod.fst).flatMap fun k => es.filter fun e => e.1 == k
  .next (es.foldl (fun s e => s.refuseEntry e.1 e.2) (s.answerCopies ctx page (page + 4096) OpKind.refuse))

/-! ### The tables -/

/-- The device-owned leaves under a table: physical base, level, entry. -/
def leavesFrom (m : MemSys) : Nat → Nat → List (Nat × Nat × BitVec 64)
  | 0, table =>
    (List.range 512).filterMap fun i =>
      let e := BitVec.ofNat 64 (m.homeNat (table + 8 * i) 8)
      if pteV e && pteOwner e == 0 then some (pteFrame e, 0, e) else none
  | k + 1, table =>
    (List.range 512).flatMap fun i =>
      let e := BitVec.ofNat 64 (m.homeNat (table + 8 * i) 8)
      if !pteV e then [] else
      if !pteLeaf e then leavesFrom m k (pteFrame e) else if pteOwner e == 0 then [(pteFrame e, k + 1, e)] else []
/-- The leaves of every context that map a frame with a nonzero world (R351). -/
def State.protectedLeaves (s : State) : List (Nat × Nat × BitVec 64) :=
  (s.contexts.flatMap fun c => leavesFrom s.mem 4 c.2.root).filter fun l => pteWorld l.2.2 != 0
/-- A physical address lies in a protected frame (R351). -/
def inLeaves (ls : List (Nat × Nat × BitVec 64)) (pa : Nat) : Bool :=
  ls.any fun l => decide (l.1 ≤ pa) && decide (pa < l.1 + 2 ^ (12 + 9 * l.2.1))

/-- A write by an agent of a die itself. -/
def State.agentWrite (s : State) (die : Nat) (bs : List (Nat × Byte)) : State := s.writeHome (die * 64) bs

/-- `TABLE_UPDATE` (R299): the entry is written at the home slice of its address. -/
def execTableUpdate (pa : Nat) (entry : BitVec 64) (s : State) : Out :=
  .next (s.agentWrite (dieOf pa) ((leBytes 8 entry.toNat).zipIdx.map fun b => (pa / 8 * 8 + b.2, b.1)))

/-- A virtual page of a range. -/
def inRange (lo hi page : Nat) : Bool := decide (lo / 4096 ≤ page) && decide (page * 4096 < hi)
/-- A staged operation was translated under an entry of a range. -/
def Op.stagedIn (o : Op) (lo hi : Nat) : Bool :=
  o.staged && (o.pages.any (inRange lo hi) ||
    match o.kind with
    | .redbv as => as.any fun a => inRange lo hi a.page
    | .barrier _ (.phys _) _ va => inRange lo hi (pageOf va.toNat)
    | _ => false)
/-- Something that the context has translated under an entry of the range is still to be performed, or accepted, by an act of
its own: a `REDBV` lane, an `LDTOL`, what is staged for a commit (R302). -/
def State.updatesOpen (s : State) (ctx lo hi : Nat) : Bool :=
  s.ops.any fun q => (s.launch q.2.launch).block.context == ctx &&
    (q.2.stagedIn lo hi || (!q.2.staged && match q.2.kind with | .redbv _ | .ldtol _ _ _ => true | _ => false))
/-- Perform at once every atomic and barrier update in flight, in order of age (R302). -/
def State.performUpdates (s : State) : State :=
  s.ops.foldl (fun s q =>
    if q.2.staged || (s.op q.1).isNone then s else
    match q.2.kind with
    | .atomic op wide red pad ls => ((s.delOp q.1).doAtomic q.2 pad op wide red ls).endFlag q.2
    | .barrier upd p sc va => (s.delOp q.1).doBarrier q.2 upd p sc va
    | _ => s) s
/-- Translations of a range leave every core, and load-rooted lineage is untagged everywhere (R38, R302). -/
def State.dropTranslations (s : State) (ctx lo hi : Nat) : State :=
  let out := fun (c p : Nat) => !(c == ctx && inRange lo hi p)
  let s := { s with
    cores := Tab.mapv (fun c => { c with tlb := c.tlb.filter fun t => out t.ctx t.page }) s.cores
    quadTlbs := Tab.mapv (fun ts => ts.filter fun t => out t.ctx t.page) s.quadTlbs
    walks := s.walks.filter fun w => out w.2.ctx w.2.page }
  (s.cores.map Prod.fst).foldl (fun s c => s.untagLoads c) s
/-- Sums translated under an entry of the range are added at their homes, with those on their way there (R302; log 14). -/
def State.performSums (s : State) (ctx lo hi : Nat) : State :=
  ((s.cores.map Prod.fst).foldl (fun s c =>
    s.flushHoldings c fun _ h => (s.launch h.launch).block.context == ctx && h.pages.any (inRange lo hi)) s).deliverSums
    fun m => (s.launch m.launch).block.context == ctx
/-- A shootdown that completes: loads translated before have read, and stores, atomics, updates and additions have been
performed at their homes (R302). -/
def State.shootDown (s : State) (ctx lo hi : Nat) : State :=
  let s := (s.readAll fun o => (s.launch o.launch).block.context == ctx).dropTranslations ctx lo hi
  (((s.cores.map Prod.fst).foldl (fun s c => s.drainScb c fun _ => true) s).performUpdates).performSums ctx lo hi

/-- `SHOOTDOWN` (R302): it completes at once, unless something translated under the range is still to be performed. -/
def execShootdown (ctx lo hi : Nat) (s : State) : Out :=
  .next (if s.updatesOpen ctx lo hi then s else s.shootDown ctx lo hi)

/-! ### Page moves (R304, R359) -/

/-- The entry that maps an address: its physical address, its level, itself. -/
def entryAt (m : MemSys) (va : Nat) : Nat → Nat → Option (Nat × Nat × BitVec 64)
  | 0, table =>
    let a := table + 8 * bitsOf va 12 9
    let e := BitVec.ofNat 64 (m.homeNat a 8)
    if pteV e then some (a, 0, e) else none
  | k + 1, table =>
    let a := table + 8 * bitsOf va (12 + 9 * (k + 1)) 9
    let e := BitVec.ofNat 64 (m.homeNat a 8)
    if !pteV e then none else if pteLeaf e then some (a, k + 1, e) else entryAt m va k (pteFrame e)

def HostIf.engine (h : HostIf) (n : Nat) : MigEngine := Tab.get MigEngine.zero h.mig n
def State.setEngine (s : State) (n : Nat) (e : MigEngine) : State := s.setHost { s.host with mig := Tab.put n e s.host.mig }
/-- Bytes of a move's page. -/
def MigEngine.bytes (e : MigEngine) : Nat := match e.size with | 0 => 4096 | 1 => 65536 | _ => 2 ^ 21
/-- The first address of a move's page. -/
def MigEngine.start (e : MigEngine) : Nat := e.va % 2 ^ 57 / e.bytes * e.bytes
/-- Engine status values (Table 13.6). -/
def migIdle : Nat := 0
def migBusy : Nat := 1
def migDone : Nat := 2
def migRefused : Nat := 3
def migFault : Nat := 4

/-- The entries of a move's page with their addresses: one, or sixteen of a 64 KiB page; none where the page is not mapped
by entries of its size. -/
def State.moveEntries (s : State) (e : MigEngine) : Option (List (Nat × BitVec 64)) :=
  let root := (s.context e.ctx).root
  let one := fun (va lvl : Nat) =>
    match entryAt s.mem va 4 root with
    | some (a, l, p) => if l = lvl then some (a, p) else none
    | none => none
  match e.size with
  | 0 => (one e.start 0).map fun x => [x]
  | 1 => (List.range 16).mapM fun i => one (e.start + 4096 * i) 0
  | 2 => (one e.start 1).map fun x => [x]
  | _ => none

/-- A page of a protected world is not moved (R352). -/
def guarded (es : List (Nat × BitVec 64)) : Bool := es.any fun x => pteWorld x.2 != 0
/-- The number of migration engines (Table 13.5). -/
def engines : Nat := 4
/-- `MIGRATION_GO` (R359): ignored while the engine is busy; a size that no move has, a page of a protected world, or a page
that another engine is moving is refused; a page not so mapped is a fault.  The move keeps the parameters that stood at its
start. -/
def execMigrationGo (engine : Nat) (s : State) : Out :=
  let e := s.host.engine engine
  if e.status = migBusy || decide (engines ≤ engine) then .next s
  else
    let other := s.host.moves.any fun q => q.1 != engine && (s.host.engine q.1).status == migBusy && q.2.ctx == e.ctx &&
      decide (q.2.start < e.start + e.bytes) && decide (e.start < q.2.start + q.2.bytes)
    let st :=
      if e.size = 3 || other then migRefused
      else
        match s.moveEntries e with
        | none => migFault
        | some es => if guarded es then migRefused else migBusy
    let s := s.setEngine engine { e with status := st }
    .next (if st = migBusy then s.setHost { s.host with moves := Tab.put engine e s.host.moves } else s)

/-- Put the owner into entries of the tables. -/
def State.setOwner (s : State) (owner : Nat) (es : List (Nat × BitVec 64)) : State :=
  es.foldl (fun s x =>
    let p := BitVec.ofNat 64 (x.2.toNat - (bitsOf x.2.toNat 60 2) <<< 60 + owner <<< 60)
    s.agentWrite (dieOf x.1) ((leBytes 8 p.toNat).zipIdx.map fun b => (x.1 + b.2, b.1))) s
/-- The physical sectors of a page. -/
def frameSectors (base n : Nat) : List Nat := (List.range (n / 64)).map (base / 64 + ·)

/-- A move to the host, one run of frames: withheld sums drain, lines are written back and dropped, bytes are copied. -/
def State.moveOut (s : State) (base n hostpa : Nat) : State :=
  let secs := frameSectors base n
  let s := s.flushSectors fun sec => decide (base / 64 ≤ sec) && decide (sec < (base + n) / 64)
  let m := secs.foldl (fun m sec => m.dropSector sec) s.mem
  s.setMem { m with host := Memory.writeN hostpa (secs.flatMap fun sec => (List.range 64).map fun i => m.hbm.read (sec * 64 + i)) m.host }
/-- A move to the device: the bytes stand in HBM, and no older copy is left in a cache. -/
def State.moveIn (s : State) (base n hostpa : Nat) : State :=
  let secs := frameSectors base n
  let m := secs.foldl (fun m sec => { m.dropSector sec with l2 := Tab.del sec m.l2 }) s.mem
  s.setMem { m with
    hbm := Memory.writeN base (m.host.readN hostpa n) m.hbm
    bad := m.bad.filter fun b => !secs.contains b }

/-- The steps of a move (R304). -/
def State.movePage (s : State) (e : MigEngine) (es : List (Nat × BitVec 64)) : State :=
  let n := e.bytes / es.length
  let runs := es.zipIdx.map fun x => (pteFrame x.1.2, e.hostpa + n * x.2)
  if e.dir = 1 then
    (runs.foldl (fun s r => s.moveOut r.1 n r.2) (s.shootDown e.ctx e.start (e.start + e.bytes))).setOwner 1 es
  else
    let s := (runs.foldl (fun s r => s.moveIn r.1 n r.2) s).setOwner 0 es
    s.dropTranslations e.ctx e.start (e.start + e.bytes)

/-- `MIGRATION_COMPLETE` (R304): the steps of the move are done, logged accesses to its page replay, and vector 130 is
signalled.  A move whose page is no longer mapped ends in a fault, one whose page has come to a protected world is refused
(R352), and one whose shootdown is not complete goes on. -/
def execMigrationComplete (engine : Nat) (s : State) : Out :=
  let e := Tab.get MigEngine.zero s.host.moves engine
  let ends := fun (s : State) (st : Nat) => s.setEngine engine { s.host.engine engine with status := st }
  if (s.host.engine engine).status != migBusy then .next s
  else
    match s.moveEntries e with
    | none => .next (ends s migFault)
    | some es =>
      if guarded es then .next (ends s migRefused)
      else if e.dir = 1 && s.updatesOpen e.ctx e.start (e.start + e.bytes) then .next s
      else .next ((ends (s.movePage e es) migDone).resolvePages e.ctx e.start (e.start + e.bytes) |>.signal 130)

end Sys2Proof.Machine
end

