-- ==== Sys2Proof/Machine/Trap.lean ====
section
/-! DEFINITION. The trap skein: its start (R42, R143), its words (R144 to R149), halts on request (R145), the end of a skein
(R126), and breakpoints (R346). -/

namespace Sys2Proof.Machine

/-! ### The trapped panel -/

/-- The skein with index `i` of the trapped panel, where it is still there. -/
def State.panelSkein (s : State) (i : Nat) : Option Nat :=
  (List.find? (fun q => q.2.panel == s.me.panel && q.2.idx == i && q.2.slot != trapSlot) s.skeins).map Prod.fst
/-- The target that a scalar names: a halted skein of the trapped panel (R144). -/
def State.target? (s : State) (v : Dword) : Option Nat :=
  if 32 ≤ v.toNat then none
  else
    match s.panelSkein v.toNat with
    | some k => if (s.skein k).halted then some k else none
    | none => none
/-- The mask of the halted skeins of the trapped panel (Table 4.5). -/
def State.haltedMask (s : State) : Nat :=
  s.skeins.foldl (fun m q =>
    if q.2.panel == s.me.panel && q.2.slot != trapSlot && q.2.halted then m + 2 ^ q.2.idx else m) 0

/-! ### SYSR and SYSW (R145) -/

/-- What a system register reads; one that may only be written reads 0, and no word that reads it decodes (R143). -/
def State.sysReg (s : State) (sel : SysReg) : Dword :=
  let c := s.myCore
  match sel with
  | .trapcause => c.cause
  | .trappc => c.trapPc.setWidth 64
  | .trapaddr => c.trapAddr
  | .trapbase => (s.myLaunch.trapbase.getD 0).setWidth 64
  | .halted => BitVec.ofNat 64 s.haltedMask
  | .trapq => BitVec.ofNat 64 c.trapQ.length
  | .tscratch n => Tab.get 0 c.tscratch n.toNat
  | .haltreq | .errpost => 0
/-- `SYSR` (R145). -/
def execSysr (x : SReg) (sel : SysReg) (s : State) : Out :=
  s.awaits [x] (s.putScalar (.sysr x sel) latScl x none ⟨s.sysReg sel, false, none⟩ 0)

/-- Halt requests for the skeins of a mask that are not yet halted (R145).  DESIGN CHOICE: a skein whose slices have all exited
and whose state has not ended has no packet boundary to come to, and is passed over (log 27). -/
def State.requestHalts (s : State) (m : Dword) : State :=
  { s with skeins := s.skeins.map fun q =>
      if q.2.panel == s.me.panel && q.2.slot != trapSlot && m.getLsbD q.2.idx && !q.2.halted && !q.2.exiting then
        (q.1, { q.2 with haltReq := true })
      else q }
/-- A skein of a mask is still to halt; one whose slices have all exited is passed over, as in `requestHalts` (log 27). -/
def State.haltsOpen (s : State) (m : Dword) : Bool :=
  s.skeins.any fun q => q.2.panel == s.me.panel && q.2.slot != trapSlot && m.getLsbD q.2.idx && !q.2.halted && !q.2.exiting

/-- `SYSW` (R145): `haltreq` waits until every named skein is halted; `errpost` writes a record of a software event. -/
def execSysw (sel : SysReg) (x : SReg) (s : State) : Out :=
  s.awaits [x] <| s.commitClass <| s.unpoisoned [x] <|
    let v := (s.sreg x).val
    let c := s.myCore
    match sel with
    | .tscratch n => .next (s.commit.setCore s.curCore { c with tscratch := Tab.put n.toNat v c.tscratch })
    | .errpost =>
      .next (s.commit.postError ⟨.software, 0, s.curCore, some s.myCtx, s.myPanel.launch, none, leBytes 8 v.toNat⟩)
    | .haltreq => if s.haltsOpen v then .next ((s.requestHalts v).hold .haltreq) else .next s.commit
    | _ => .next s.commit

/-! ### XREAD and XWRITE (R147) -/

/-- Lane `l` of quarter `w` of an operand log entry (Table 12.3). -/
def LogEntry.quarter (e : LogEntry) (w l : Nat) : Word :=
  let hi := fun (x : Dword) => x.extractLsb' 32 32
  let lo := fun (x : Dword) => x.setWidth 32
  if !e.valid then 0 else
  match w, l with
  | 0, _ => Tab.get 0 e.voff l
  | 1, _ => Tab.get 0 e.data0 l
  | 2, _ => Tab.get 0 e.data1 l
  | _, 0 => BitVec.ofNat 32 (e.replays.toNat <<< 16 + e.code.toNat <<< 8 + e.flag.toNat <<< 4 + e.write.toNat <<< 2 +
      e.cont.toNat <<< 1 + 1)
  | _, 1 => e.mask
  | _, 2 => e.pc.setWidth 32
  | _, 3 => BitVec.ofNat 32 (e.pc.toNat / 2 ^ 32 + e.slot.toNat <<< 21)
  | _, 4 => e.word
  | _, 5 => e.literal
  | _, 6 => lo e.sbase
  | _, 7 => hi e.sbase
  | _, 8 => lo e.sx
  | _, 9 => hi e.sx
  | _, 10 => lo e.page
  | _, 11 => hi e.page
  | _, 12 => e.pm
  | _, 13 => if e.isOpen then 1 else 0
  | _, 14 => lo e.patA
  | _, 15 => hi e.patA
  | _, 16 => lo e.patB
  | _, 17 => hi e.patB
  | _, _ => 0

/-- The stop record and the region entry record as one word (Table 4.7). -/
def Skein.stopWord (k : Skein) : Dword :=
  BitVec.ofNat 64 (k.stopRec.left.toNat <<< 53 + k.stopRec.setB.toNat <<< 49 + k.stopRec.setA.toNat <<< 45 +
    k.regionRec.left.toNat <<< 8 + k.regionRec.setB.toNat <<< 4 + k.regionRec.setA.toNat)
/-- The mask of a skein's scalars that a test accepts. -/
def Skein.scalarMask (k : Skein) (p : Scalar → Bool) : Dword :=
  BitVec.ofNat 64 ((List.range 64).foldl (fun m r => if p (k.sreg (BitVec.ofNat 6 r)) then m + 2 ^ r else m) 0)
/-- Outstanding sealed batches and the open number (Table 4.7). -/
def Skein.batchWord (k : Skein) : Dword := BitVec.ofNat 64 (k.batches.length <<< 32 + k.openBatch.num.toNat)

/-- What a scalar selector reads of a skein (Table 4.7). -/
def Skein.select (k : Skein) (sel : XSel) : Scalar :=
  let plain := fun (x : Dword) => (⟨x, false, none⟩ : Scalar)
  match sel with
  | .s n => let x := k.sreg n; ⟨x.val, x.poison, none⟩
  | .f n => plain (BitVec.ofNat 64 (k.flag n.val))
  | .pending => plain (k.scalarMask fun x => x.pend.isSome)
  | .pc n => plain ((k.pcOf n.toNat).setWidth 64)
  | .gangmap => plain (k.gangmap.setWidth 64)
  | .exited => plain (k.exited.setWidth 64)
  | .patternA => plain k.patA
  | .patternB => plain k.patB
  | .meldopen => plain (if k.meldOpen then 1 else 0)
  | .regionPc => plain (k.regionPc.setWidth 64)
  | .regionCount => plain (k.regionCount.setWidth 64)
  | .stop => plain k.stopWord
  | .accession i w => plain (Tab.get 0 k.accession (4 * i.toNat + w.toNat))
  | .status => plain k.status
  | .batchstate => plain k.batchWord
  | .v _ | .oplog _ _ => plain 0

/-- A vector selector. -/
def isVecSel : XSel → Bool
  | .v _ | .oplog _ _ => true
  | _ => false
/-- Lane `l` that a vector selector reads of a skein. -/
def Skein.selectLane (k : Skein) (sel : XSel) (l : Nat) : Lane :=
  match sel with
  | .v n => k.lane (laneKey n.toNat l)
  | .oplog e w => ⟨(Tab.get LogEntry.free k.oplog e.toNat).quarter w.toNat l, false⟩
  | _ => Lane.zero

/-- `XREAD` (R147): where there is no target the result is 0 (R144).  A vector result goes to the active lanes of the trap
skein (R14, R17). -/
def execXread (x : BitVec 6) (a : SReg) (sel : XSel) (s : State) : Out :=
  s.awaits (a :: if isVecSel sel then [] else [x]) <|
    let t := (s.target? (s.sreg a).val).map s.skein
    if isVecSel sel then
      let v := fun (l : Nat) => match t with | some k => k.selectLane sel l | none => Lane.zero
      s.putVec (.xread x a sel) latScl none (s.lanes.map fun l => (s.me.key x.toNat l, v l)) 0
    else
      s.putScalar (.xread x a sel) latScl x none (match t with | some k => k.select sel | none => Scalar.zero) 0

/-- A scalar selector takes a value (R147): `em` and `pm` lose its poison, the pending bit of a scalar stays, a written
`region.pc` empties the entry record (R73), word 0 of an accession record may only clear V. -/
def Skein.write (k : Skein) (sel : XSel) (v : Scalar) : Skein :=
  match sel with
  | .s n => { k.setScalar n.toNat { v with pend := (k.sreg n).pend } with stag := Tab.del n.toNat k.stag }
  | .patternA => { k with patA := v.val }
  | .patternB => { k with patB := v.val }
  | .meldopen => { k with meldOpen := v.val.getLsbD 0 }
  | .regionPc => { k with regionPc := v.val.setWidth 53, regionRec := .empty }
  | .regionCount => { k with regionCount := v.val.setWidth 32 }
  | .accession i w =>
    if w = 0 && !v.val.getLsbD 63 then
      let j := 4 * i.toNat
      { k with accession := Tab.put j (Tab.get 0 k.accession j &&& 0x7FFFFFFFFFFFFFFF) k.accession }
    else k
  | .status => { k with status := v.val &&& statusMask }
  | _ => k

/-- `XWRITE` (R147): the active lanes of the trap skein in a vector register of the target (R14, R17; log 24), or the named
state, change at once, and are untagged (R43). -/
def execXwrite (sel : XSel) (a : SReg) (x : BitVec 6) (s : State) : Out :=
  s.awaits (a :: if isVecSel sel then [] else [x]) <| s.commitClass <|
    match s.target? (s.sreg a).val with
    | none => .next s.commit
    | some t =>
      match sel with
      | .v n =>
        let ws := s.lanes.map fun l => (laneKey n.toNat l, s.vlane x l)
        .next (s.commit.modSkein t fun k => k.setLanes ws none)
      | _ => .next (s.commit.modSkein t fun k => k.write sel (s.sreg x))

/-! ### XRESUME (R148, R230) -/

/-- Scalars that are pending on an operation which is not there take a poison token (R230). -/
def State.orphans (s : State) (k : Skein) : Skein :=
  { k with s := Tab.mapv (fun (x : Scalar) =>
      match x.pend with
      | some id => if (s.op id).isSome then x else ⟨(token 0x09 noAccn).setWidth 64, true, none⟩
      | none => x) k.s }
/-- A halted skein goes on as one gang at a PC, with what remains of a clause there. -/
def Skein.restart (k : Skein) (t : Pc) (r : ClauseRec) : Skein :=
  let k := (k.setPcs 0xFF t).joinGang k.liveMask
  let c := if r.left = 0 then Cursor.empty
    else { Cursor.empty with phase := .resume r.left, setA := r.setA, setB := r.setB }
  { k with
    stopRec := .empty
    halted := false
    haltReq := false
    trapped := false
    stopped := false
    gangs := if k.liveMask = 0 then [] else [(leadOf k.liveMask, c)] }
/-- The context of a panel is being saved (R340). -/
def State.savingPanel (s : State) (p : Nat) : Bool :=
  (s.context (s.launch (s.panel p).launch).block.context).life == .saving
/-- A target restarts, and the traps queued for it are discarded (R330).  Under a save that has not come to its panel the
halt request stands again. -/
def State.xresume (s : State) (t : Nat) (entry : Option Pc) : State :=
  let k := s.orphans (s.skein t)
  let k := match entry with
    | some pc => k.restart pc .empty
    | none => k.restart k.regionPc k.regionRec
  let core := t / 65
  let c := s.core core
  let again := s.savingPanel k.panel && (match c.serving with | some q => !q.names | none => false)
  (s.setSkein t { k with haltReq := again }).setCore core
    { c with trapQ := c.trapQ.filter fun q => q.names || !(q.panel == k.panel && q.skein == k.idx) }
/-- `XRESUME` at a PC (R148). -/
def execXresumePc (a x : SReg) (s : State) : Out :=
  s.awaits [a, x] <| s.commitClass <|
    match s.target? (s.sreg a).val with
    | none => .next s.commit
    | some t => .next (s.commit.xresume t (some ((s.sreg x).val.setWidth 53)))
/-- `XRESUME` at the region entry (R148, R73). -/
def execXresumeEntry (a : SReg) (s : State) : Out :=
  s.awaits [a] <| s.commitClass <|
    match s.target? (s.sreg a).val with
    | none => .next s.commit
    | some t => .next (s.commit.xresume t none)

/-- `RFT` is a control word; the trap skein ends with its packet (R74, R149). -/
def execRft (s : State) : Out := .next (s.setCur { s.cur with ctl := some .endTrap })

/-! ### Halts on request -/

/-- A gang stands between packets, or waits where it stands (R145, R201). -/
def Cursor.atBoundary (c : Cursor) : Bool := c.between || c.wait.isSome
/-- A skein may halt: every gang of it stands at such a place; for a save, one that the debugger has stopped in the middle
of a packet does not hold it up (R347). -/
def Skein.mayHalt (k : Skein) (save : Bool) : Bool :=
  k.leaders.all fun g => (k.cursor g).atBoundary || (save && (k.cursor g).stop)
/-- Every slice stands at the region entry, with what remained of a clause there (R340, R347). -/
def Skein.toEntry (k : Skein) : Skein := { k.setPcs 0xFF k.regionPc with stopRec := k.regionRec }
/-- `SKEIN_HALT` (R145, R340): a skein with a halt request that has come to a packet boundary halts with HALT, every slice
at its next packet; for a save the trap is that of its panel, and a stop in the middle of a packet is given up for the region
entry (R347). -/
def execSkeinHalt (sk : Nat) (s : State) : Out :=
  match Tab.find? sk s.skeins with
  | none => .next s
  | some k =>
    let save := s.savingPanel k.panel
    if !k.haltReq || k.halted || !k.mayHalt save then .next s
    else
      let g := if k.leaders.contains k.lastGang then k.lastGang else k.leaders.headD 0
      let waiting := k.gangs.any fun q => match q.2.wait with | some (.monitor _ _) => true | _ => false
      let s := (s.haltSkein sk).modSkein sk fun x =>
        { x with
          stopRec := (k.cursor g).stopRec
          monitor := if waiting then some 0 else x.monitor }
      if save then .next (if k.mayHalt false then s else s.modSkein sk Skein.toEntry)
      else
        let s := s.modSkein sk fun x => { x with trapped := true, monitor := k.monitor }
        .next (s.deliverTrap sk ⟨k.panel, k.idx, causeWord .halt 0 noAccn k.idx, trapPc 0 (k.pcOf g), 0, false⟩)

/-! ### The start of the trap skein -/

/-- The trap to serve next: the oldest; after a trap in the trap skein, the oldest that a save or a restore has queued
(R143, R330). -/
def Core.nextTrap (c : Core) : Option TrapRec :=
  if c.trapDead then c.trapQ.find? TrapRec.names
  else if c.serving.isSome then none
  else c.trapQ.head?
/-- The first entry equal to a trap leaves the queue. -/
def dropTrap (t : TrapRec) : List TrapRec → List TrapRec
  | [] => []
  | x :: xs => if x = t then xs else x :: dropTrap t xs
/-- `TRAP_SKEIN_START` (R42, R143, R146); one that a trap has ended makes room once its logged words are performed. -/
def execTrapSkeinStart (core : Nat) (s : State) : Out :=
  let c := s.core core
  match c.nextTrap with
  | none => .next s
  | some t =>
    let l := s.launch (s.panel t.panel).launch
    if (s.skein (skKey core trapSlot)).logged fun _ => true then .next s else
    if t.names && s.savingPanel t.panel && !(s.panelSkeins t.panel).all (fun k => (s.skein k).halted) then .next s else
    let s := s.setCore core { c with
      trapQ := dropTrap t c.trapQ
      serving := some t
      trapDead := false
      cause := t.cause
      trapPc := t.pc
      trapAddr := t.addr }
    .next (s.setSkein (skKey core trapSlot) (Skein.start core trapSlot t.panel t.skein (l.trapbase.getD 0)))

/-! ### The end of a skein (R126) -/

/-- The skein of a panel with an index. -/
def State.skeinOf (s : State) (p i : Nat) : Option Nat :=
  (s.panelSkeins p).find? fun k => (s.skein k).idx == i
/-- What the trap skein has staged stays with the skein that it served (R276). -/
def State.handOver (s : State) (core : Nat) (t : TrapRec) : State :=
  match s.skeinOf t.panel t.skein with
  | none => s
  | some k =>
    let give := fun (q : Nat × Op) =>
      if q.2.sk == skKey core trapSlot && q.2.staged then (q.1, { q.2 with sk := k, flag := none }) else q
    { s with ops := s.ops.map give }
/-- Everything that a skein has in flight has ended: flags, futures, operations, logged words, and the copies of its
batches; what waits only for the commit that performs it does not hold it (R126, R277). -/
def State.quiet (s : State) (k : Nat) : Bool :=
  let x := s.skein k
  x.f.all (fun q => q.2 == 0) && x.oplog.all (fun q => !q.2.valid) && x.openBatch.complete && x.batches.all Batch.complete &&
    x.s.all (fun q => q.2.pend.isNone) && s.ops.all fun q => q.2.sk != k || q.2.staged
/-- The panels of a quadplace group that still hold a core. -/
def State.groupLive (s : State) (seq g : Nat) : Bool :=
  s.panels.any fun q => q.2.launch == seq && q.2.group == g && q.2.life != .ended
/-- A panel ends: its place is free, but the allotment on its group's position 0 stays until the group has ended (R126,
R319). -/
def State.endPanel (s : State) (p : Nat) : State :=
  let x := s.panel p
  let quad := (s.launch x.launch).block.flags.getLsbD 4
  let s := s.removePanel p .ended
  if !quad then s
  else if s.groupLive x.launch x.group then
    if x.core % 4 = 0 then s.setPanel p { s.panel p with scratch := x.scratch, reserved := true } else s
  else
    { s with panels := s.panels.map fun q =>
        if q.2.launch == x.launch && q.2.group == x.group then (q.1, { q.2 with scratch := [], reserved := false }) else q }
/-- A batch of the skein has failed and has not been waited for. -/
def Skein.failedBatch (k : Skein) : Option Batch := (k.batches ++ [k.openBatch]).find? Batch.failed
/-- The trap skein of a core acts for the panel, whose storage and address space it uses: the panel does not end before it
(R337; log 27). -/
def State.trapFor (s : State) (p : Nat) : Bool :=
  let c := s.core (s.panel p).core
  !c.trapDead && match c.serving with | some t => t.panel == p | none => false
/-- The end of a skein is due (R126). -/
def State.endDue (s : State) (sk : Nat) : Bool :=
  match Tab.find? sk s.skeins with
  | none => false
  | some k =>
    k.exiting && !k.halted && s.quiet sk &&
    (sk % 65 == trapSlot || !(s.trapFor k.panel && (s.panel k.panel).skeinsLeft.all (· == k.idx)))
/-- A skein ends; with the last of its panel the panel ends.  Where the trap skein ends so, nothing is told of a save or a
restore that it ran for (R379; log 27). -/
def State.endSkein (s : State) (sk : Nat) : State :=
  let k := s.skein sk
  if sk % 65 = trapSlot then
    match (s.core k.core).serving with
    | some t => (s.handOver k.core t).endTrap k.core
    | none => s.endTrap k.core
  else
    let s := s.delSkein sk
    let p := s.panel k.panel
    let left := p.skeinsLeft.filter (· != k.idx)
    let s := s.setPanel k.panel { p with skeinsLeft := left }
    if left.isEmpty then s.endPanel k.panel else s
/-- `SKEIN_END` (R126, R205): the state of a skein whose last slices have exited ends; a batch that failed raises its FAULT
first. -/
def execSkeinEnd (sk : Nat) (s : State) : Out :=
  if !s.endDue sk then .next s
  else
    let k := (s.skein sk).flush
    match k.failedBatch with
    | some b =>
      let s := s.setSkein sk { k with batches := [], openBatch := .new k.openBatch.num }
      .next (s.takeTrap sk .fault b.code.toNat noAccn k.exitSlot (k.pcOf k.lastGang) (k.pcOf k.lastGang) .empty b.addr)
    | none => .next (s.endSkein sk)

/-! ### Breakpoints (R346) -/

/-- An armed breakpoint that the gang's next packet fires: the lowest number (R346).  Only a skein of the attached launch
fires, and only with a lane in the active set. -/
def State.breakDue (s : State) (k g : Nat) : Option Nat :=
  let x := s.skein k
  let c := x.cursor g
  let co := s.core (k / 65)
  if c.phase == .running && c.between && !c.passed && !(x.activeLanes g).isEmpty &&
      (s.launch (s.panel x.panel).launch).attached && co.debugReg.getLsbD 0 then
    (List.range 4).find? fun n =>
      let b := Tab.get 0 co.brk n
      b.getLsbD 63 && bitsOf b.toNat 0 53 == (x.pcOf g).toNat
  else none
/-- `BREAKPOINT_FIRE` (R346): the gang halts before its packet issues, and every result already issued is visible (R83).
Where its skein has stopped before, and the debugger does not step it, it halts without a second report. -/
def execBreakpointFire (sk gang : Nat) (s : State) : Out :=
  match s.breakDue sk gang with
  | none => .next s
  | some n =>
    let x := s.skein sk
    if x.stopped && !s.steps sk gang then
      .next (s.modSkein sk fun x => x.setCursor gang { x.cursor gang with stop := true, passed := true })
    else
      let t := s.debugStop sk gang n (x.pcOf gang) 0 (x.cursor gang).stopRec
      .next ({ t with vit := { t.vit with stepping := none } }.settleSkein sk true)

end Sys2Proof.Machine
end

