-- ==== Sys2Proof/Machine/Dmode.lean ====
section
/-! DEFINITION. What a quantum has staged, as it is performed (R277). -/

namespace Sys2Proof.Machine

/-- The additions of a `REDBV` at their homes, lane by lane. -/
def State.addAtHome (s : State) (core : Nat) (adds : List BAdd) : State := s.addSums core (adds.map fun a => (a.pa, a.a))

/-- A copy that waits for a free slot of its spool (R208). -/
def State.slotless (s : State) (id : Nat) (o : Op) : Bool :=
  match o.kind with
  | .copy _ _ _ _ _ _ (some (n, _)) _ _ => !o.started && s.spoolHeld id o n
  | _ => false

/-- A staged copy is performed: it runs as far as it can, and a fault ends it.  One that waits for a page or a slot stays
staged. -/
def State.performCopy (s : State) (id : Nat) (o : Op) : State :=
  let s := copyRun o.parts id (s.setOp id { o with staged := false })
  match s.copyOp id with
  | none => s
  | some q =>
    match s.copyNext id q with
    | .fault t c a => t.copyEnd id q (some (c, a))
    | _ => s.setOp id { q with staged := true }

/-- One staged operation is performed.  A `COLL` is issued. -/
def State.performStaged (s : State) (id : Nat) : State :=
  match s.op id with
  | none => s
  | some o =>
    if !o.staged then s else
    match o.kind with
    | .write bs => (s.delOp id).writeHome o.core bs
    | .atomic op wide red pad ls => ((s.delOp id).doAtomic o pad op wide red ls).endFlag o
    | .redbv adds => ((s.delOp id).addAtHome o.core adds).endFlag o
    | .walker inv mem base len obj ctx => (s.delOp id).doWalker o inv mem base len obj ctx
    | .barrier upd p sc va => (s.delOp id).doBarrier o upd p sc va
    | .copy _ _ _ _ _ _ _ _ _ | .gather _ _ _ _ _ => s.performCopy id o
    | _ => s.setOp id { o with staged := false }

/-- Staged operations are performed in turn, as far as one that waits for a page; those that wait for a slot of a spool are
passed over. -/
def State.performList (s : State) : List Nat → State
  | [] => s
  | id :: t =>
    match s.op id with
    | none => s.performList t
    | some o =>
      let s' := s.performStaged id
      match s'.op id with
      | some q => if q.staged && !s.slotless id o then s' else s'.performList t
      | none => s'.performList t

/-- The place of a staged operation in a commit: core, panel by linear index, skein, issue (R277).  A panel's slots ascend
with its skeins; what the trap skein has staged stands with the skein that it serves (R276). -/
def State.commitKey (s : State) (id : Nat) (o : Op) : Nat :=
  let p := s.panel o.panel
  let slot := if o.sk % 65 != trapSlot then o.sk % 65
    else match (s.core o.core).serving with | some t => p.slots.getD t.skein trapSlot | none => trapSlot
  ((o.core * 2 ^ 40 + p.index) * 65 + slot) * 2 ^ 64 + id
/-- What a launch has staged, in the order of its commit (R277). -/
def State.commitOrder (s : State) (seq : Nat) : List Nat :=
  let t : Tab Nat := s.ops.foldl (fun t q =>
    if q.2.launch == seq && q.2.staged then Tab.put (s.commitKey q.1 q.2) q.1 t else t) []
  t.map Prod.snd

/-- What a skein has staged, in its issue order. -/
def State.stagedOf (s : State) (k : Nat) : List Nat :=
  (s.ops.filter fun q => q.2.sk == k && q.2.staged).map Prod.fst

end Sys2Proof.Machine
end

