-- ==== Sys2Proof/Machine/MemEvents.lean ====
section
/-! DEFINITION. Events of the memory system: buffers that drain (R285), guest updates (R288), host and peer accesses (R305,
R306, R352), patrol scrub and failures of pseudo-channels (R297, R298). -/

namespace Sys2Proof.Machine

/-! ### The store-combining buffer -/

/-- `SCB_ENTRY_DRAIN` (R285): entries drain oldest first, so the entry of this place drains if it is the oldest. -/
def execScbEntryDrain (core entry : Nat) (s : State) : Out :=
  match (s.core core).scb with
  | e :: _ => .next (if entry = 0 then s.drainEntry core e else s)
  | [] => .next s
/-- `SCB_DRAIN_TIMEOUT` (R285): the entry of this place and every older one drain. -/
def execScbDrainTimeout (core entry : Nat) (s : State) : Out :=
  .next (((s.core core).scb.take (entry + 1)).foldl (fun s e => s.drainEntry core e) s)

/-! ### Guest updates -/

/-- `GUEST_UPDATE` (R288): the update of this name is applied at its die, unless one that happens before it is still on its
way there (R268). -/
def execGuestUpdate (die entry : Nat) (s : State) : Out :=
  match List.find? (fun u => u.die == die && u.id == entry) s.mem.updates with
  | some u => .next (if s.mem.mayApply u then s.setMem (s.mem.applyGuest u) else s)
  | none => .next s

/-! ### The host's memory path -/

def State.readBack (s : State) (bs : List Byte) : State := s.setHost { s.host with readBack := bs }
/-- The context whose world owns a protected frame, the context that a record about it concerns (R354). -/
def State.ownerOf (s : State) (pa : Nat) : Option Nat :=
  match s.protectedLeaves.find? fun l => decide (l.1 ≤ pa) && decide (pa < l.1 + 2 ^ (12 + 9 * l.2.1)) with
  | some l => (List.find? (fun c => c.2.world == pteWorld l.2.2) s.contexts).map Prod.fst
  | none => none
/-- A refused access writes a record about the first byte that is refused (R352). -/
def State.denied (s : State) (pa : Nat) : State := s.postError ⟨.hostDenied, 7, 0, s.ownerOf pa, 0, some pa, []⟩

/-- Whole sectors that a run of bytes covers; a host write of one replaces an uncorrectable one (R297). -/
def wholeSectors (a n : Nat) : List Nat :=
  ((List.range (n / 64 + 1)).map ((a + 63) / 64 + ·)).filter fun sec => decide (sec * 64 + 64 ≤ a + n)

/-- The size of the memory BAR: from 1 GiB to 512 GiB (Table 13.4; log 50). -/
def barBytes : Nat := max (2 ^ 30) (min (2 ^ 39) Config.memoryBar)
/-- The stacks of a die that bring-up has fenced serve nothing (R368). -/
def State.fenced (s : State) (pa : Nat) : Bool := s.host.deadDies.getLsbD (dieOf pa)
/-- A byte of HBM that the host reads; of a fenced die it is a free byte (log 50). -/
def State.hbmByte (s : State) (pa : Nat) : Byte := if s.fenced pa then Config.freeByte s.tick pa else s.mem.hbm.read pa
/-- `HOST_MEMORY_ACCESS` (R305, R352, R355): bytes of HBM within the BAR are read or written past every L2; protected frames
read as ones, and writes to them are discarded.  Nothing is served while the host link is down. -/
def execHostMemoryAccess (acc : HostAcc) (s : State) : Out :=
  let prot := inLeaves s.protectedLeaves
  if !s.host.serves then .next s else
  match acc with
  | .read a n =>
    let as := ((List.range n).map (a + ·)).filter fun x => decide (x < barBytes)
    let t := s.readBack (as.map fun x => if prot x then 0xFF else s.hbmByte x)
    .next (match as.find? prot with | some x => t.denied x | none => t)
  | .write a bs =>
    let ws := (bs.zipIdx.map fun b => (a + b.2, b.1)).filter fun w => decide (w.1 < barBytes) && !s.fenced w.1
    let ok := ws.filter fun w => !prot w.1
    let whole := (wholeSectors a bs.length).filter fun sec => !prot (sec * 64) && !s.fenced (sec * 64) && decide (sec * 64 + 64 ≤ barBytes)
    let t := s.setMem { s.mem with
      hbm := ok.foldl (fun m w => m.write w.1 w.2) s.mem.hbm
      bad := s.mem.bad.filter fun b => !whole.contains b }
    .next (match ws.find? fun w => prot w.1 with | some w => t.denied w.1 | none => t)

/-- Bytes of the foyer (R306). -/
def foyerSize : Nat := 65536
/-- `FOYER_HOST_ACCESS` (R306): served at the foyer, whose bytes beyond its window are not there. -/
def execFoyerHostAccess (acc : HostAcc) (s : State) : Out :=
  if !s.host.serves then .next s else
  match acc with
  | .read a n => .next (s.readBack (((List.range n).filter fun i => decide (a + i < foyerSize)).map fun i => s.mem.foyer.read (a + i)))
  | .write a bs =>
    .next (s.writeHome 0 ((bs.zipIdx.filter fun b => decide (a + b.2 < foyerSize)).map fun b => (foyerBase + a + b.2, b.1)))

/-! ### Errors in HBM -/

/-- A record about a sector or a pseudo-channel. -/
def State.memError (s : State) (c : ErrClass) (pa : Nat) (detail : List Byte) : State :=
  s.postError ⟨c, 2, pcUnit pa, s.ownerOf pa, 0, some pa, detail⟩

/-- A pseudo-channel is retired to the die's reserve, or where none is left its accesses fault until its pages have gone
elsewhere (R298; log 22).  The record is the report to the driver. -/
def State.retirePc (s : State) (unit : Nat) : State :=
  let die := unit / 128
  let used := Tab.get 0 s.mem.reserve die
  if s.mem.retired.contains unit then s else
  let m := { s.mem with retired := s.mem.retired ++ [unit] }
  let m := if used < Config.reserveUnits die then { m with reserve := Tab.put die (used + 1) m.reserve }
    else { m with failedPc := m.failedPc ++ [unit] }
  (s.setMem m).postError ⟨.retired, 2, unit, none, 0, none, []⟩

/-- A row and its pseudo-channel as one number. -/
def rowKey (unit row : Nat) : Nat := row * 512 + unit
/-- A corrected error of a row: past the threshold the row is spared, and past its spares its pseudo-channel is retired. -/
def State.correctedRow (s : State) (unit row pa : Nat) : State :=
  let n := Tab.get 0 s.mem.corrected (rowKey unit row) + 1
  if n ≤ Config.rowThreshold then s.setMem { s.mem with corrected := Tab.put (rowKey unit row) n s.mem.corrected }
  else
    let s := s.setMem { s.mem with
      corrected := Tab.del (rowKey unit row) s.mem.corrected
      spared := s.mem.spared ++ [rowKey unit row] }
    let s := s.memError .rowSpared pa []
    if Config.spareRows < (s.mem.spared.filter fun r => r % 512 == unit).length then s.retirePc unit else s

/-- `PATROL_SCRUB` (R298): the sector is clean, or corrected, or found uncorrectable. -/
def execPatrolScrub (sector : Nat) (find : ScrubFind) (s : State) : Out :=
  let pa := sector * 64
  let syn := leBytes 8 (Config.syndrome s.tick).toNat
  match find with
  | .clean => .next s
  | .corrected row => .next ((s.memError .corrected pa syn).correctedRow (pcUnit pa) row pa)
  | .uncorrectable =>
    let m := if s.mem.bad.contains sector then s.mem else { s.mem with bad := s.mem.bad ++ [sector] }
    .next ((s.setMem m).memError .uncorrectable pa syn)
/-- `PSEUDO_CHANNEL_FAILURE` (R298). -/
def execPseudoChannelFailure (die pc : Nat) (s : State) : Out := .next (s.retirePc (die % 4 * 128 + pc % 128))

end Sys2Proof.Machine
end

