-- ==== Sys2Proof/Machine/Preempt.lean ====
section
/-! DEFINITION. Pre-emption in three tiers (R339 to R342), the end of a panel's save or restore with its trap skein's `RFT`
(R149, R379), and the part of a restore that follows placement (R343, R380). -/

namespace Sys2Proof.Machine

/-! ### Panels of a context -/

/-- The context of a panel. -/
def State.panelCtx (s : State) (p : Nat) : Nat := (s.launch (s.panel p).launch).block.context
/-- A panel holds a core. -/
def PanelLife.holdsCore : PanelLife → Bool
  | .resident | .saving | .restoring => true
  | .saved | .ended => false
/-- The panels of a context that hold cores, in ascending core number and placement order (R341). -/
def State.residentPanels (s : State) (ctx : Nat) : List Nat :=
  let t : Tab Nat := s.panels.foldl (fun t q =>
    if q.2.life.holdsCore && s.panelCtx q.1 == ctx then Tab.put (q.2.core * 2 ^ 64 + q.2.order) q.1 t else t) []
  t.map Prod.snd
/-- The place of a panel among the context's panels on its core. -/
def State.panelRank (s : State) (ctx p : Nat) : Nat :=
  ((s.residentPanels ctx).filter fun q => (s.panel q).core == (s.panel p).core).findIdx (· == p)
/-- The skeins of a context's resident panels. -/
def State.ctxSkeins (s : State) (ctx : Nat) : List Nat := (s.residentPanels ctx).flatMap s.panelSkeins
/-- A `COLL` of the context is outstanding. -/
def State.collOpen (s : State) (ctx : Nat) : Bool :=
  s.ops.any fun q => (s.ctxOf q.2.who) == ctx && (match q.2.kind with | .coll _ => true | _ => false)

/-! ### The save plan (R341, Table 12.4) -/

/-- Where the plan entry of panel `p` lies, the j-th on its core. -/
def State.planAddr (s : State) (ctx p j : Nat) : Nat := (s.context ctx).plan + 4096 * (s.panel p).core + 64 * j
/-- Accumulators of a panel, the lent slot included. -/
def State.panelAccs (s : State) (p : Nat) : Nat :=
  let b := (s.launch (s.panel p).launch).block
  b.acc + (if b.flags.getLsbD 2 then 1 else 0)
/-- The 64 bytes of a plan entry. -/
def State.planBytes (s : State) (ctx p : Nat) : List Byte :=
  let x := s.panel p
  let b := (s.launch x.launch).block
  leBytes 4 ctx ++ leBytes 2 x.seg ++ leBytes 1 b.skeins ++ leBytes 1 (s.panelAccs p) ++ leBytes 4 (4096 * b.scratch) ++
    leBytes 4 0 ++ leBytes 8 x.image ++ leBytes 8 x.imageSize ++ leBytes 8 0 ++ leBytes 24 0
/-- Segments that a panel takes. -/
def State.panelSegs (s : State) (p : Nat) : Nat := 2 * (s.launch (s.panel p).launch).block.skeins + 3
/-- The first segment numbers and the parts of the image area, in the numbering of R341. -/
def numberPanels (base part : Nat) : List Nat → Nat → State → State
  | [], _, s => s
  | p :: ps, seg, s =>
    numberPanels (base + part) part ps (seg + s.panelSegs p)
      (s.setPanel p { s.panel p with seg := seg, image := base, imageSize := part })

/-- Write a panel's plan entry, and queue its HALT trap with a code of 0x100 or 0x200 + j (R340, R343). -/
def State.queuePanel (s : State) (ctx code p : Nat) : State :=
  let j := s.panelRank ctx p
  let s := s.writeCtx ctx (s.planAddr ctx p j) (s.context ctx).world (s.planBytes ctx p)
  let x := s.panel p
  let k := (s.panelSkeins p).headD 0
  let t : TrapRec := ⟨p, 0, causeWord .halt (code + j) noAccn 0, trapPc 0 ((s.skein k).pcOf 0), 0, true⟩
  let c := s.core x.core
  s.setCore x.core { c with trapQ := c.trapQ ++ [t] }

/-! ### Tier two (R340) -/

/-- A claim of a spool is withdrawn; later claims move up. -/
def Spool.unclaim (j : Nat) (x : Spool) : Spool :=
  { x with
    nextClaim := x.nextClaim - 1
    claims := (x.claims.filter fun c => c.1 != j).map fun c => if j < c.1 then (c.1 - 1, c.2) else c }
/-- The later copies of the spool move up with their claims. -/
def State.unclaim (s : State) (p n j : Nat) : State :=
  let y := (s.panel p).spool n
  let s := s.setSpool p n (y.unclaim j)
  { s with ops := s.ops.map fun q =>
      match q.2.kind with
      | .copy _ src len full obj b (some (m, i)) asked refused =>
        if q.2.panel == p && m == n && decide (j < i) then
          (q.1, { q.2 with kind := .copy (.pad (y.slot (i - 1))) src len full obj b (some (m, i - 1)) asked refused })
        else q
      | _ => q }
/-- The value of an object pointer. -/
def ptrWord : Option Ptr → Dword
  | none => 0
  | some (.pad _ off) => BitVec.ofNat 64 (2 ^ 62 + off)
  | some (.phys pa) => BitVec.ofNat 64 pa
  | some (.virt va) => BitVec.ofNat 64 va
/-- A `CPY.spl` that waits for a slot is withdrawn into the operand log of its skein with code 0x01 and leaves its batch
(R44, R340; log 23); none where the skein has no entry free. -/
def State.withdraw (s : State) (id : Nat) (o : Op) : Option State :=
  match o.kind with
  | .copy _ (.glob va) len _ obj b (some (n, j)) _ _ =>
    match (s.skein o.sk).freeLog 1 with
    | none => none
    | some e =>
      let v := ptrWord obj
      let (pc, slot, word) := o.place
      let entry : LogEntry := { LogEntry.free with
        valid := true
        flag := 15
        code := 1
        pc := pc
        slot := BitVec.ofNat 2 slot
        word := word
        sbase := BitVec.ofNat 64 va
        sx := BitVec.ofNat 64 len
        page := BitVec.ofNat 64 (va / 4096 * 4096)
        data0 := [(0, v.setWidth 32)]
        data1 := [(0, v.extractLsb' 32 32)]
        instr := match decodeWord word 0 with | some (_, i) => i | none => .nop
        order := s.nextId }
      let s := ({ s.delOp id with nextId := s.nextId + 1 }).unclaim o.panel n j
      some (s.modSkein o.sk fun k => Skein.copyEnded b none { k with oplog := Tab.put e entry k.oplog })
  | _ => none
/-- A copy of a skein that has not taken a slot, while no slot of its spool is free. -/
def State.waitsSlot (s : State) (o : Op) : Bool :=
  match o.kind with
  | .copy _ _ _ _ _ _ (some (n, _)) _ _ => !o.started && ((s.panel o.panel).spool n).free == 0
  | _ => false
/-- Withdraw the waiting copies of a list of operations; none where entries run out. -/
def withdrawAll : List Nat → State → Option State
  | [], s => some s
  | id :: t, s =>
    match s.op id with
    | some o => if s.waitsSlot o then (match s.withdraw id o with | some s' => withdrawAll t s' | none => none) else withdrawAll t s
    | none => withdrawAll t s

/-- An operation that a save carries in its image: an `MMAT`, or one that waits in the queue behind another. -/
def State.carried (s : State) (id : Nat) (o : Op) : Bool :=
  match o.kind with
  | .mmat _ => true
  | k => k.accOf.isSome && !o.started && !s.turn id o
/-- The save waits until every skein is halted and what they have issued is done, staged words apart. -/
def State.saveReady (s : State) (ctx : Nat) : Bool :=
  (s.ctxSkeins ctx).all (fun k => (s.skein k).halted) &&
  s.ops.all fun q => s.ctxOf q.2.who != ctx || q.2.sk % 65 == trapSlot || q.2.staged || s.carried q.1 q.2 || s.waitsSlot q.2
/-- Every `MMAT` of the context stops at its next interruptible point. -/
def State.stopMmats (s : State) (ctx : Nat) (stop : Bool) : State :=
  { s with ops := s.ops.map fun q =>
      match q.2.kind with
      | .mmat m => if s.ctxOf q.2.who == ctx then (q.1, { q.2 with kind := .mmat { m with stop := stop } }) else q
      | _ => q }
/-- A skein halted by a FAULT that is still queued stands at its region entry, and the trap is discarded (R340 step 4). -/
def State.dropFault (s : State) (p k : Nat) : State :=
  let x := s.skein k
  let c := s.core (k / 65)
  let mine := fun (t : TrapRec) => !t.names && t.panel == p && t.skein == x.idx && t.cause.toNat % 65536 == TrapClass.fault.code
  if c.trapQ.any mine then
    (s.modSkein k fun x => { x.toEntry with trapped := false }).setCore (k / 65)
      { c with trapQ := c.trapQ.filter fun t => !mine t }
  else s

/-- The save takes its next step (R340, R341): once everything has come to rest, copies are withdrawn, buffers and withheld
sums drain, and the first panel's trap is queued. -/
def State.saveProgress (s : State) (ctx : Nat) : State :=
  let c := s.context ctx
  if c.life != .saving || c.trapsQueued || !s.saveReady ctx then s
  else
    let s := (s.ctxLaunches ctx).foldl (fun s q => s.performList (s.commitOrder q)) s
    if s.ops.any fun q => s.ctxOf q.2.who == ctx && q.2.sk % 65 != trapSlot && q.2.staged && !s.waitsSlot q.2 then s
    else
      let mine := (s.ops.filter fun q => s.ctxOf q.2.who == ctx && q.2.sk % 65 != trapSlot).map Prod.fst
      match withdrawAll mine s with
      | none => s.tierThree ctx
      | some s =>
        let ps := s.residentPanels ctx
        let cores := (ps.map fun p => (s.panel p).core).eraseDups
        let s := cores.foldl (fun s k => s.release k .pkg) s
        let s := (s.ctxLaunches ctx).foldl (fun s q => s.flushLaunch q) s
        let s := ps.foldl (fun s p => (s.panelSkeins p).foldl (fun s k => s.dropFault p k) s) s
        let segs := ps.foldl (fun n p => n + s.panelSegs p) 0
        let c := s.context ctx
        match ps with
        | [] => s.setContext ctx { c with life := .running, tierOne := false }
        | p :: _ =>
          if 65536 < segs then s.tierThree ctx
          else
            let s := numberPanels c.image (c.imageSize / ps.length / 4096 * 4096) ps 0 s
            let s := ps.foldl (fun s p => s.setPanel p { s.panel p with life := .saving }) s
            (s.setContext ctx { c with trapsQueued := true }).queuePanel ctx 0x100 p
/-- After segment 0's `CSEAL` the traps of the other panels are queued (R341). -/
def State.queueOthers (s : State) (ctx : Nat) : State :=
  ((s.residentPanels ctx).drop 1).foldl (fun s p => s.queuePanel ctx 0x100 p) s

/-- A tier-two save begins: every skein of the context is asked to halt (R340 step 1). -/
def State.startSave (s : State) (ctx : Nat) : State :=
  let ks := s.ctxSkeins ctx
  let s := s.setContext ctx { s.context ctx with life := .saving, trapsQueued := false }
  let ask := fun (q : Nat × Skein) => if ks.contains q.1 && !q.2.halted then (q.1, { q.2 with haltReq := true }) else q
  { s with skeins := s.skeins.map ask }.stopMmats ctx true

/-- `PREEMPTION_REQUEST` and the deadlines (R309, R339).  `TIER_ONE_DEADLINE`: without a resident panel the pre-emption has
been met; without a TRAPBASE, tier three; with a `COLL` outstanding, tier three waits for it; else tier two. -/
def execTierOneDeadline (ctx : Nat) (s : State) : Out :=
  let c := s.context ctx
  let ps := s.residentPanels ctx
  if !c.tierOne || c.life != .running then .next s
  else if ps.isEmpty then .next (s.setContext ctx { c with tierOne := false })
  else if ps.any fun p => (s.launch (s.panel p).launch).trapbase.isNone then .next (s.tierThree ctx)
  else if s.collOpen ctx then .next (s.setContext ctx { c with collWait := true })
  else .next (s.startSave ctx)
/-- `COLL_WAIT_DEADLINE` (R339): the tier three that has waited for a `COLL`. -/
def execCollWaitDeadline (ctx : Nat) (s : State) : Out :=
  .next (if (s.context ctx).collWait then s.tierThree ctx else s)
/-- `TIER_TWO_DEADLINE` (R341). -/
def execTierTwoDeadline (ctx : Nat) (s : State) : Out :=
  .next (if (s.context ctx).life == .saving then s.tierThree ctx else s)

/-! ### The end of a panel's save or restore (R341, R343, R379, R380) -/

/-- The done field of a panel's plan entry; anything but 1 or 2 is taken as 2 (R379). -/
def State.planDone (s : State) (ctx p j : Nat) : Nat :=
  match s.readCtx ctx (s.planAddr ctx p j + 32) (s.context ctx).world 8 with
  | .ok bs => if leNat bs = 1 then 1 else 2
  | .error _ => 2
/-- A save ends when every panel is done: the panels leave their cores, a grant ends, and the context is
saved. -/
def State.saveDone (s : State) (ctx : Nat) : State :=
  let ps := s.residentPanels ctx
  if ps.all fun p => !(s.panel p).savedLeft.isEmpty then
    let s := ps.foldl (fun s p => s.removePanel p .saved) s
    let s := (s.ctxLaunches ctx).foldl (fun s q => s.setLaunch q { s.launch q with grant := [] }) s
    s.setContext ctx { s.context ctx with life := .saved, tierOne := false, trapsQueued := false }
  else s
/-- A restore ends when every panel is done: the context runs again, and its operations go on. -/
def State.restoreDone (s : State) (ctx : Nat) : State :=
  let ps := s.residentPanels ctx
  if ps.all fun p => (s.panel p).life == .resident then
    let s := ps.foldl (fun s p => s.setPanel p { s.panel p with savedLeft := [] }) s
    s.setContext ctx { s.context ctx with life := .running, trapsQueued := false }
  else s
/-- Everything that the trap skein has issued has been performed, staged words apart. -/
def State.trapQuiet (s : State) (k : Nat) : Bool :=
  !(s.skein k).logged (fun _ => true) && s.ops.all fun q => q.2.sk != k || q.2.staged
/-- `RFT` at the end of its packet (R149).  Where the trap was that of a panel's save or restore, it is honoured once the
trap skein's writes have been performed, and the done field is read (R379). -/
def State.returnTrap (s : State) : State :=
  let core := s.curCore
  let k := skKey core trapSlot
  match (s.core core).serving with
  | none => s.endTrap core
  | some t =>
    if !t.names then (s.handOver core t).endTrap core
    else if !s.trapQuiet k then s
    else
      let s := s.performList (s.stagedOf k)
      if !(s.stagedOf k).isEmpty then s
      else
        let s := s.release core .pkg
        let ctx := s.panelCtx t.panel
        let p := s.panel t.panel
        let done := s.planDone ctx t.panel (bitsOf t.cause.toNat 16 8)
        let s := s.endTrap core
        match (s.context ctx).life with
        | .saving =>
          if done = 2 then s.tierThree ctx
          else (s.setPanel t.panel { p with savedLeft := p.skeinsLeft }).saveDone ctx
        | .restoring =>
          if done = 2 then s.restoreFail ctx 2
          else (s.setPanel t.panel { p with life := .resident }).restoreDone ctx
        | _ => s

/-! ### Restore -/

/-- Once every saved panel of the context is placed, plan entries are written and the traps queued (R343 step 2). -/
def State.restoreProgress (s : State) (ctx : Nat) : State :=
  let c := s.context ctx
  if c.life != .restoring || c.trapsQueued || (s.savedPanels ctx).any fun p => (s.panel p).life == .saved then s
  else (s.residentPanels ctx).foldl (fun s p => s.queuePanel ctx 0x200 p) (s.setContext ctx { c with trapsQueued := true })
/-- What the Registrar does next for a context that it saves or restores: the next step of the save or of the restore; and
where launches have ended meanwhile, the end that now is due (R341, R343). -/
def State.ctxProgress (s : State) (ctx : Nat) : State :=
  let c := s.context ctx
  match c.life, c.trapsQueued with
  | .saving, false => s.saveProgress ctx
  | .saving, true =>
    if (s.residentPanels ctx).isEmpty then s.setContext ctx { c with life := .running, tierOne := false, trapsQueued := false }
    else s.saveDone ctx
  | .restoring, false => s.restoreProgress ctx
  | .restoring, true => s.restoreDone ctx
  | _, _ => s
/-- `RESTORE_TIMEOUT` (R380). -/
def execRestoreTimeout (ctx : Nat) (s : State) : Out :=
  let c := s.context ctx
  .next (if c.life == .restoring && c.trapsQueued then s.restoreFail ctx 0 else s)
/-- `CONTEXT_RESTORE` (R378): a context in state saved is restored as soon as its panels can be placed. -/
def State.restoreContext (s : State) (ctx : Nat) : State × Nat :=
  match Tab.find? ctx s.contexts with
  | some c => if c.life == .saved then (s.setContext ctx { c with life := .restoring, trapsQueued := false }, 1) else (s, 2)
  | none => (s, 2)

end Sys2Proof.Machine
end

