-- ==== Sys2Proof/Machine/Place.lean ====
section
/-! DEFINITION. Where panels go: the dispatch order (R314), what a core has room for (R315, R316, R319 to R322), what waiting
launches want (R308), and the placement of a panel (R317, R318, R281, R343). -/

namespace Sys2Proof.Machine

/-! ### Dispatch order (R314) -/

/-- The key of Morton order within 21 bits. -/
def mortonKey (x y : Nat) : Nat :=
  (List.range 21).foldl (fun d i => d + (if x.testBit i then 4 ^ i else 0) + (if y.testBit i then 2 * 4 ^ i else 0)) 0
/-- `hilbert` of R314, for n = 2^k. -/
def hilbertKey (n : Nat) : Nat → Nat → Nat → Nat
  | 0, _, _ => 0
  | k + 1, x, y =>
    let s := 2 ^ k
    let rx := x.testBit k
    let ry := y.testBit k
    let d := s * s * ((if rx then 3 else 0) ^^^ (if ry then 1 else 0))
    if ry then d + hilbertKey n k x y
    else if rx then d + hilbertKey n k (n - 1 - y) (n - 1 - x)
    else d + hilbertKey n k y x
/-- Positions of a square of side `s` at a corner that lie in the grid. -/
def inGrid (gx gy s x y : Nat) : Nat := min s (gx - x) * min s (gy - y)
/-- The part of a square where the r-th position in the grid lies: its quarters in the order of their keys. -/
def pickQuarter (gx gy s : Nat) : List (Nat × Nat) → Nat → Nat × Nat × Nat
  | [], r => (0, 0, r)
  | [q], r => (q.1, q.2, r)
  | q :: t, r => let n := inGrid gx gy s q.1 q.2; if r < n then (q.1, q.2, r) else pickQuarter gx gy s t (r - n)
/-- The r-th position in the grid of a curve, in the square of side 2^k at a corner; `digit` gives a quarter's place by the
bits of a position above and at bit k. -/
def curveAt (digit : Nat → Nat → Nat → Nat) (gx gy : Nat) : Nat → Nat → Nat → Nat → Nat × Nat
  | 0, x, y, _ => (x, y)
  | k + 1, x, y, r =>
    let s := 2 ^ k
    let qs := [(x, y), (x + s, y), (x, y + s), (x + s, y + s)]
    let sorted := (List.range 4).filterMap fun d => qs.find? fun q => digit k q.1 q.2 == d
    let q := pickQuarter gx gy s sorted r
    curveAt digit gx gy k q.1 q.2.1 q.2.2
/-- log2 of the smallest power of two not below a number. -/
def ceilLog (x : Nat) : Nat := if x ≤ 1 then 0 else (x - 1).log2 + 1
/-- The r-th position of a swizzled order whose inner coordinate is the first: strips of width w in turn, `b` the extent of
the other coordinate. -/
def stripAt (a b w r : Nat) : Nat × Nat :=
  let strip := r / (w * b)
  let width := min w (a - strip * w)
  let i := r % (w * b)
  (strip * w + i % width, i / width)
/-- The grid position of the r-th panel in dispatch order.  Without swizzle row-major goes by (y, x), and column-major by
(x, y). -/
def Block.position (b : Block) (r : Nat) : Nat × Nat × Nat :=
  let plane := b.gx * b.gy
  let z := r / plane
  let i := r % plane
  let n := ceilLog (max b.gx b.gy)
  let w := 2 ^ b.swizzle
  let q := match b.traversal with
    | 0 => if w = 1 then (i % b.gx, i / b.gx) else stripAt b.gx b.gy w i
    | 1 => if w = 1 then (i / b.gy, i % b.gy) else let p := stripAt b.gy b.gx w i; (p.2, p.1)
    | 2 => curveAt (fun k x y => mortonKey (x / 2 ^ k) (y / 2 ^ k) % 4) b.gx b.gy n 0 0 i
    | _ => curveAt (fun k x y => hilbertKey (2 ^ (n - k)) (n - k) (x / 2 ^ k) (y / 2 ^ k) % 4) b.gx b.gy n 0 0 i
  (q.1, q.2, z)
/-- The position of a linear index (R12), the order of deterministic mode (R322). -/
def Block.linear (b : Block) (i : Nat) : Nat × Nat × Nat := (i % b.gx, i / b.gx % b.gy, i / (b.gx * b.gy))
/-- Panels of a grid. -/
def Block.total (b : Block) : Nat := b.gx * b.gy * b.gz

/-! ### Room on a core -/

def Block.dmode (b : Block) : Bool := b.flags.getLsbD 1
def Block.pair (b : Block) : Bool := b.flags.getLsbD 2
def Block.quadl1 (b : Block) : Bool := b.flags.getLsbD 3
def Block.quadplace (b : Block) : Bool := b.flags.getLsbD 4

/-- The panels on a core, those of some launches left out; an allotment that stays reserved counts with them. -/
def State.panelsOn (s : State) (ignore : List Nat) (c : Nat) : List Panel :=
  (s.panels.filter fun q => q.2.core == c && (q.2.life.holdsCore || q.2.reserved) && !ignore.contains q.2.launch).map Prod.snd
/-- Skein slots in use. -/
def slotsUsed (ps : List Panel) : List Nat := ps.flatMap Panel.slots
/-- Accumulators in use on a core: those of its panels, and those lent to panels of its partner (R320). -/
def State.accsUsed (s : State) (ignore : List Nat) (c : Nat) : List Nat :=
  ((s.panelsOn ignore c).filter fun p => p.life.holdsCore).flatMap Panel.accBase ++
  ((s.panelsOn ignore (c ^^^ 1)).filter fun p => p.life.holdsCore).filterMap Panel.lentOn
/-- The dies that serve; before READY only die 0 does (R368, R369). -/
def State.openDies (s : State) : List Nat :=
  (List.range 4).filter fun d => s.host.status.getLsbD (4 + d) && (s.host.status.getLsbD 0 || d == 0)
/-- The core's die serves, and its number is in use (R366, R368, R369). -/
def State.serving (s : State) (c : Nat) : Bool := decide (c < 256) && s.openDies.contains (coreDie c) && !(s.core c).unused
/-- How many accumulators of a core's partner are free; none where the partner does not serve (R320, R366). -/
def State.partnerFree (s : State) (ignore : List Nat) (c : Nat) : Nat :=
  if s.serving (c ^^^ 1) then 4 - (s.accsUsed ignore (c ^^^ 1)).length else 0
/-- How many more panels of a launch a core has room for: units, skein slots, accumulators, and lent slots (R315, R320). -/
def State.roomOn (s : State) (ignore : List Nat) (b : Block) (c : Nat) : Nat :=
  let ps := s.panelsOn ignore c
  let units := 96 - ps.foldl (fun n p => n + p.scratchUnits) 0
  let accs := 4 - (s.accsUsed ignore c).length
  let bound := fun (n d : Nat) => if d = 0 then 64 else n / d
  let r := min (bound units b.scratch) (min (bound (64 - (slotsUsed ps).length) b.skeins) (bound accs b.acc))
  if b.pair then min r (s.partnerFree ignore c) else r
/-- The core holds panels of fewer than four other launches, or one of this launch (R316). -/
def State.slotFree (s : State) (ignore : List Nat) (seq c : Nat) : Bool :=
  let ls := (((s.panelsOn ignore c).filter fun p => p.life.holdsCore).map Panel.launch).eraseDups
  ls.contains seq || decide (ls.length < 4)
/-- A quad that holds a panel of a quad-fused launch holds panels of no other (R319). -/
def State.quadOk (s : State) (ignore : List Nat) (seq c : Nat) : Bool :=
  ((quadOf true c).flatMap (s.panelsOn ignore)).all fun p =>
    p.launch == seq || (!(s.launch seq).block.quadl1 && !(s.launch p.launch).block.quadl1)
/-- The core belongs to the grant of another launch (R321). -/
def State.grantedElse (s : State) (ignore : List Nat) (seq c : Nat) : Bool :=
  s.launches.any fun q => q.1 != seq && q.2.life == .running && q.2.grant.contains c && !ignore.contains q.1
/-- The core holds nothing that a latch change would clear (R348). -/
def State.emptyCore (s : State) (ignore : List Nat) (c : Nat) : Bool := (s.panelsOn ignore c).isEmpty
/-- A core is eligible for a panel of a launch (R315), with some launches left out, and with some further cores taken as latched
to the launch's world. -/
def State.eligible (s : State) (ignore : List Nat) (latched : Nat → Bool) (seq c : Nat) : Bool :=
  let l := s.launch seq
  let b := l.block
  s.serving c && ((s.core c).world == b.world || latched c) &&
    decide (1 ≤ s.roomOn ignore b c) && s.slotFree ignore seq c && s.quadOk ignore seq c && !s.grantedElse ignore seq c &&
    (!b.pair || c % 2 == 0) && (!b.dmode || l.grant.contains c)
/-- No core is taken as latched. -/
def asLatched : Nat → Bool := fun _ => false
/-- The latches of empty cores are open to change (R315, R348). -/
def State.openLatch (s : State) (ignore : List Nat) (c : Nat) : Bool := s.emptyCore ignore c

/-- Panels that may be resident on a core of a grant at once (R322). -/
def Block.resident (b : Block) : Nat :=
  let bound := fun (n d : Nat) => if d = 0 then 4 else n / d
  min (min (bound 96 b.scratch) (bound 64 b.skeins)) (min (bound (if b.pair then 3 else 4) b.acc) 4)
/-- Panels that logical core `lc` holds at once (R321, R322). -/
def Block.atOnce (b : Block) (lc : Nat) : Nat := min b.resident ((b.total + b.dcores - 1 - lc) / b.dcores)
/-- A core may be granted to a launch as its logical core `lc` (R321). -/
def State.grantable (s : State) (ignore : List Nat) (latched : Nat → Bool) (seq c lc : Nat) : Bool :=
  let b := (s.launch seq).block
  s.serving c && ((s.core c).world == b.world || latched c) && s.emptyCore ignore c && !s.grantedElse ignore seq c &&
    s.quadOk ignore seq c && (!b.pair || (c % 2 == 0 && decide (b.atOnce lc ≤ s.partnerFree ignore c)))
/-- Cores taken in turn, some together, each for the next logical core, while fewer than `n` are taken. -/
def takeGrant (n : Nat) (ok : Nat → Nat → Bool) : List (List Nat) → List Nat → List Nat
  | [], got => got
  | u :: t, got =>
    if n ≤ got.length then got
    else if (u.zipIdx got.length).all fun q => ok q.1 q.2 then takeGrant n ok t (got ++ u)
    else takeGrant n ok t got
/-- The cores that a grant could take, the lowest first, at most as many as the launch asks for: whole quads under quad-fused
L1, even cores under pair mode (R319 to R321). -/
def State.grantPart (s : State) (ignore : List Nat) (latched : Nat → Bool) (seq : Nat) : List Nat :=
  let b := (s.launch seq).block
  let units := if b.quadl1 then (List.range 64).map fun q => (quadOf true (4 * q)).filter fun c => !b.pair || c % 2 == 0
    else (List.range 256).map fun c => [c]
  (takeGrant b.dcores (s.grantable ignore latched seq) units []).take b.dcores
/-- A grant, where there are as many cores as the launch asks for. -/
def State.grantFor (s : State) (ignore : List Nat) (latched : Nat → Bool) (seq : Nat) : Option (List Nat) :=
  let cs := s.grantPart ignore latched seq
  if (s.launch seq).block.dcores ≤ cs.length then some cs else none

/-! ### Launches that wait (R308) -/

/-- The context takes new panels: it is neither being pre-empted while a panel of it is resident, nor saved, nor quarantined
(R339, R367). -/
def State.ctxOpen (s : State) (ctx : Nat) : Bool :=
  let c := s.context ctx
  c.life == .running && !c.quarantined && !(c.tierOne && !(s.residentPanels ctx).isEmpty)
/-- Every named dependence has completed, and every earlier launch of the queue unless the launch is independent (R308). -/
def State.depsMet (s : State) (seq : Nat) : Bool :=
  let l := s.launch seq
  (l.block.deps.all fun d => d == 0 || (s.launch d).life == .ended) &&
  (l.block.flags.getLsbD 0 || s.launches.all fun q => seq ≤ q.1 || q.2.queue != l.queue || q.2.life == .ended)
/-- A launch is eligible and has a panel that is not placed. -/
def State.waiting (s : State) (seq : Nat) : Bool :=
  let l := s.launch seq
  s.ctxOpen l.block.context && decide (l.placed < l.block.total) &&
  (l.life == .running || (l.life == .waiting && s.depsMet seq))
/-- The launch's panels that are still to be placed: those of its grid, or in a restore those that are saved (R315, R378). -/
def State.unplaced (s : State) (seq : Nat) : Nat :=
  let l := s.launch seq
  let c := s.context l.block.context
  if c.life == .restoring && !c.quarantined then
    (s.panels.filter fun q => q.2.launch == seq && q.2.life == .saved).length
  else if s.waiting seq then l.block.total - l.placed
  else 0
/-- What the launch still lacks to be placed whole, with some cores taken as latched to its world: cores of a grant, or room for
panels, which under quadplace is room in whole quads (R315, R319). -/
def State.lacks (s : State) (latched : Nat → Bool) (seq : Nat) : Bool :=
  let l := s.launch seq
  let b := l.block
  let room := fun (c : Nat) => if s.eligible [] latched seq c then s.roomOn [] b c else 0
  let n := s.unplaced seq
  if b.dmode then decide (0 < n) && l.grant.isEmpty && decide ((s.grantPart [] latched seq).length < b.dcores)
  else if b.quadplace then
    decide (((List.range 64).foldl (fun t q => t + 4 * (quadOf true (4 * q)).foldl (fun m c => min m (room c)) 64) 0) < n)
  else decide (((List.range 256).foldl (fun t c => t + room c) 0) < n)
/-- Empty cores re-latched in turn until the launch lacks nothing. -/
def relatchList (lacks : (Nat → Bool) → Bool) : List Nat → List Nat → List Nat
  | [], got => got
  | c :: t, got => if lacks got.contains then relatchList lacks t (got ++ [c]) else got
/-- The cores that the curator would latch for a launch, one at a time from the lowest, until those of its world can take
the panels that are left (R315). -/
def State.relatchFor (s : State) (seq : Nat) : List Nat :=
  let empty := (List.range 256).filter fun c =>
    (s.core c).world != (s.launch seq).block.world && s.serving c && s.emptyCore [] c && !s.grantedElse [] seq c
  relatchList (fun latched => s.lacks latched seq) empty []
/-- A waiting launch wants a core (R308): one eligible for its next panel or group, one of the grant that it is to have, or one
that would be re-latched for it.  DESIGN CHOICE: while the cores of a grant are not all to be had, those that are stand for it
(log 34). -/
def State.wants (s : State) (seq c : Nat) : Bool :=
  let l := s.launch seq
  (if l.block.dmode then (if l.grant.isEmpty then s.grantPart [] asLatched seq else l.grant).contains c
   else if l.block.quadplace then (quadOf true c).all (s.eligible [] asLatched seq)
   else s.eligible [] asLatched seq c) || (s.relatchFor seq).contains c
/-- A waiting launch of higher priority wants the core. -/
def State.wantedAbove (s : State) (seq c : Nat) : Bool :=
  s.launches.any fun q => decide ((s.launch seq).block.priority < q.2.block.priority) && s.waiting q.1 && s.wants q.1 c

/-! ### Placement (R317) -/

/-- The lowest `n` numbers below `top` that are not in use. -/
def lowestFree (n top : Nat) (used : List Nat) : List Nat := ((List.range top).filter fun i => !used.contains i).take n
/-- A lent unit is reclaimed (R281): each withheld sector of its lines drains and its holding ends, its lines are invalidated,
and what the core has buffered for them drains. -/
def reclaimUnit (core : Nat) (s : State) (u : Nat) : State :=
  let lines := (Tab.sub (fun _ x => x.way == u) (s.core core).l1).map Prod.fst
  let s := s.flushHoldings core fun sec _ => lines.contains (sec / 4)
  let c := s.core core
  (s.setCore core { c with l1 := c.l1.filter fun q => !lines.contains q.1 }).drainScb core fun e => lines.contains (e.sector / 4)
/-- The units that a panel takes: the highest-numbered lent ones (R281). -/
def State.unitsFor (s : State) (core n : Nat) : List Nat := (s.lentUnits core).reverse.take n

/-- The core gives the launch its lowest free slot, if it holds none (R316). -/
def State.takeSlot (s : State) (core seq : Nat) : State :=
  let c := s.core core
  if c.slots.contains (some seq) then s
  else
    match c.slots.findIdx? Option.isNone with
    | some i => s.setCore core { c with slots := c.slots.set i (some seq) }
    | none => s
/-- The acquire of a core that is new to a launch (R318), which drops the code that the core has fetched too (R75). -/
def State.startAcquire (s : State) (core : Nat) (fused : Bool) : State :=
  let s := s.acquire core fused .pkg
  s.setCore core { s.core core with icache := [] }
/-- Skeins of a panel start, halted for a restore (R14, R15, R343). -/
def startSkeins (core p : Nat) (entry : Pc) (halted : Bool) : List (Nat × Nat) → State → State
  | [], s => s
  | (slot, i) :: t, s =>
    startSkeins core p entry halted t
      (s.setSkein (skKey core slot) { Skein.start core slot p i entry with halted := halted })
/-- A panel takes its place on a core: the acquire of R318, then R317.  `idxs` are the skeins that start. -/
def State.settlePanel (s : State) (p : Nat) (x : Panel) (core : Nat) (halted : Bool) (idxs : List Nat) : State :=
  let l := s.launch x.launch
  let b := l.block
  let here := s.panels.any fun q => q.2.launch == x.launch && q.2.core == core && q.2.life.holdsCore
  let s := if here then s else s.startAcquire core b.quadl1
  let slots := lowestFree b.skeins 64 (slotsUsed (s.panelsOn [] core))
  let units := s.unitsFor core b.scratch
  let s := units.foldl (reclaimUnit core) s
  let y : Panel := { x with
    core := core
    order := s.nextId
    slots := slots
    accBase := lowestFree b.acc 4 (s.accsUsed [] core)
    scratchUnits := b.scratch
    scratch := []
    accs := []
    lent := .zero
    lentOn := if b.pair then (lowestFree 1 4 (s.accsUsed [] (core ^^^ 1))).head? else none
    spools := []
    life := if halted then .restoring else .resident
    skeinsLeft := idxs
    units := units
    lastSlots := [] }
  let s := (({ s with nextId := s.nextId + 1 }).takeSlot core x.launch).setPanel p y
  let s := if l.attached then s.armCore core else s
  let entry : Pc := BitVec.ofNat 53 (b.code / 12)
  startSkeins core p entry halted (idxs.map fun i => (slots.getD i 0, i)) s
/-- A new panel of a launch at a grid position. -/
def State.newPanel (s : State) (seq core logical group : Nat) (pos : Nat × Nat × Nat) : State :=
  let l := s.launch seq
  let b := l.block
  let p := s.nextId
  let x : Panel := { Panel.none_ with
    launch := seq
    x := pos.1
    y := pos.2.1
    z := pos.2.2
    index := pos.1 + b.gx * (pos.2.1 + b.gy * pos.2.2)
    logical := logical
    group := group }
  let s := { s with nextId := s.nextId + 1 }
  let s := s.setLaunch seq { l with placed := l.placed + 1 }
  s.settlePanel p x core false (List.range b.skeins)

/-- Panels of a launch that run, or have run, on a logical core. -/
def State.logicalPanels (s : State) (seq lc : Nat) : List Panel :=
  (s.panels.filter fun q => q.2.launch == seq && q.2.logical == lc).map Prod.snd
/-- The next panels of a logical core start where a place is free (R322), on a core that serves and whose partner has the slot
that pair mode asks for (R320, R366). -/
def placeLogical (seq lc core : Nat) : Nat → State → State
  | 0, s => s
  | n + 1, s =>
    let b := (s.launch seq).block
    let ps := s.logicalPanels seq lc
    let next := lc + b.dcores * ps.length
    if (ps.filter fun p => p.life != .ended).length < b.resident && decide (next < b.total) && s.serving core &&
        (!b.pair || decide (0 < s.partnerFree [] core)) then
      placeLogical seq lc core n (s.newPanel seq core lc 0 (b.linear next))
    else s
/-- Every logical core of a grant fills its places; a quarantined context takes no panel (R367). -/
def State.placeGrant (s : State) (seq : Nat) : State :=
  if (s.context (s.launch seq).block.context).quarantined then s else
  (s.launch seq).grant.zipIdx.foldl (fun s c => placeLogical seq c.2 c.1 4 s) s

/-- A saved panel of a launch that is to be restored, the first in the numbering (R343). -/
def State.nextSaved (s : State) (seq : Nat) : Option Nat :=
  let ps := s.panels.filter fun q => q.2.launch == seq && q.2.life == .saved
  (ps.foldl (fun (best : Option (Nat × Nat)) q =>
    match best with
    | some b => if q.2.seg < b.2 then some (q.1, q.2.seg) else best
    | none => some (q.1, q.2.seg)) none).map Prod.fst
/-- A saved panel takes its place on a core, its skeins halted. -/
def State.placeSaved (s : State) (seq core : Nat) : State :=
  match s.nextSaved seq with
  | none => s
  | some p =>
    let x := s.panel p
    let left := x.savedLeft
    let s := s.settlePanel p x core true left
    s.restoreProgress (s.launch seq).block.context
/-- A grant for a launch in deterministic mode whose panels are restored (R321, R343). -/
def State.regrant (s : State) (seq : Nat) : State :=
  let l := s.launch seq
  if !l.block.dmode || !l.grant.isEmpty then s
  else match s.grantFor [] asLatched seq with | some cs => s.setLaunch seq { l with grant := cs } | none => s
/-- The core on which a saved panel of a launch may be placed: any eligible one, under a grant that of its logical core. -/
def State.restoreCore (s : State) (seq core : Nat) : Bool :=
  let l := s.launch seq
  s.eligible [] asLatched seq core && !s.wantedAbove seq core &&
  (!l.block.dmode || match s.nextSaved seq with
    | some p => l.grant.getD (s.panel p).logical 256 == core
    | none => false) &&
  (!l.block.quadplace || match s.nextSaved seq with
    | some p =>
      let mates := (s.panels.filter fun q => q.2.launch == seq && q.2.group == (s.panel p).group && q.2.life == .restoring)
      mates.all fun q => q.2.core / 4 == core / 4
    | none => false)

/-- A group of panels goes to the positions of a quad (R319). -/
def placeGroup (seq core : Nat) : Nat → Nat → State → State
  | 0, _, s => s
  | n + 1, i, s =>
    let l := s.launch seq
    if l.placed < l.block.total then
      placeGroup seq core n (i + 1) (s.newPanel seq (core / 4 * 4 + i) 0 (l.placed / 4) (l.block.position l.placed))
    else s

/-- `PANEL_PLACE` (R308, R315, R317, R343): the next panel or group of a dispatched launch is placed on a core that is
eligible and that no waiting launch of higher priority wants; in a context that is being restored, its next saved panel. -/
def execPanelPlace (seq core : Nat) (s : State) : Out :=
  let l := s.launch seq
  let b := l.block
  let c := s.context b.context
  if l.life != .running then .next s
  else if c.life == .restoring then
    if c.quarantined then .next s else
    let s := s.regrant seq
    .next (if s.restoreCore seq core then s.placeSaved seq core else s)
  else if !s.waiting seq || b.dmode then .next s
  else
    let s' := if c.tierOne then s.setContext b.context { c with tierOne := false } else s
    if b.quadplace then
      .next (if (quadOf true core).all fun q => s'.eligible [] asLatched seq q && !s'.wantedAbove seq q then placeGroup seq core 4 0 s' else s)
    else
      .next (if s'.eligible [] asLatched seq core && !s'.wantedAbove seq core then
          s'.newPanel seq core 0 0 (b.position l.placed) else s)

end Sys2Proof.Machine
end

