-- ==== Sys2Proof/Machine/Crypto.lean ====
section
/-! DEFINITION. AES-256 in Galois/counter mode, as FIPS 197 and SP 800-38D give it (R235; log 13). -/

namespace Sys2Proof.Machine

/-! ### AES-256 -/

/-- Multiplication by x in the field of 256 elements. -/
def xtime (b : Byte) : Byte := (b <<< 1) ^^^ (if b.msb then 0x1B else 0)
/-- Product of two elements, by the lowest `n` bits of the second. -/
def gfMul : Nat → Byte → Byte → Byte
  | 0, _, _ => 0
  | n + 1, a, b => (if b.getLsbD 0 then a else 0) ^^^ gfMul n (xtime a) (b >>> 1)
/-- The product of the 2nd, 4th, ... 2^n-th powers; for n = 7 the inverse, and 0 for 0. -/
def gfPow : Nat → Byte → Byte
  | 0, _ => 1
  | n + 1, x => let y := gfMul 8 x x; gfMul 8 y (gfPow n y)
/-- The S-box. -/
def sbox (x : Byte) : Byte :=
  let y := gfPow 7 x
  y ^^^ y.rotateLeft 1 ^^^ y.rotateLeft 2 ^^^ y.rotateLeft 3 ^^^ y.rotateLeft 4 ^^^ 0x63

def xorBytes (a b : List Byte) : List Byte := (a.zip b).map fun p => p.1 ^^^ p.2

/-- The next word of the key schedule; `ws` holds the earlier ones, the latest first. -/
def nextKeyWord (i : Nat) (ws : List (List Byte)) : List Byte :=
  let t := ws.headD []
  let t := if i % 8 = 0 then
      let r := (t.drop 1 ++ t.take 1).map sbox
      xorBytes r [(List.range (i / 8 - 1)).foldl (fun b _ => xtime b) 1, 0, 0, 0]
    else if i % 8 = 4 then t.map sbox else t
  xorBytes (ws.getD 7 []) t
def expandKey : Nat → List (List Byte) → List (List Byte)
  | 0, ws => ws
  | n + 1, ws => expandKey n (nextKeyWord ws.length ws :: ws)
/-- The fifteen round keys of a 32-byte key. -/
def roundKeys (key : List Byte) : List (List Byte) :=
  let ws := (expandKey 52 ((List.range 8).map fun i => (key.drop (4 * i)).take 4).reverse).reverse
  (List.range 15).map fun r => (ws.drop (4 * r)).take 4 |>.flatten

/-- `ShiftRows` of a state of four columns. -/
def shiftRows (s : List Byte) : List Byte :=
  (List.range 16).map fun i => s.getD (i % 4 + 4 * ((i / 4 + i % 4) % 4)) 0
/-- `MixColumns` of one column. -/
def mixColumn (c : List Byte) : List Byte :=
  (List.range 4).map fun i =>
    xtime (c.getD i 0) ^^^ xtime (c.getD ((i + 1) % 4) 0) ^^^ c.getD ((i + 1) % 4) 0 ^^^ c.getD ((i + 2) % 4) 0 ^^^
      c.getD ((i + 3) % 4) 0
def mixColumns (s : List Byte) : List Byte :=
  (List.range 4).flatMap fun c => mixColumn ((s.drop (4 * c)).take 4)
/-- The rounds with the keys that are left; the last has no `MixColumns`. -/
def aesRounds : List (List Byte) → List Byte → List Byte
  | [], s => s
  | [k], s => xorBytes (shiftRows (s.map sbox)) k
  | k :: ks, s => aesRounds ks (xorBytes (mixColumns (shiftRows (s.map sbox))) k)
/-- One block under expanded keys. -/
def aesBlock (ks : List (List Byte)) (p : List Byte) : List Byte := aesRounds ks.tail (xorBytes p (ks.headD []))

/-! ### Galois/counter mode -/

/-- Product in the field of 2^128 elements, by the highest `n` bits of the first. -/
def ghMul : Nat → BitVec 128 → BitVec 128 → BitVec 128
  | 0, _, _ => 0
  | n + 1, x, v =>
    (if x.msb then v else 0) ^^^
      ghMul n (x <<< 1) ((v >>> 1) ^^^ (if v.getLsbD 0 then 0xE1000000000000000000000000000000 else 0))
def block128 (bs : List Byte) : BitVec 128 := BitVec.ofNat 128 (beNat bs)
/-- GHASH over whole blocks. -/
def ghash (h : BitVec 128) : Nat → List Byte → BitVec 128 → BitVec 128
  | 0, _, y => y
  | n + 1, bs, y => ghash h n (bs.drop 16) (ghMul 128 (y ^^^ block128 (bs.take 16)) h)
/-- Pad to whole blocks. -/
def pad16 (bs : List Byte) : List Byte := bs ++ List.replicate ((16 - bs.length % 16) % 16) 0
/-- The key stream in counter mode from counter `c` on, applied to a text. -/
def ctrMode (ks : List (List Byte)) (nonce : List Byte) : Nat → Nat → List Byte → List Byte
  | 0, _, _ => []
  | n + 1, c, bs =>
    xorBytes (bs.take 16) (aesBlock ks (nonce ++ beBytes 4 c)) ++ ctrMode ks nonce n (c + 1) (bs.drop 16)
/-- Encryption and decryption of a text under a 12-byte nonce. -/
def gcmText (key nonce text : List Byte) : List Byte :=
  ctrMode (roundKeys key) nonce ((text.length + 15) / 16) 2 text
/-- The tag over associated data and ciphertext. -/
def gcmTag (key nonce aad cipher : List Byte) : List Byte :=
  let ks := roundKeys key
  let h := block128 (aesBlock ks (List.replicate 16 0))
  let bs := pad16 aad ++ pad16 cipher ++ beBytes 8 (8 * aad.length) ++ beBytes 8 (8 * cipher.length)
  let y := ghash h (bs.length / 16) bs 0
  xorBytes (beBytes 16 y.toNat) (aesBlock ks (nonce ++ beBytes 4 1))

end Sys2Proof.Machine
end

