-- ==== Sys2Proof/Machine/Seal.lean ====
section
/-! DEFINITION. The seal engine (R234 to R237): parameters, payloads (Tables 7.8, 7.9), image headers (Table 7.10), `CSEAL`,
`COPEN` and their completions. -/

namespace Sys2Proof.Machine

/-! ### Issue (Table 7.7) -/

/-- The operation as its word's scalars give it.  DESIGN CHOICE: for kind 2, a range past the panel's allotment and nonzero bits
63:40 of sa+2 are parameters that break Table 7.7, and so end BADOP; no rule names their status (log 32). -/
def State.sealReq (s : State) (a : SReg) : SealReq :=
  let v := fun (i : BitVec 6) => (s.sreg (a + i)).val.toNat
  let kind := bitsOf (v 0) 0 4
  let off := bitsOf (v 2) 0 20
  let len := bitsOf (v 2) 20 20
  let bad := bitsOf (v 0) 9 55 != 0 || decide (4 < kind) || v 1 % 16 != 0 || bitsOf (v 3) 48 16 != 0 ||
    (if kind = 2 then off % 16 != 0 || len % 16 != 0 || bitsOf (v 2) 40 24 != 0 || decide (s.myPanel.padSize < off + len)
     else v 2 != 0)
  ⟨kind, bitsOf (v 0) 4 5, v 1, off, len, bitsOf (v 3) 0 32, bitsOf (v 3) 32 16, bad, s.me.panel⟩

/-- A seal word enters the engine queue with a handle (R213, R234). -/
def State.sealWord (s : State) (d a : SReg) (kindCode : Nat) (f : SealReq → OpKind) : Out :=
  let rs := [a, a + 1, a + 2, a + 3]
  s.awaits (d :: rs) <| s.engineWord <| s.unpoisoned rs <| .next (s.enqueueHandle d kindCode (f (s.sealReq a)))
/-- `CSEAL` (R234). -/
def execCseal (d a : SReg) (s : State) : Out := s.sealWord d a 2 .cseal
/-- `COPEN` (R234). -/
def execCopen (d a : SReg) (s : State) : Out := s.sealWord d a 3 .copen

/-! ### Targets -/

/-- The target of kinds 0 and 1 is halted; for the others, every skein of the panel that has not ended (R236). -/
def State.targetHalted (s : State) (r : SealReq) : Bool :=
  if r.kind < 2 then (match s.skeinOf r.panel r.skein with | some k => (s.skein k).halted | none => false)
  else (s.panelSkeins r.panel).all fun k => (s.skein k).halted
/-- The context is owned by the latched world of the core (R236). -/
def State.ownsContext (s : State) (core ctx : Nat) : Bool :=
  match Tab.find? ctx s.contexts with
  | some c => c.world == (s.core core).world
  | none => false

/-! ### Payloads -/

/-- The poison mask of a register's lanes, or of the scalars. -/
def maskOf (n : Nat) (p : Nat → Bool) : Nat := (List.range n).foldl (fun m i => if p i then m + 2 ^ i else m) 0
/-- Kind 0. -/
def Skein.payload0 (k : Skein) : List Byte :=
  ((List.range 64).flatMap fun n => (List.range 32).flatMap fun l => leBytes 4 (k.lane (laneKey n l)).val.toNat) ++
  (List.range 64).flatMap fun n => leBytes 4 (maskOf 32 fun l => (k.lane (laneKey n l)).poison)
/-- What an image keeps of a skein besides its payload (log 23). -/
def Skein.private_ (k : Skein) : SavedSkein where
  pend := k.s.filterMap fun q => q.2.pend.map fun id => (q.1, id)
  bar := k.bar
  monitor := k.monitor.isSome
  openFailed := k.openBatch.failed
  exitSlot := k.exitSlot
  orders := (List.range 4).map fun e => (Tab.get LogEntry.free k.oplog e).order
/-- The name that a kind-1 payload carries at offset 540 (log 23). -/
def State.sealName (s : State) : Nat := s.nextId % 2 ^ 32
/-- Batch failures (offsets 688 and 696). -/
def Skein.failWords (k : Skein) : Nat × Nat :=
  match k.failedBatch with
  | none => (0, 0)
  | some b => (maskOf 8 (fun i => ((k.batches.getD i (.new 0)).failed)) + b.code.toNat <<< 8, b.addr.toNat)
/-- Kind 1, with the name of what the image keeps besides. -/
def Skein.payload1 (k : Skein) (name : Nat) : List Byte :=
  let sc := fun (r : Nat) => k.sreg (BitVec.ofNat 6 r)
  ((List.range 64).flatMap fun r => leBytes 8 (sc r).val.toNat) ++
  leBytes 8 (maskOf 64 fun r => (sc r).poison) ++ leBytes 8 (maskOf 64 fun r => (sc r).pend.isSome) ++
  ((List.range 12).flatMap fun n => leBytes 1 (k.flag n)) ++ leBytes 4 name ++
  leBytes 8 k.patA.toNat ++ leBytes 8 k.patB.toNat ++ leBytes 8 k.meldOpen.toNat ++
  leBytes 8 k.regionPc.toNat ++ leBytes 8 k.regionCount.toNat ++ leBytes 8 k.stopWord.toNat ++
  leBytes 8 k.status.toNat ++ leBytes 8 k.batchWord.toNat ++
  ((List.range 8).flatMap fun sl => leBytes 8 (k.pcOf sl).toNat) ++
  leBytes 8 k.gangmap.toNat ++ leBytes 8 k.exited.toNat ++ leBytes 8 k.failWords.1 ++ leBytes 8 k.failWords.2 ++
  ((List.range 64).flatMap fun j => leBytes 8 (Tab.get 0 k.accession j).toNat) ++
  (List.range 4).flatMap fun e => (List.range 4).flatMap fun w => (List.range 32).flatMap fun l =>
    leBytes 4 ((Tab.get LogEntry.free k.oplog e).quarter w l).toNat
/-- One accumulator: elements in row order, poison bits, Q and cursor. -/
def Acc.payload (a : Acc) : List Byte :=
  let ls := a.dense
  (ls.flatMap fun x => leBytes 4 x.val.toNat) ++
  ((List.range 512).flatMap fun i => leBytes 1 (maskOf 8 fun j => (ls.getD (8 * i + j) Lane.zero).poison)) ++
  leBytes 1 a.q.toNat ++ leBytes 1 a.band.toNat ++ leBytes 62 0
/-- The accumulators of a panel in the order of kind 3. -/
def State.accList (s : State) (p : Nat) : List Acc :=
  let x := s.panel p
  let b := (s.launch x.launch).block
  (List.range b.acc).flatMap fun n => x.acc n :: (if n = 0 && b.flags.getLsbD 2 then [x.lent] else [])
/-- The stopped operations of a panel, in queue order. -/
def State.stoppedOps (s : State) (p : Nat) : List Nat :=
  (s.core (s.panel p).core).queue.filter fun id =>
    match s.op id with | some o => o.panel == p && o.kind.accOf.isSome | none => false
/-- Kind 3; a record holds a name for what it stands for, and the name that its operation has in the machine (log 23). -/
def State.payload3 (s : State) (p : Nat) : List Byte :=
  ((s.accList p).flatMap Acc.payload) ++
    (s.stoppedOps p).zipIdx.flatMap fun q => leBytes 8 (s.nextId + q.2) ++ leBytes 248 q.1
/-- One spool: base, size, count, free, filled, the places of the next claim and take, slots held (log 23). -/
def Spool.payload (y : Spool) : List Byte :=
  let m := fun n => if y.count = 0 then 0 else n % y.count
  [y.base, y.size, y.count, y.free, y.filled, m y.nextClaim, m y.nextTake, y.held.length].flatMap (leBytes 4)
/-- Kind 4. -/
def Panel.payload4 (p : Panel) : List Byte := (List.range 8).flatMap fun n => (p.spool n).payload
/-- The payload of a segment. -/
def State.payload (s : State) (r : SealReq) : List Byte :=
  let k := match s.skeinOf r.panel r.skein with | some k => s.skein k | none => Skein.none_
  match r.kind with
  | 0 => k.payload0
  | 1 => k.payload1 s.sealName
  | 2 => (s.panel r.panel).padBytes r.off r.len
  | 3 => s.payload3 r.panel
  | _ => (s.panel r.panel).payload4

/-! ### Images (R235, Table 7.10) -/

/-- The per-context key (log 10). -/
def State.ctxKey (s : State) (ctx : Nat) : List Byte :=
  let c := s.context ctx
  (List.range 32).map fun i => Config.keyByte (ctx * 256 + c.world) c.creation i
def sealNonce (ctx counter seg : Nat) : List Byte := beBytes 4 ctx ++ beBytes 4 counter ++ beBytes 2 seg ++ [0, 0]
/-- Header bytes 0 to 31. -/
def sealAad (r : SealReq) (counter len world : Nat) : List Byte :=
  leBytes 4 0x47533444 ++ leBytes 2 1 ++ leBytes 1 r.kind ++ leBytes 1 r.skein ++ leBytes 4 r.ctx ++ leBytes 4 counter ++
    leBytes 2 r.seg ++ leBytes 2 0 ++ leBytes 4 len ++ leBytes 4 (if r.kind = 2 then r.off else 0) ++ leBytes 4 world
/-- A whole image. -/
def sealImage (key : List Byte) (r : SealReq) (counter world : Nat) (text : List Byte) : List Byte :=
  let aad := sealAad r counter text.length world
  let nonce := sealNonce r.ctx counter r.seg
  let cipher := gcmText key nonce text
  aad ++ gcmTag key nonce aad cipher ++ leBytes 16 0 ++ cipher

/-! ### CSEAL (R236) -/

/-- Copies that the target has issued; those that wait for a slot apart. -/
def State.copiesOpen (s : State) (k : Nat) : Bool :=
  s.ops.any fun q => q.2.sk == k && (s.copyOp q.1).isSome && !s.waitsSlot q.2
/-- What a restore finds again of a segment that has been sealed (log 23): what a kind-1 image keeps besides its payload, and
the operations of a kind-3 image's records.  DESIGN CHOICE: a restored `MMAT` no longer has the stop of its save, so it goes on
from the step that follows once its segment is open, before its skein is resumed; R220 gives no moment (log 32). -/
def State.keepPrivate (s : State) (r : SealReq) : State :=
  match r.kind, s.skeinOf r.panel r.skein with
  | 1, some k => { s with savedSkeins := Tab.put s.sealName (s.skein k).private_ s.savedSkeins, nextId := s.nextId + 1 }
  | 3, _ =>
    let ids := s.stoppedOps r.panel
    let keep := fun (t : Tab Op) (q : Nat × Nat) =>
      match s.op q.1 with
      | some o =>
        let kind := match o.kind with | .mmat m => .mmat { m with stop := false } | k => k
        Tab.put (s.nextId + q.2) { o with sk := (s.skein o.sk).idx, kind := kind } t
      | none => t
    { s with savedOps := ids.zipIdx.foldl keep s.savedOps, nextId := s.nextId + ids.length }
  | _, _ => s
/-- The bytes of an image that are read, and those that are written, each as a lane of its own (R237, R289, R297). -/
def State.imageReads (s : State) (o : Op) (va n : Nat) : List LaneTry :=
  s.withMemory o.who (fun _ => .home) (s.collRange o.who needR va n)
def State.imageWrites (s : State) (o : Op) (va n : Nat) : List LaneTry := s.withTarget 1 (s.collRange o.who needW va n)
/-- Progress of a transfer that faulted: some count of payload bytes. -/
def State.someProgress (s : State) (n : Nat) : Nat := Config.choice (2 ^ 70 + s.tick) % (n + 1)

/-- The status of a seal word that does nothing: DENIED, or BADOP with a free detail.  R237 orders the two for `COPEN`; DESIGN
CHOICE: the same order for `CSEAL`, for which R236 gives none (log 32). -/
def State.sealRefused (s : State) (o : Op) (r : SealReq) : Option Dword :=
  if !s.ownsContext o.core r.ctx then some (statusWord 8 0 0 0)
  else if r.bad || !s.targetHalted r then some (statusWord 2 (Config.freeByte s.tick 0).toNat 0 0)
  else none
/-- The counter of the context stands at its last value, so that no segment 0 can be sealed (R236). -/
def State.counterSpent (s : State) (r : SealReq) : Bool := r.seg == 0 && (s.context r.ctx).counter == 0xFFFFFFFF
/-- The writing of a segment, and its status. -/
def State.sealNow (s : State) (o : Op) (r : SealReq) : State × Dword :=
  let c := s.context r.ctx
  let s := if r.seg = 0 then s.setContext r.ctx { c with counter := c.counter + 1 } else s
  let c := s.context r.ctx
  let text := s.payload r
  let bs := sealImage (s.ctxKey r.ctx) r c.counter.toNat (s.core o.core).world text
  let ts := s.imageWrites o r.image bs.length
  let ok := passed ts
  let put := ok.filterMap fun t =>
    let i := t.2.1 - r.image
    if (failed ts).isEmpty || Config.coin s.tick i then some (t, bs.getD i 0) else none
  let ws := put.map fun q => (q.1.2.2.pa, q.2)
  let lines := (ws.map fun w => globLine w.1).eraseDups
  let s := ((((s.keepPrivate r).noteBad o.who ts).sealed (put.map Prod.fst)).untagLines o.core lines).writeHome o.core ws
  match failed ts with
  | [] => (s, statusWord 0 0 0 text.length)
  | f :: _ => (s, statusWord 4 f.2.2 0 (s.someProgress text.length))

/-- The copies of the target that wait for a slot are withdrawn, as a kind-1 segment needs. -/
def State.withdrawFor (s : State) (r : SealReq) : Option State :=
  match r.kind, s.skeinOf r.panel r.skein with
  | 1, some k => withdrawAll ((s.ops.filter fun q => q.2.sk == k).map Prod.fst) s
  | _, _ => some s
/-- A kind-1 segment waits for the copies of its target. -/
def State.sealWaits (s : State) (r : SealReq) : Bool :=
  match r.kind, s.skeinOf r.panel r.skein with
  | 1, some k => s.copiesOpen k
  | _, _ => false
/-- A `CSEAL` ends with its status (R341): in a context that is being saved, one other than OK leads to tier three, and
segment 0 lets the other panels' traps be queued. -/
def State.endSeal (s : State) (id : Nat) (o : Op) (r : SealReq) (st : Dword) : State :=
  let ctx := s.ctxOf o.who
  let t := s.endHandle id o st
  if (t.context ctx).life != .saving then t
  else if bitsOf st.toNat 48 8 != 0 then t.tierThree ctx
  else if r.seg = 0 && r.ctx = ctx then t.queueOthers ctx
  else t
/-- `CSEAL_COMPLETE` (R236): the word is checked; then the copies of the target end or are withdrawn, the segment is written,
and the handle holds its status. -/
def execCsealComplete (id : Nat) (s : State) : Out :=
  match s.op id with
  | none => .next s
  | some o =>
    match o.kind with
    | .cseal r =>
      match (if s.ownsContext o.core r.ctx && s.counterSpent r then some (statusWord 8 0 0 0) else s.sealRefused o r) with
      | some st => .next (s.endSeal id o r st)
      | none =>
        if s.sealWaits r then .next s
        else
          match s.withdrawFor r with
          | none => .next (s.tierThree (s.ctxOf o.who))
          | some s => let q := s.sealNow o r; .next (q.1.endSeal id o r q.2)
    | _ => .next s

/-! ### COPEN (R237) -/

/-- A field of a payload. -/
def fieldOf (bs : List Byte) (off n : Nat) : Nat := leNat ((bs.drop off).take n)
/-- The lanes of a kind-0 payload. -/
def lanesOf0 (bs : List Byte) : Tab Lane :=
  ((List.range 2048).map fun j =>
    (j, (⟨BitVec.ofNat 32 (fieldOf bs (4 * j) 4), (fieldOf bs (8192 + j / 32 * 4) 4).testBit (j % 32)⟩ : Lane))).filter
    fun q => q.2 != Lane.zero
/-- An operand log entry of a kind-1 payload (Table 12.3). -/
def entryOf (bs : List Byte) (order : Nat) : LogEntry :=
  let w := fun (q l : Nat) => BitVec.ofNat 32 (fieldOf bs (128 * q + 4 * l) 4)
  let d := fun (l : Nat) => (w 3 (l + 1) ++ w 3 l : Dword)
  let head := (w 3 0).toNat
  let tab := fun (q : Nat) => (List.range 32).map fun l => (l, w q l)
  { LogEntry.free with
    valid := head.testBit 0
    cont := head.testBit 1
    write := head.testBit 2
    flag := BitVec.ofNat 4 (bitsOf head 4 4)
    code := BitVec.ofNat 8 (bitsOf head 8 8)
    replays := BitVec.ofNat 8 (bitsOf head 16 8)
    mask := w 3 1
    pc := BitVec.ofNat 53 ((w 3 2).toNat + bitsOf (w 3 3).toNat 0 21 * 2 ^ 32)
    slot := BitVec.ofNat 2 (bitsOf (w 3 3).toNat 21 2)
    word := w 3 4
    literal := w 3 5
    sbase := d 6
    sx := d 8
    page := d 10
    pm := w 3 12
    isOpen := (w 3 13).getLsbD 0
    patA := d 14
    patB := d 16
    voff := tab 0
    data0 := tab 1
    data1 := tab 2
    instr := match decodeWord (w 3 4) (w 3 5) with | some (_, i) => i | none => .nop
    order := order }
/-- The stop and the region entry record of a word (Table 4.7). -/
def recAt (x lo : Nat) : ClauseRec :=
  ⟨BitVec.ofNat 4 (bitsOf x (lo + 8) 4), BitVec.ofNat 4 (bitsOf x (lo + 4) 4), BitVec.ofNat 4 (bitsOf x lo 4)⟩
/-- The number before a batch's, which skips 0 (R23). -/
def prevBatch (n : BitVec 32) : BitVec 32 := if n - 1 = 0 then 0xFFFFFFFF else n - 1
/-- The numbers of `n` batches before one, the oldest first. -/
def batchesBefore : Nat → BitVec 32 → List (BitVec 32)
  | 0, _ => []
  | n + 1, b => let p := prevBatch b; batchesBefore n p ++ [p]

/-- A kind-1 payload replaces the skein's state, `em` and `pm` without poison (R18); `w` is what the image keeps besides. -/
def Skein.load1 (k : Skein) (bs : List Byte) (w : SavedSkein) : Skein :=
  let f := fun off => fieldOf bs off 8
  let stop := f 584
  let code := BitVec.ofNat 8 (bitsOf (f 688) 8 8)
  let addr := BitVec.ofNat 64 (f 696)
  let fail := fun (b : Batch) (x : Bool) => if x then { b with failed := true, code := code, addr := addr } else b
  let num := BitVec.ofNat 32 (bitsOf (f 600) 0 32)
  let nums := batchesBefore (bitsOf (f 600) 32 4) num
  { k with
    s := (List.range 63).map fun r =>
      (r, if r = 60 ∨ r = 61 then ⟨BitVec.ofNat 64 (f (8 * r) % 2 ^ 32), false, none⟩
        else ⟨BitVec.ofNat 64 (f (8 * r)), (f 512).testBit r, if (f 520).testBit r then Tab.find? r w.pend else none⟩)
    f := (List.range 12).map fun n => (n, fieldOf bs (528 + n) 1)
    bar := w.bar
    monitor := if w.monitor then some 0 else none
    patA := BitVec.ofNat 64 (f 544)
    patB := BitVec.ofNat 64 (f 552)
    meldOpen := (f 560).testBit 0
    regionPc := BitVec.ofNat 53 (f 568)
    regionCount := BitVec.ofNat 32 (f 576)
    stopRec := recAt stop 45
    regionRec := recAt stop 0
    status := BitVec.ofNat 64 (f 592) &&& statusMask
    openBatch := fail (.new num) w.openFailed
    batches := nums.zipIdx.map fun b => fail (.new b.1) ((f 688).testBit b.2)
    pc := (List.range 8).map fun sl => (sl, BitVec.ofNat 53 (f (608 + 8 * sl)))
    gangmap := BitVec.ofNat 24 (f 672)
    exited := BitVec.ofNat 8 (f 680)
    exiting := f 680 % 256 == 255
    exitSlot := w.exitSlot
    accession := (List.range 64).map fun j => (j, BitVec.ofNat 64 (f (704 + 8 * j)))
    oplog := (List.range 4).map fun e => (e, entryOf (bs.drop (1216 + 512 * e)) (w.orders.getD e e))
    gangs := []
    pending := []
    stag := [] }
/-- What a logged word asks of its page. -/
def LogEntry.kindCode (e : LogEntry) : Nat :=
  match e.instr with
  | .st _ _ _ _ _ | .stRelCore _ _ _ _ _ | .stRelQuad _ _ _ _ _ | .stRelDie _ _ _ _ _ | .stRelPkg _ _ _ _ _
  | .stRelPod _ _ _ _ _ => 1
  | .atom _ _ _ _ _ _ | .red _ _ _ _ _ _ | .redbv _ _ _ | .bari _ _ _ | .bara _ _ | .bar _ _ | .bexp _ _ _ => 2
  | _ => 0
/-- The Registrar posts a fault record for each restored entry (R336). -/
def State.repost (s : State) (k : Nat) : State :=
  let w := s.whoOf k
  (s.skein k).oplog.foldl (fun s q =>
    let e := q.2
    if !e.valid || e.cont then s
    else
      let lines := (e.lanes.map fun l => s.entryAddr w e l / 256).eraseDups
      let s := s.modSkein k fun x => { x with oplog := Tab.put q.1 { e with lines := lines } x.oplog }
      s.postFault (s.ctxOf w) e.page.toNat e.code.toNat e.kindCode) s

/-- An accumulator of a kind-3 payload. -/
def accAt (bs : List Byte) : Acc :=
  let ls := (List.range 4096).map fun i =>
    (⟨BitVec.ofNat 32 (fieldOf bs (4 * i) 4), (fieldOf bs (16384 + i / 8) 1).testBit (i % 8)⟩ : Lane)
  ⟨sparse ls, BitVec.ofNat 5 (fieldOf bs 16896 1), BitVec.ofNat 3 (fieldOf bs 16897 1)⟩
/-- The accumulators of a kind-3 payload take their places: number, and whether it is the lent slot. -/
def Panel.loadAccs (p : Panel) : List (Nat × Bool) → List Byte → Panel
  | [], _ => p
  | (n, isLent) :: t, bs =>
    let a := accAt bs
    (if isLent then { p with lent := a } else { p with accs := Tab.put n a p.accs }).loadAccs t (bs.drop 16960)
/-- The places of kind 3. -/
def State.accPlaces (s : State) (p : Nat) : List (Nat × Bool) :=
  let b := (s.launch (s.panel p).launch).block
  (List.range b.acc).flatMap fun n => (n, false) :: (if n = 0 && b.flags.getLsbD 2 then [(0, true)] else [])
/-- An operation that acts for a panel. -/
def OpKind.onPanel (p : Nat) : OpKind → OpKind
  | .mmat m => .mmat { m with panel := p }
  | .mzero _ a => .mzero p a
  | .mload _ a r b q => .mload p a r b q
  | .mdrain _ a f t d sc q ks sks g => .mdrain p a f t d sc q ks sks g
  | k => k
/-- The stopped operations of a kind-3 payload enter the queue of the panel's core again. -/
def State.loadRecords (s : State) (p : Nat) : Nat → List Byte → State
  | 0, _ => s
  | n + 1, bs =>
    let id := fieldOf bs 8 8
    let x := s.panel p
    let s := match Tab.find? (fieldOf bs 0 8) s.savedOps with
      | some o =>
        match s.skeinOf p o.sk with
        | some k =>
          let c := s.core x.core
          (s.setOp id { o with core := x.core, sk := k, panel := p, launch := x.launch, kind := o.kind.onPanel p }).setCore x.core
            { c with queue := c.queue.filter (· != id) ++ [id] }
        | none => s
      | none => s
    s.loadRecords p n (bs.drop 256)
/-- A spool of a kind-4 payload. -/
def spoolAt (bs : List Byte) : Spool :=
  let f := fun i => fieldOf bs (4 * i) 4
  let y : Spool := { Spool.unconfigured with base := f 0, size := f 1, count := f 2, free := f 3, filled := f 4 }
  let take := f 6 + f 2
  { y with nextClaim := f 5 + f 2, nextTake := take, held := (List.range (f 7)).map fun i => y.slot (take - f 7 + i) }

/-- The whole segment replaces the target's state at once. -/
def State.loadSegment (s : State) (r : SealReq) (bs : List Byte) : State :=
  match r.kind, s.skeinOf r.panel r.skein with
  | 0, some k => s.modSkein k fun x => { x with v := lanesOf0 bs, vtag := [] }
  | 1, some k =>
    let w := Tab.get (Skein.none_.private_) s.savedSkeins (fieldOf bs 540 4)
    (s.modSkein k fun x => x.load1 bs w).repost k
  | 2, _ => s.padWrite r.panel (bs.zipIdx.map fun b => (r.off + b.2, b.1))
  | 3, _ =>
    let places := s.accPlaces r.panel
    let s := s.setPanel r.panel ((s.panel r.panel).loadAccs places bs)
    s.loadRecords r.panel ((bs.length - 16960 * places.length) / 256) (bs.drop (16960 * places.length))
  | 4, _ =>
    let p := s.panel r.panel
    s.setPanel r.panel { p with spools := (List.range 8).map fun n => (n, spoolAt (bs.drop (32 * n))) }
  | _, _ => s

/-- Payload lengths that a segment's parameters and panel allow (Table 7.8), given what the header says. -/
def State.segLength (s : State) (r : SealReq) (told : Nat) : Nat :=
  match r.kind with
  | 0 => 8448
  | 1 => 3264
  | 2 => r.len
  | 3 =>
    let base := 16960 * (s.accPlaces r.panel).length
    if base ≤ told && (told - base) % 256 == 0 && decide ((told - base) / 256 ≤ queueSize) then told else base
  | _ => 256
/-- `n` bytes of an image, or the code of the first fault (R237, R289, R297). -/
def State.readImage (s : State) (o : Op) (va n : Nat) : Except Nat (List Byte) :=
  let ts := s.imageReads o va n
  match failed ts with
  | f :: _ => .error f.2.2
  | [] => .ok ((passed ts).map fun t => s.mem.homeByte t.2.2.pa)
/-- The checks of an image in order; then the segment takes its place (R237). -/
def State.openNow (s : State) (o : Op) (r : SealReq) : State × Dword :=
  match s.sealRefused o r with
  | some st => (s, st)
  | none =>
    match s.readImage o r.image 64 with
    | .error f => (s.noteBad o.who (s.imageReads o r.image 64), statusWord 4 f 0 (s.someProgress 0))
    | .ok h =>
      let counter := fieldOf h 12 4
      let len := s.segLength r (fieldOf h 20 4)
      let want := sealAad r counter len (s.core o.core).world
      if h.take 32 != want || (h.drop 48).any (· != 0) then (s, statusWord 2 6 0 0)
      else if counter != (s.context r.ctx).counter.toNat then (s, statusWord 6 0 0 0)
      else
        match s.readImage o (r.image + 64) len with
        | .error f => (s.noteBad o.who (s.imageReads o (r.image + 64) len), statusWord 4 f 0 (s.someProgress len))
        | .ok cipher =>
          let key := s.ctxKey r.ctx
          let nonce := sealNonce r.ctx counter r.seg
          if gcmTag key nonce want cipher != (h.drop 32).take 16 then (s, statusWord 7 0 0 len)
          else (s.loadSegment r (gcmText key nonce cipher), statusWord 0 0 0 len)
/-- `COPEN_COMPLETE` (R237). -/
def execCopenComplete (id : Nat) (s : State) : Out :=
  match s.op id with
  | none => .next s
  | some o =>
    match o.kind with
    | .copen r => let q := s.openNow o r; .next (q.1.endHandle id o q.2)
    | _ => .next s

end Sys2Proof.Machine
end

