-- ==== Sys2Proof/Machine/Launch.lean ====
section
/-! DEFINITION. The Registrar: queues, acceptance and checks of launches (R307 to R313, R357), dispatch (R308, R321),
pre-emption requests (R309), quanta (R276, R277, R322), the watchdog (R344), aborts and the closing of launches (R325 to
R328). -/

namespace Sys2Proof.Machine

/-! ### Queues (R357) -/

/-- `DOORBELL` (R357): a launch tail; one that runs past the ring stops the queue. -/
def execDoorbell (q : Nat) (tail : BitVec 32) (s : State) : Out :=
  if 128 ≤ q || !s.host.serves then .next s
  else
    let x := s.queue q
    let r := { x.launch with tail := tail }
    let s := s.setQueue q { x with launch := r }
    if x.stopped || (r.tail - r.head).toNat ≤ r.entries then .next s
    else
      .next ((s.setQueue q { x with launch := r, stopped := true }).postError ⟨.queueOverrun, 5, q, none, 0, none, []⟩)
/-- `QUEUE_ENABLE` (R357): enabling a queue that was disabled clears its stop. -/
def State.enableQueue (s : State) (q : Nat) (enable : Bool) : State :=
  let x := s.queue q
  s.setQueue q { x with enable := enable, stopped := x.stopped && !(enable && !x.enable) }
def execQueueEnable (q : Nat) (enable : Bool) (s : State) : Out :=
  .next (if 128 ≤ q || !s.host.serves then s else s.enableQueue q enable)

/-! ### Acceptance (R307, R310, R312, R313) -/

/-- The block at the head of a queue's ring. -/
def State.headBlock (s : State) (q : Nat) : List Byte :=
  let r := (s.queue q).launch
  s.mem.host.readN (r.base + (r.head.toNat % r.entries) * 256) 256
/-- The fields of Table 11.1. -/
def parseBlock (bs : List Byte) : Block where
  version := fieldOf bs 0 2
  flags := BitVec.ofNat 16 (fieldOf bs 2 2)
  context := fieldOf bs 4 4
  code := fieldOf bs 8 8
  gx := fieldOf bs 16 4
  gy := fieldOf bs 20 4
  gz := fieldOf bs 24 4
  skeins := fieldOf bs 28 1
  scratch := fieldOf bs 29 1
  acc := fieldOf bs 30 1
  traversal := fieldOf bs 31 1
  swizzle := fieldOf bs 32 1
  qexp := fieldOf bs 33 1
  dcores := fieldOf bs 34 2
  world := fieldOf bs 36 1
  priority := fieldOf bs 37 1
  bcount := fieldOf bs 38 1
  seed := BitVec.ofNat 64 (fieldOf bs 40 8)
  ctrbase := BitVec.ofNat 64 (fieldOf bs 48 8)
  cbank := fieldOf bs 56 8
  cbsize := fieldOf bs 64 4
  deadline := fieldOf bs 68 4
  watchdog := fieldOf bs 72 8
  btable := fieldOf bs 80 8
  deps := (List.range 4).map fun i => fieldOf bs (88 + 8 * i) 8
  digests := (List.range 4).map fun i => (fieldOf bs (120 + 16 * i) 8, fieldOf bs (128 + 16 * i) 8)
  reserved := fieldOf bs 39 1 != 0 || (bs.drop 184).any (· != 0)

/-- A field of a block lies outside its limits (R310, R312), apart from what needs the context table. -/
def Block.outside (b : Block) (priority seq : Nat) : Bool :=
  let within := fun (x lo hi : Nat) => decide (lo ≤ x) && decide (x ≤ hi)
  b.version != 1 || b.reserved || b.flags.toNat / 64 != 0 || b.priority != priority || !within b.priority 0 3 ||
    b.code % 12 != 0 || !within b.code 0 (2 ^ 56 - 1) ||
    !(within b.gx 1 (2 ^ 20) && within b.gy 1 (2 ^ 20) && within b.gz 1 (2 ^ 20)) || !within b.total 1 (2 ^ 40) ||
    !within b.skeins 1 32 || !within b.scratch 0 96 || !(if b.pair then within b.acc 1 3 else within b.acc 0 4) ||
    !within b.traversal 0 3 || !within b.swizzle 0 6 || (decide (2 ≤ b.traversal) && b.swizzle != 0) ||
    (if b.dmode then !within b.qexp 10 16 || !within b.dcores 1 256 || b.quadplace else b.qexp != 0 || b.dcores != 0) ||
    (b.quadl1 && b.dmode && b.dcores % 4 != 0) || !within b.bcount 0 64 ||
    b.cbank % 16 != 0 || b.cbsize % 16 != 0 || !within b.cbsize 0 (2 ^ 20) || b.btable % 32 != 0 ||
    b.deps.any fun d => decide (seq ≤ d)
/-- The region of a descriptor (Table 11.3), or none where it breaks a limit. -/
def regionOf32 (bs : List Byte) : Option Region :=
  let base := fieldOf bs 0 8
  let size := fieldOf bs 8 8
  let ease := fieldOf bs 16 4
  let mode := fieldOf bs 20 1
  let finite := bitsOf ease 23 8 != 255 && (bitsOf ease 31 1 == 0 || bitsOf ease 0 31 == 0)
  if base % 64 != 0 || size == 0 || size % 64 != 0 || !finite || 1 < mode || (bs.drop 21).any (· != 0) then none
  else some ⟨base, size, BitVec.ofNat 32 (ease % 2 ^ 31), mode⟩
/-- The regions of a table, or none where one breaks a limit or two overlap (R313). -/
def regionsOf : Nat → List Byte → List Region → Option (List Region)
  | 0, _, rs => some rs
  | n + 1, bs, rs =>
    match regionOf32 (bs.take 32) with
    | none => none
    | some r =>
      if rs.any fun q => decide (q.base < r.base + r.size) && decide (r.base < q.base + q.size) then none
      else regionsOf n (bs.drop 32) (rs ++ [r])
/-- The bounded-region table of a block, or none where it refuses the launch. -/
def State.blockRegions (s : State) (b : Block) : Option (List Region) :=
  if b.bcount = 0 then some []
  else
    match s.readCtx b.context b.btable b.world (32 * b.bcount) with
    | .error _ => none
    | .ok bs => regionsOf b.bcount (bs.take (32 * b.bcount)) []

/-- A queue has a block that may be accepted: that of a quarantined context waits (R367). -/
def State.mayAccept (s : State) (q : Nat) : Bool :=
  let x := s.queue q
  x.enable && !x.stopped && x.launch.valid && x.launch.tail != x.launch.head &&
    decide (3 ≤ bitsOf s.host.status.toNat 24 8) && !(s.context (parseBlock (s.headBlock q)).context).quarantined
/-- The queue that the Registrar serves next: the highest priority, then round-robin after the one it served last (R307). -/
def State.nextQueue (s : State) : Option Nat :=
  let qs := (List.range 128).filter s.mayAccept
  let top := qs.foldl (fun m q => max m (s.queue q).priority) 0
  let same := (List.range 128).filter fun q => (s.queue q).priority == top
  let last := same.foldl (fun b q => if (s.queue b).lastServed < (s.queue q).lastServed then q else b) (same.headD 0)
  let start := if (s.queue last).lastServed = 0 then 0 else last + 1
  ((List.range 128).map fun i => (start + i) % 128).find? fun q => qs.contains q && (s.queue q).priority == top

/-- The code that the driver has placed at an address (R257, R377). -/
def State.imageAt (s : State) (code : Nat) : Option Image := s.images.find? fun i => i.base == code
/-- The code digest of a launch (R327): over the code section, then the trap section, as the driver has placed them.  What
stands at a code address that the driver has told nothing of is not known to the model, and the digest is free (log 34). -/
def State.codeDigest (s : State) (seq code : Nat) : List Byte :=
  match s.imageAt code with
  | some i => sha384 (i.code ++ i.trap)
  | none => (List.range 48).map fun n => Config.freeByte seq n
/-- `LAUNCH_ACCEPT` (R307, R312): the next block takes the next sequence number, and is accepted or refused. -/
def execLaunchAccept (q : Nat) (s : State) : Out :=
  if s.nextQueue != some q then .next s
  else
    let x := s.queue q
    let b := parseBlock (s.headBlock q)
    let seq := s.host.nextSeq
    let s := s.setHost { s.host with nextSeq := seq + 1 }
    let s := s.setQueue q { x with launch := { x.launch with head := x.launch.head + 1 }, lastServed := seq }
    let known := match Tab.find? b.context s.contexts with | some c => c.world == b.world | none => false
    let regions := if known then s.blockRegions b else none
    let l : Launch := { Launch.none_ with queue := q, block := b }
    let mine := s.vit.launched == some 0 && s.vit.codeBase == b.code
    let s := if mine then { s with vit := { s.vit with launched := some seq } } else s
    match (if b.outside x.priority seq then none else regions) with
    | none =>
      let ctx := if (Tab.find? b.context s.contexts).isSome then some b.context else none
      let s := s.setLaunch seq { l with life := .closing, status := .refused }
      .next ((s.postError ⟨.launchRefused, 5, 0, ctx, seq, none, []⟩).postProv seq)
    | some rs =>
      let (n, t) := match s.imageAt b.code with | some i => (i.code.length / 12, i.trap.length / 12) | none => (0, 0)
      .next (s.setLaunch seq { l with
        regions := rs
        life := .waiting
        codeSize := n
        trapSize := t
        trapbase := if t = 0 then none else some (BitVec.ofNat 53 (b.code / 12 + n))
        codeDigest := s.codeDigest seq b.code
        attached := mine })

/-! ### Dispatch (R308, R321) -/

/-- A dependence that has ended with a status other than OK. -/
def State.depFailed (s : State) (seq : Nat) : Bool :=
  (s.launch seq).block.deps.any fun d => d != 0 && (s.launch d).life == .ended && (s.launch d).status != .ok
/-- `LAUNCH_DISPATCH` (R308, R321, R322): a launch whose dependences have completed becomes eligible, or ends DEPFAIL; in
deterministic mode it takes its grant, and its first panels start together. -/
def execLaunchDispatch (seq : Nat) (s : State) : Out :=
  let l := s.launch seq
  if l.life != .waiting || (s.context l.block.context).quarantined then .next s
  else if s.depFailed seq then .next ((s.setLaunch seq { l with life := .closing, status := .depfail }).postProv seq)
  else if !s.depsMet seq then .next s
  else if !l.block.dmode then .next (s.setLaunch seq { l with life := .running })
  else if !s.host.status.getLsbD 0 || !s.ctxOpen l.block.context then .next s
  else
    match s.grantFor [] asLatched seq with
    | none => .next s
    | some cs =>
      if cs.any (s.wantedAbove seq) then .next s
      else .next ((s.setLaunch seq { l with life := .running, grant := cs }).placeGrant seq)

/-! ### Pre-emption requests (R309) -/

/-- The launch could be placed, with some launches left out and empty cores re-latched. -/
def State.roomFor (s : State) (ignore : List Nat) (seq : Nat) : Bool :=
  let b := (s.launch seq).block
  let open_ := s.openLatch ignore
  if b.dmode && (s.launch seq).grant.isEmpty then (s.grantFor ignore open_ seq).isSome
  else if b.quadplace then (List.range 64).any fun q => (quadOf true (4 * q)).all (s.eligible ignore open_ seq)
  else (List.range 256).any (s.eligible ignore open_ seq)
/-- A launch of a context that holds a core has a priority of at least `p`: the context is then no victim for it, since
pre-emption acts on whole contexts and spares such a launch (R309, R339). -/
def State.spared (s : State) (ctx p : Nat) : Bool :=
  s.launches.any fun q => q.2.block.context == ctx && decide (p ≤ q.2.block.priority) &&
    s.panels.any fun x => x.2.launch == q.1 && x.2.life.holdsCore
/-- Launches of lower priority that hold cores, the lowest priority first, then the highest number. -/
def State.victimsFor (s : State) (seq : Nat) : List Nat :=
  let b := (s.launch seq).block
  let t : Tab Nat := s.launches.foldl (fun t q =>
    if q.2.life == .running && decide (q.2.block.priority < b.priority) && !s.spared q.2.block.context b.priority &&
        (s.context q.2.block.context).life == .running && s.panels.any (fun p => p.2.launch == q.1 && p.2.life.holdsCore) then
      Tab.put (q.2.block.priority * 2 ^ 64 + (2 ^ 64 - 1 - q.1)) q.1 t
    else t) []
  t.map Prod.snd
/-- Add victims until the room suffices. -/
def addVictims (ok : List Nat → Bool) : List Nat → List Nat → Option (List Nat)
  | vs, [] => if ok vs then some vs else none
  | vs, v :: t => if ok vs then some vs else addVictims ok (vs ++ [v]) t
/-- A requested victim is still leaving. -/
def State.leaving (s : State) (seq : Nat) : Bool :=
  (s.launch seq).victims.any fun v =>
    let c := s.context (s.launch v).block.context
    (c.tierOne || c.life == .saving) && s.panels.any fun p => p.2.launch == v && p.2.life.holdsCore
/-- `PREEMPTION_REQUEST` (R309): the contexts of the victims enter tier one. -/
def execPreemptionRequest (seq : Nat) (s : State) : Out :=
  if !s.waiting seq || s.leaving seq || s.roomFor [] seq then .next s
  else
    match addVictims (fun vs => s.roomFor vs seq) [] (s.victimsFor seq) with
    | none => .next s
    | some vs =>
      let s := s.setLaunch seq { s.launch seq with victims := vs }
      .next (vs.foldl (fun s v =>
        let ctx := (s.launch v).block.context
        s.setContext ctx { s.context ctx with tierOne := true }) s)

/-! ### Quanta (R276, R277, R322) -/

/-- A wait that only a commit can end (R276). -/
def State.commitWait (s : State) (k : Nat) (w : Wait) : Bool :=
  let mine := fun (p : Op → Bool) => s.ops.any fun q => q.2.sk == k && q.2.staged && p q.2
  match w with
  | .barrier | .monitor _ _ | .batch | .spool _ => true
  | .flags m => mine fun o => match o.kind, o.flag with | .atomic _ _ _ _ _, some f => m.getLsbD f | _, _ => false
  | .future r =>
    match ((s.skein k).sreg r).pend with
    | some id => (match s.op id with | some o => (match o.kind with | .coll _ => true | _ => false) | none => false)
    | none => false
  | _ => false
/-- A gang waits on a commit; one whose watched line has been written does not. -/
def State.gangWaits (s : State) (k g : Nat) : Bool :=
  let c := (s.skein k).cursor g
  !c.woken && match c.wait with | some w => s.commitWait k w | none => false
/-- A skein has ended its quantum: it has retired Q packets, exits, or every gang of it waits on a commit or on those that
do.  A halted skein has not. -/
def State.quantumEnded (s : State) (k qexp : Nat) : Bool :=
  let x := s.skein k
  !x.halted && (x.exiting || decide (2 ^ qexp ≤ x.retired) ||
    (x.leaders.all (fun g => (x.cursor g).wait == some .regang || s.gangWaits k g) && x.leaders.any (s.gangWaits k)))
/-- A skein whose slices have exited has come to its end or to what only a commit brings on: what it has in flight is staged,
or a collective (R126, R279, R322). -/
def State.exitSettled (s : State) (k : Nat) : Bool :=
  !(s.skein k).exiting || (!s.endDue k &&
    s.ops.all fun q => q.2.sk != k || q.2.staged || (match q.2.kind with | .coll _ => true | _ => false))
/-- The next quantum begins for a skein: it counts afresh, and its gangs look at what they wait on again (R276). -/
def Skein.newQuantum (k : Skein) : Skein :=
  let look := fun (c : Cursor) => if c.wait == some .regang then c else { c with wait := none, woken := false }
  { k with retired := 0, gangs := Tab.mapv look k.gangs }
/-- The launch's skeins that hold cores. -/
def State.launchSkeins (s : State) (seq : Nat) : List Nat :=
  ((s.panels.filter fun q => q.2.launch == seq && q.2.life.holdsCore).map Prod.fst).flatMap s.panelSkeins
/-- `QUANTUM_COMMIT` (R276, R277, R322): once every skein has ended the quantum, and those that end with it have ended, what is
staged is performed in order, and the collectives that can be resolved deliver; then the next quantum begins, and panels start
where places are free.  A copy that waits for a page holds the commit there. -/
def execQuantumCommit (seq : Nat) (s : State) : Out :=
  let l := s.launch seq
  let ks := s.launchSkeins seq
  if l.life != .running || !l.block.dmode || (s.context l.block.context).life != .running ||
      !ks.all (fun k => s.quantumEnded k l.block.qexp && s.exitSettled k) then .next s
  else
    let s := s.performList (s.commitOrder seq)
    if s.ops.any fun q => q.2.launch == seq && q.2.staged && !s.slotless q.1 q.2 then .next s
    else
      let s := s.commitColls seq
      let s := ks.foldl (fun s k => s.modSkein k Skein.newQuantum) s
      let s := l.grant.foldl (fun s c => s.untagLoads c) s
      .next ((s.setLaunch seq { s.launch seq with quantum := l.quantum + 1 }).placeGrant seq)

/-! ### The watchdog (R344) -/

/-- Every word that a flag still counts is held in the operand log. -/
def Skein.logHeld (k : Skein) (f : Nat) : Bool :=
  (k.oplog.filter fun q => q.2.valid && !q.2.cont && q.2.flag.toNat == f).length == k.flag f
/-- A gang waits only on the operand log. -/
def Skein.waitsLog (k : Skein) (g : Nat) : Bool :=
  match (k.cursor g).wait with
  | some .logFull | some .logLine => true
  | some (.flags m) => (List.range 12).all fun f => !m.getLsbD f || k.flag f == 0 || k.logHeld f
  | _ => false
/-- A skein counts for its launch's watchdog: the debugger does not hold it, and it does not wait only on the log. -/
def Skein.counts (k : Skein) : Bool :=
  !k.stopped && !k.dbgHold && !(k.leaders.all k.waitsLog && !k.leaders.isEmpty)
/-- The count of each launch goes on by the reference cycles that have passed. -/
def State.countWatchdogs (s : State) (n : Nat) : State :=
  { s with launches := s.launches.map fun q =>
      if q.2.life == .running && (s.launchSkeins q.1).any (fun k => (s.skein k).counts) then
        (q.1, { q.2 with count := q.2.count + n })
      else q }
/-- `WATCHDOG_EXPIRY` (R344): in steps of 1,024 cycles the count has reached the limit. -/
def execWatchdogExpiry (seq : Nat) (s : State) : Out :=
  let l := s.launch seq
  if l.life != .running || l.block.watchdog == 0 || decide (l.count / 1024 * 1024 < l.block.watchdog) then .next s
  else .next ((s.stopLaunch seq .watchdog).resetContext l.block.context (some seq))
/-- `HOST_ABORT` (R325). -/
def execHostAbort (seq : Nat) (s : State) : Out := .next (if (s.launch seq).live then s.stopLaunch seq .aborted else s)

/-! ### Closing (R326 to R328) -/

/-- The bytes of a digest's regions in order, or none where one is not mapped or is host-owned (R327). -/
def State.digestBytes (s : State) (ctx world : Nat) : List (Nat × Nat) → Option (List Byte)
  | [] => some []
  | (base, len) :: t =>
    let bs := (List.range len).map fun i =>
      match s.walkCtx ctx (base + i) world ⟨false, false, false⟩ with
      | .ok x => some (s.mem.homeByte x.pa)
      | .error _ => none
    if bs.any Option.isNone then none
    else match s.digestBytes ctx world t with | some r => some (bs.filterMap id ++ r) | none => none
/-- Every panel of a launch has been placed and has ended. -/
def State.launchDone (s : State) (seq : Nat) : Bool :=
  let l := s.launch seq
  l.placed == l.block.total && (s.launchPanels seq).isEmpty
/-- `LAUNCH_CLOSE` (R326): buffers and withheld sums drain, dirty lines go to HBM under hostvis, the digests are taken, and
the record is written. -/
def execLaunchClose (seq : Nat) (s : State) : Out :=
  let l := s.launch seq
  let b := l.block
  if l.life != .running || !s.launchDone seq then .next s
  else
    let cores := ((s.panels.filter fun q => q.2.launch == seq).map fun q => q.2.core).eraseDups
    let s := cores.foldl (fun s c => s.release c .pkg) s
    let s := s.flushLaunch seq
    let s := if !b.flags.getLsbD 5 then s
      else
        let ls := leavesFrom s.mem 4 (s.context b.context).root
        s.setMem ((s.mem.l2.filter fun q => q.2.dirty && inLeaves ls (q.1 * 64)).foldl (fun m q => m.writeBack q.1) s.mem)
    let out := s.digestBytes b.context b.world b.digests
    let l := { s.launch seq with
      life := .closing
      status := .ok
      grant := []
      digfail := out.isNone
      outDigest := match out with | some bs => sha384 bs | none => [] }
    .next ((s.setLaunch seq l).postProv seq)

end Sys2Proof.Machine
end

