-- ==== Sys2Proof/Machine/Container.lean ====
section
/-! DEFINITION. Containers (R255 to R258), what the driver places for a launch (R303, R310, R377), and the vitrine's
commands that load and start one (R261, R311). -/

namespace Sys2Proof.Machine

/-! ### Containers (Tables 8.4, 8.5) -/

def bytesAt (bs : List Byte) (off n : Nat) : List Byte := (bs.drop off).take n
def numAt (bs : List Byte) (off n : Nat) : Nat := leNat (bytesAt bs off n)
/-- An entry of the section table: type, revision, flags, bytes; refused where it is not as Table 8.5 says. -/
structure Sect where
  ty : Nat
  rev : Nat
  flags : Nat
  body : List Byte
  deriving DecidableEq, Repr

def sectAt (bs : List Byte) (i : Nat) : Option Sect :=
  let e := 64 + 32 * i
  let ty := numAt bs e 2
  let rev := numAt bs (e + 2) 2
  let flags := numAt bs (e + 4) 4
  let off := numAt bs (e + 8) 8
  let size := numAt bs (e + 16) 8
  if bs.length < e + 32 || ty = 0 || decide (8 < ty) || (ty != 1 && rev != 0) || decide (1 < flags) || off % 16 != 0 ||
      decide (bs.length < off + size) || (ty == 1 && size % 12 != 0) || numAt bs (e + 24) 8 != 0 then none
  else some ⟨ty, rev, flags, bytesAt bs off size⟩
/-- The sections of a file, or none where its hash, magic, version or table is wrong (R256). -/
def sectionsOf (bs : List Byte) : Option (List Sect) :=
  if bs.length < 64 || numAt bs 0 4 != 0x3156554F || numAt bs 4 2 != 1 || sha384 (bs.drop 64) != bytesAt bs 8 48 ||
      numAt bs 56 8 != 0 then none
  else (List.range (numAt bs 6 2)).mapM (sectAt bs)

/-- The zero-terminated name at an offset. -/
def nameAt (bs : List Byte) (off : Nat) : String :=
  String.ofList (((bs.drop off).takeWhile (· != 0)).map fun b => Char.ofNat b.toNat)
/-- The entries of a symbol section; they end where the first of their names begins. -/
def symbolsFrom (bs : List Byte) : Nat → Nat → Nat → List Symbol
  | 0, _, _ => []
  | n + 1, off, low =>
    let name := numAt bs off 4
    if low < off + 24 || min low name < off + 24 then []
    else
      ⟨nameAt bs name, numAt bs (off + 4) 2, numAt bs (off + 6) 2, numAt bs (off + 8) 8⟩ ::
        symbolsFrom bs n (off + 24) (min low name)
def symbolsOf (ss : List Sect) : List Symbol :=
  match List.find? (fun x => x.ty == 4) ss with
  | some x => symbolsFrom x.body (x.body.length / 24) 0 x.body.length
  | none => []

/-! ### Relocation (R256) -/

/-- Where the driver puts each section: its byte address, by index. -/
abbrev Places := Tab Nat
/-- The final address of a symbol; a code label counts packets. -/
def symbolAddr (ss : List Sect) (at_ : Places) (y : Symbol) : Option Nat :=
  if y.kind = 1 then some y.value
  else
    match Tab.find? y.sect at_, ss[y.sect]? with
    | some base, some x => some (base + (if x.ty = 1 then 12 * y.value else y.value))
    | _, _ => none
/-- Replace bits [lo + n − 1:lo] of the 4 bytes at an offset. -/
def patch4 (bs : List Byte) (off lo n v : Nat) : List Byte :=
  let w := numAt bs off 4
  bs.take off ++ leBytes 4 (w - (bitsOf w lo n) <<< lo + (v % 2 ^ n) <<< lo) ++ bs.drop (off + 4)
/-- One relocation of a section that stands at `base`, with A as its value; none is a refusal. -/
def relocate (bs : List Byte) (base off ty a : Nat) : Option (List Byte) :=
  if bs.length < off + (if ty = 5 then 8 else 4) then none
  else
    match ty with
    | 1 =>
      let d : Int := (a / 12 : Nat) - ((base + off) / 12 : Nat)
      if d < -16384 || 16383 < d then none else some (patch4 bs off 0 15 (d % 32768).toNat)
    | 2 => some (patch4 bs off 0 18 (bitsOf a 46 18))
    | 3 => if bitsOf a 32 14 != 0 then none else some (patch4 bs off 0 32 (bitsOf a 0 32))
    | 4 => if 2 ^ 32 ≤ a / 12 || a % 12 != 0 then none else some (patch4 bs off 0 32 (a / 12))
    | 5 => some (bs.take off ++ leBytes 8 a ++ bs.drop (off + 8))
    | _ => none
/-- The relocations are made one after another.  One whose section the driver does not place, or whose symbol lies in such a
section, has no address to stand for and is passed over. -/
def relocateAll (ss0 : List Sect) (ys : List Symbol) (at_ : Places) (rs : List Byte) :
    Nat → Nat → List Sect → Option (List Sect)
  | 0, _, ss => some ss
  | n + 1, r, ss =>
    let off := numAt rs r 8
    let sec := numAt rs (r + 10) 2
    let add := numAt rs (r + 16) 8
    match ss[sec]?, ys[numAt rs (r + 12) 4]? with
    | some x, some y =>
      match Tab.find? sec at_, symbolAddr ss0 at_ y with
      | some base, some v =>
        match relocate x.body base off (numAt rs (r + 8) 2) ((v + add) % 2 ^ 64) with
        | some b => relocateAll ss0 ys at_ rs n (r + 24) (ss.set sec { x with body := b })
        | none => none
      | _, _ => relocateAll ss0 ys at_ rs n (r + 24) ss
    | _, _ => none

/-! ### Opening (R257, R258) -/

/-- The 32-bit words of code. -/
def toWords (bs : List Byte) : List Word := wordsOf (bs.length / 4) bs
/-- Native code that may run: revision 2, trap code apart. -/
def isNative (trap : Bool) (x : Sect) : Bool := x.ty == 1 && x.rev == 2 && (x.flags == 1) == trap
/-- A portable form whose header agrees with its text (Table 8.7). -/
def portableOk (bs : List Byte) : Bool :=
  let text := bs.drop 32
  decide (32 ≤ bs.length) && numAt bs 0 4 == 0x4D524650 && numAt bs 4 2 == 1 && numAt bs 6 2 == 0 &&
    numAt bs 16 8 == 0 && numAt bs 24 8 == 0 && numAt bs 12 4 == text.length &&
    numAt bs 8 4 == (text.filter (· == 0x0A)).length && (text.isEmpty || text.getLast? == some 0x0A)
/-- The sections that the driver takes: the index of the first of each kind. -/
def firstOf (ss : List Sect) (p : Sect → Bool) : Option Nat := ss.findIdx? p
def bodyAt (ss : List Sect) (i : Option Nat) : List Byte := match i with | some i => (ss[i]?.map Sect.body).getD [] | none => []
/-- Round up to whole pages. -/
def pages (n : Nat) : Nat := (n + 4095) / 4096 * 4096

/-- Where the driver puts the const image and the data: on the pages after the code, in this order. -/
def Container.constBase (c : Container) (code : Nat) : Nat := code + pages (4 * (c.code.length + c.trap.length))
def Container.dataBase (c : Container) (code : Nat) : Nat := c.constBase code + pages c.const.length

/-- The index of a section of a container that holds what a symbol names: code, trap code, or neither. -/
def symbolPlace (ci ti : Option Nat) (y : Symbol) : Nat := if some y.sect = ci then 0 else if some y.sect = ti then 1 else 2
/-- Put a section that is there at an address. -/
def placeAt (i : Option Nat) (a : Nat) (t : Places) : Places := match i with | some i => Tab.put i a t | none => t
/-- Why the driver refuses a container (R256, R257): a diagnostic of its portable section, or another cause. -/
inductive Refused where
  | diagnostic (code : Nat)
  | malformed
  deriving DecidableEq, Repr
/-- What portable text may name of a container's symbols: labels of its const and data sections, and constants (R258). -/
def givenSyms (ss : List Sect) (ys : List Symbol) : List Sym :=
  ys.filterMap fun y =>
    if y.kind = 1 then some ⟨y.name, .const, y.value⟩
    else
      match ss[y.sect]? with
      | some x => if x.ty = 1 ∨ x.ty = 2 then none else some ⟨y.name, .other x.ty, y.value⟩
      | none => none
/-- The final address that a place of finalised code takes: that of a label of the text, or of a symbol of the container. -/
def fixAddr (ss : List Sect) (ys : List Symbol) (at_ : Places) (code : Nat) (s : Asm) (f : Fix) : Option Nat :=
  let a : Option Nat :=
    match findSym s.syms f.sym with
    | some ⟨_, .code t _, v⟩ => some (code + 12 * (v + (if t then clausePackets s.code else 0)))
    | _ => (ys.find? fun y => y.name == f.sym).bind (symbolAddr ss at_)
  a.map fun a => (((a : Int) + f.add) % 2 ^ 64).toNat
/-- Fill the places of a section that stands at `base` (R256). -/
def fixAll (addr : Fix → Option Nat) (base : Nat) (bs : List Byte) (fs : List (Nat × Fix)) : Option (List Byte) :=
  fs.foldlM (fun bs p => (addr p.2).bind (relocate bs base p.1 p.2.ty)) bs
/-- The labels of finalised code: name, section (0 code, 1 trap code), kind and packet. -/
def asmLabels (s : Asm) : List (String × Nat × Nat × Nat) :=
  s.syms.reverse.filterMap fun y =>
    match y.kind with
    | .code t _ => some (y.name, if t then 1 else 0, 0, y.value)
    | _ => none
/-- A container, checked, relocated for a code address, and finalised where it has no native section of revision 2 (R257). -/
def openContainer (name : String) (bs : List Byte) (code : Nat) : Except Refused Container :=
  match sectionsOf bs with
  | none => .error .malformed
  | some ss =>
    let ci := firstOf ss (isNative false)
    let ti := firstOf ss (isNative true)
    let ki := firstOf ss (fun x => x.ty == 6)
    let di := firstOf ss (fun x => x.ty == 7)
    let panel := (bodyAt ss (firstOf ss fun x => x.ty == 3)).map BitVec.toNat
    let ys := symbolsOf ss
    let rs := bodyAt ss (firstOf ss fun x => x.ty == 5)
    let make := fun (cw tw : List Word) (ss : List Sect) (ls : List (String × Nat × Nat × Nat)) =>
      (⟨name, cw, tw, bodyAt ss ki, bodyAt ss di, panel, ls⟩ : Container)
    let places := fun (c : Container) =>
      placeAt ci code (placeAt ti (code + 4 * c.code.length) (placeAt ki (c.constBase code) (placeAt di (c.dataBase code) [])))
    let names := ys.map fun y => (y.name, symbolPlace ci ti y, y.kind, y.value)
    if ci.isSome || ti.isSome then
      let words := fun (ss : List Sect) => make (toWords (bodyAt ss ci)) (toWords (bodyAt ss ti)) ss names
      match relocateAll ss ys (places (words ss)) rs (rs.length / 24) 0 ss with
      | some ss => .ok (words ss)
      | none => .error .malformed
    else
      let p := bodyAt ss (firstOf ss fun x => x.ty == 2)
      if !portableOk p then .error .malformed
      else
        match finaliseText (p.drop 32) (givenSyms ss ys) with
        | .error d => .error (.diagnostic d)
        | .ok q =>
          let cw := sectionWords q.codeClauses
          let tw := sectionWords q.trapClauses
          let at_ := places (make cw tw ss [])
          let addr := fixAddr ss ys at_ code q
          match fixAll addr code (codeBytes cw) (sectionFixes q.codeClauses),
              fixAll addr (code + 4 * cw.length) (codeBytes tw) (sectionFixes q.trapClauses),
              relocateAll ss ys at_ rs (rs.length / 24) 0 ss with
          | some cb, some tb, some ss => .ok (make (toWords cb) (toWords tb) ss (asmLabels q ++ names))
          | _, _, _ => .error .malformed

def Vitrine.file (v : Vitrine) (name : String) : Option (List Byte) := (v.files.find? fun f => f.1 == name).map Prod.snd
/-- The code address that the driver chooses: whole pages and whole packets (R13; log 2). -/
def driverCode (tick : Nat) : Nat := 12 * 4096 * ((Config.freshFrame tick 0).toNat % 2 ^ 30 + 1)
/-- The bytes of code words. -/
def wordBytes (ws : List Word) : List Byte := ws.flatMap fun w => leBytes 4 w.toNat
/-- The driver tells the curator of code that it places at an address (R257, R377). -/
def State.addImage (s : State) (i : Image) : State := { s with images := i :: s.images.filter fun x => x.base != i.base }
/-- `OPEN` (R256, R257, R259): a refused container leaves a record, and nothing open; of a portable section the record holds the
diagnostic. -/
def execVitOpen (file : String) (s : State) : Out :=
  match s.vit.file file with
  | none => .next s
  | some bs =>
    let code := driverCode s.tick
    match openContainer file bs code with
    | .ok c =>
      .next ({ s with vit := { s.vit with opened := some c, codeBase := code, block := none } }.addImage
        ⟨code, wordBytes c.code, wordBytes c.trap⟩)
    | .error e =>
      let detail := match e with
        | .diagnostic d => leBytes 4 d
        | .malformed => (List.range 4).map (Config.freeByte s.tick)
      let s := { s with vit := { s.vit with opened := none, block := none } }
      .next (s.postError ⟨.containerRefused, 6, 0, none, 0, none, detail⟩)

/-! ### The block (R310, R311) -/

/-- The driver points the bank at the const image where the block names none (R310). -/
def fillBank (c : Option Container) (code : Nat) (bs : List Byte) : List Byte :=
  match c with
  | some c =>
    if numAt bs 56 8 = 0 && numAt bs 64 4 = 0 && !c.const.isEmpty then
      bs.take 56 ++ leBytes 8 (c.constBase code) ++ leBytes 4 ((c.const.length + 15) / 16 * 16) ++ bs.drop 68
    else bs
  | none => bs
/-- The block that a file gives: 256 binary bytes, unchanged (R312) but for the code address, which is the container's
(Table 8.6), or the text form. -/
def Vitrine.readBlock (v : Vitrine) (bs : List Byte) : Option (List Byte) :=
  let code := if v.opened.isSome then v.codeBase else 0
  if bs.length == 256 && bs.contains 0 then some (bs.take 8 ++ leBytes 8 code ++ bs.drop 16)
  else
    (setFields (textLines bs) [] (blankBlock (match v.opened with | some c => c.meta_ | none => []) code)).map
      (fillBank v.opened code)
/-- `LPB` (R311). -/
def execVitLpb (file : String) (s : State) : Out :=
  match s.vit.file file with
  | none => .next s
  | some bs => .next { s with vit := { s.vit with block := s.vit.readBlock bs } }
/-- The context whose memory the vitrine addresses: that of the block, else the driver's default. -/
def Vitrine.ctx (v : Vitrine) : Nat := match v.block with | some b => numAt b 4 4 | none => 0

/-! ### What the driver places (R303) -/

/-- A frame moved to a die that serves, where its own does not (R303, R368, R369). -/
def State.frameOnDie (s : State) (f : Nat) : Nat :=
  let die := bitsOf f 25 2
  let ds := s.openDies
  if ds.contains die || ds.isEmpty then f else f - die <<< 25 + (ds.getD (die % ds.length) 0) <<< 25
/-- The driver takes a frame, cleared. -/
def State.takeFrame (s : State) : State × Nat :=
  let f := s.frameOnDie (Config.freshFrame s.mem.frames 1).toNat
  let m := s.mem
  (s.setMem { m with
    frames := m.frames + 1
    hbm := m.hbm.filter fun p => p.1 / 4096 != f
    l2 := m.l2.filter fun q => q.1 / 64 != f
    guest := m.guest.filter fun q => q.1 / 256 != f
    dirs := m.dirs.filter fun k => k / 256 != f
    sealed := m.sealed.filter fun q => q.1 / 64 != f
    bad := m.bad.filter fun sec => sec / 64 != f }, f * 4096)
/-- An entry of a table is written at its home. -/
def State.putEntry (s : State) (a e : Nat) : State := s.writeHome 0 ((leBytes 8 e).zipIdx.map fun b => (a + b.2, b.1))
/-- Bits of an entry: valid, leaf, and the permissions of a page. -/
def entryValid : Nat := 1
def entryLeaf : Nat := 1024
def permRead : Nat := 8
def permWrite : Nat := 16
def permFetch : Nat := 32
/-- Map a page that is not mapped, from a table of a level down; the tables that are missing are made. -/
def State.placeFrom (s : State) (va perm : Nat) : Nat → Nat → State
  | 0, table =>
    let a := table + 8 * bitsOf va 12 9
    if s.mem.homeNat a 8 % 2 = 1 then s
    else let t := s.takeFrame; t.1.putEntry a (t.2 + entryLeaf + entryValid + perm)
  | k + 1, table =>
    let a := table + 8 * bitsOf va (12 + 9 * (k + 1)) 9
    let e := BitVec.ofNat 64 (s.mem.homeNat a 8)
    if pteV e then (if pteLeaf e then s else s.placeFrom va perm k (pteFrame e))
    else let t := s.takeFrame; (t.1.putEntry a (t.2 + entryValid + permRead + permWrite + permFetch)).placeFrom va perm k t.2
/-- Bytes are placed at a virtual address of a context, on pages that are mapped for them where they are not mapped. -/
def State.placeBytes (s : State) (ctx va perm : Nat) (bs : List Byte) : State :=
  if bs.isEmpty then s
  else
    let n := (va + bs.length - 1) / 4096 - va / 4096 + 1
    let s := (List.range n).foldl (fun s i => s.placeFrom ((va / 4096 + i) * 4096 % 2 ^ 57) perm 4 (s.context ctx).root) s
    let ws := bs.zipIdx.filterMap fun p =>
      match s.walkCtx ctx (va + p.2) (s.context ctx).world ⟨false, false, false⟩ with
      | .ok x => some (x.pa, p.1)
      | .error _ => none
    s.writeHome 0 ws
/-- `DATA` (R261). -/
def execVitData (addr : Nat) (file : String) (s : State) : Out :=
  match s.vit.file file with
  | none => .next s
  | some bs => .next (s.placeBytes s.vit.ctx addr (permRead + permWrite) bs)

/-! ### Running -/

/-- The code, the trap code after it (R377), the const image and the data. -/
def State.placeContainer (s : State) (c : Container) : State :=
  let ctx := s.vit.ctx
  let code := s.vit.codeBase
  let s := s.placeBytes ctx code (permRead + permFetch) (wordBytes c.code ++ wordBytes c.trap)
  let s := s.placeBytes ctx (c.constBase code) permRead (c.const ++ List.replicate (15 - (c.const.length + 15) % 16) 0)
  s.placeBytes ctx (c.dataBase code) (permRead + permWrite) c.data
/-- The driver describes a queue of a priority to the device, where it has not yet (R356, R357; log 8). -/
def State.readyQueue (s : State) (q : Nat) : State :=
  let x := s.queue q
  if x.enable then s
  else
    let at_ := fun k => (Config.freshFrame s.tick k).toNat * 4096
    (s.setQueue q { x with
      launch := if x.launch.valid then x.launch else ⟨at_ 2, 6, 0, 0⟩
      prov := if x.prov.valid then x.prov else ⟨at_ 3, 6, 0, 0⟩
      priority := q }).enableQueue q true
/-- `RUN` (R261): the driver places the container, writes the block into the queue of its priority, and rings; a block of a priority
that no queue has goes to the highest, and is refused there (R307, R312). -/
def execVitRun (s : State) : Out :=
  match s.vit.opened, s.vit.block with
  | some c, some b =>
    if s.vit.launched.isSome then .next s
    else
      let q := min (numAt b 37 1) 3
      let s := (s.placeContainer c).readyQueue q
      let r := (s.queue q).launch
      if r.full then .next s
      else
        let s := { s.hostWrite (r.slot 256) b with vit := { s.vit with launched := some 0 } }
        execDoorbell q (r.tail + 1) s
  | _, _ => .next s

end Sys2Proof.Machine
end

