-- ==== Sys2Proof/Machine/Control.lean ====
section
/-! DEFINITION. Control words, slices and gangs, melded regions, regions, `VDROP`, checks and deliberate traps (R122 to
R142). -/

namespace Sys2Proof.Machine

/-- What the end of the packet does (R74). -/
def State.transfer (s : State) (c : Ctl) : Out := .next (s.setCur { s.cur with ctl := some c })
/-- The packet after the clause: a control word stands in its last packet (R74). -/
def State.nextPc (s : State) : Pc := s.curPc + 1
/-- A branch target (R69). -/
def State.target (s : State) (off : BitVec 15) : Pc := s.curPc + off.signExtend 53
/-- A branch taken or not (R122). -/
def State.branch (s : State) (p : Bool) (off : BitVec 15) : Out :=
  s.transfer (.move (if p then s.target off else s.nextPc))
/-- A control word reads its scalar: it waits while that is pending, and poison raises POISON (R19, R122). -/
def State.condition (s : State) (a : SReg) (f : Dword → Out) : Out :=
  s.awaits [a] (s.unpoisoned [a] (f (s.sreg a).val))
/-- The code of a DIVERGE trap (Table 1.6). -/
def divergeCode : Nat := 0x08

/-! ### Branches, calls and exit -/

/-- `NOP` (R91). -/
def execNop (s : State) : Out := .next s
/-- `BRA` (Table 4.3). -/
def execBra (off : BitVec 15) (s : State) : Out := s.branch true off
/-- `BRU.z` (Table 4.3). -/
def execBruZ (a : SReg) (off : BitVec 15) (s : State) : Out := s.condition a fun x => s.branch (x == 0) off
/-- `BRU.nz` (Table 4.3). -/
def execBruNz (a : SReg) (off : BitVec 15) (s : State) : Out := s.condition a fun x => s.branch (x != 0) off
/-- `BRU.neg` (Table 4.3). -/
def execBruNeg (a : SReg) (off : BitVec 15) (s : State) : Out := s.condition a fun x => s.branch x.msb off
/-- `BRU.nneg` (Table 4.3). -/
def execBruNneg (a : SReg) (off : BitVec 15) (s : State) : Out := s.condition a fun x => s.branch (!x.msb) off
/-- `BRUV`: not taken for an empty mask, taken for the whole of `em` and G, else DIVERGE (Table 4.3). -/
def execBruv (a : SReg) (off : BitVec 15) (s : State) : Out :=
  s.condition a fun x =>
    let m : Word := x.setWidth 32
    if m = 0 then s.branch false off
    else if m = s.me.em &&& s.me.gangLanes s.curGang then s.branch true off
    else s.trap .diverge divergeCode

/-- The slices with an eligible lane whose bit of a mask is 1 (R124). -/
def slicesOf (m : Word) : BitVec 8 :=
  BitVec.ofNat 8 ((List.range 8).foldl (fun c sl => if bitsOf m.toNat (4 * sl) 4 = 0 then c else c + 2 ^ sl) 0)
/-- Part the gang, or move it whole; inside an open meld a parting raises PATTERN with code 4 (R124, R128, R132). -/
def State.partOr (s : State) (taken : BitVec 8) (t : Pc) : Out :=
  let all := s.me.gangMask s.curGang
  if all &&& taken = 0 then s.transfer (.move s.nextPc)
  else if all &&& taken = all then s.transfer (.move t)
  else if s.me.meldOpen then s.trap .pattern 4
  else s.transfer (.part taken t)
/-- `BRS` (R124). -/
def execBrs (a : SReg) (off : BitVec 15) (s : State) : Out :=
  s.condition a fun x => s.partOr (slicesOf (x.setWidth 32 &&& s.me.em)) (s.target off)
/-- `BRZM` (Table 4.3). -/
def execBrzm (a : SReg) (off : BitVec 15) (s : State) : Out :=
  s.condition a fun x => s.branch (x.setWidth 32 &&& s.me.gangLanes s.curGang == 0) off
/-- `CALL` (R123, R125). -/
def execCall (off : BitVec 15) (s : State) : Out :=
  s.awaits [regLr] ((s.pend latScl (.scalar regLr.toNat ⟨s.nextPc.setWidth 64, false, none⟩ none)).branch true off)
/-- `RET` (R123). -/
def execRet (s : State) : Out := s.condition regLr fun x => s.transfer (.move (x.setWidth 53))
/-- `JMPI` (R123). -/
def execJmpi (a : SReg) (s : State) : Out := s.condition a fun x => s.transfer (.move (x.setWidth 53))
/-- `EXIT` (R126). -/
def execExit (s : State) : Out := (s.setMe { s.me with exitSlot := s.cur.slot }).transfer .exit
/-- `YIELD` marks the skein for the partition's choice and has no other effect (R127). -/
def execYield (s : State) : Out := .next (s.setMe { s.me with yielded := true })

/-! ### Slices and gangs -/

/-- `SPLIT` (R128): both gangs go on at the packet after the clause. -/
def execSplit (a : SReg) (s : State) : Out := s.condition a fun x => s.partOr (x.setWidth 8) s.nextPc
/-- `REGANG` (R129): a gang outside the mask raises DIVERGE, one that holds the whole set goes on, and another waits at
the packet's end. -/
def execRegang (a : SReg) (s : State) : Out :=
  s.condition a fun x =>
    let m : BitVec 8 := x.setWidth 8
    let all := s.me.gangMask s.curGang
    if all &&& ~~~m != 0 then s.trap .diverge divergeCode
    else if s.me.joinSet m = all then s.transfer (.move s.nextPc)
    else s.transfer (.regang m)

/-! ### Melded regions and regions -/

/-- `MELD` makes its checks in order, then opens the region: `pm` as a scalar result, the patterns for every later issue
cycle (R132, R133; log 20). -/
def execMeld (a : SReg) (s : State) : Out :=
  s.awaits [a, a + 1, a + 2] <| s.commitClass
    (if s.me.meldOpen then s.trap .pattern 1
     else if s.me.gangMask s.curGang != 0xFF then s.trap .pattern 2
     else s.unpoisoned [a, a + 1, a + 2]
      (let x := (s.sreg a).val
       let pa := (s.sreg (a + 1)).val
       let pb := (s.sreg (a + 2)).val
       if 5 < bitsOf pa.toNat 60 4 || 5 < bitsOf pb.toNat 60 4 then s.trap .pattern 3
       else .next ((s.pend latScl (.scalar regPm.toNat ⟨x, false, none⟩ none)).pend 1 (.pattern true pa pb)).commit))
/-- `MELDX` (R133); with no region open it changes nothing of the pattern table. -/
def execMeldx (s : State) : Out :=
  s.commitClass (.next (if s.me.meldOpen then s.pend 1 (.pattern false 0 0) else s).commit)
/-- `REGION` (R135). -/
def execRegion (s : State) : Out := .next s.commit

/-- The registers that a `VDROP` field names: itself, or under an open meld its translation on both paths (R134). -/
def Skein.dropped (k : Skein) (r : VReg) : List Nat :=
  if k.meldOpen then [patFind k.patA r.toNat, patFind k.patB r.toNat] else [r.toNat]
/-- `VDROP` (R34, R138): dropped from the next issue cycle on. -/
def execVdrop (a b e d : VReg) (s : State) : Out :=
  let rs := ([a, b, e, d].flatMap s.me.dropped).eraseDups
  .next (s.pendAll 1 (rs.map .drop))

/-! ### Checks, traps and breakpoints -/

/-- `CHK va`: CHK with the token of the lowest active poisoned lane (R139). -/
def execChk (a : VReg) (s : State) : Out :=
  match firstLane (s.lanes.map (s.vlane a)) with
  | some t => .next (s.trapToken .chk t.toNat)
  | none => .next s
/-- `CHK sb` (R139). -/
def execChkScalar (b : SReg) (s : State) : Out :=
  s.awaits [b]
    (let x := s.sreg b
     if x.poison then .next (s.trapToken .chk x.val.toNat) else .next s)
/-- `PTST` (R140). -/
def execPtst (d : SReg) (a : VReg) (s : State) : Out :=
  let m := (s.lanes.filter fun l => (s.vlane a l).poison).foldl (fun m l => m + 2 ^ l) 0
  s.awaits [d] (s.putScalar (.ptst d a) latScl d none ⟨BitVec.ofNat 64 m, false, none⟩ 0)
/-- `TRAP` (R141). -/
def execTrap (code : BitVec 12) (s : State) : Out := s.trap .trap code.toNat
/-- `DBRK` stops for the debugger after its issue group, where a debugger is attached and a lane is active (R142,
R347). -/
def execDbrk (s : State) : Out :=
  if s.debugOn s.curKey && !s.lanes.isEmpty then
    .next (s.debugStop s.curKey s.curGang 4 s.curPc s.cur.slot s.cur.stopRec)
  else .next s

end Sys2Proof.Machine
end

