-- ==== Sys2Proof/Machine/VLane.lean ====
section
/-! DEFINITION. Lane words (R167 to R169) with the trees of R60. -/

namespace Sys2Proof.Machine

/-! ### Moves between lanes (R167, R168) -/

/-- A lane that keeps or takes a value, poisoned by a poisoned count; the first poisoned of `keep` and the count gives
the payload. -/
def laneMove (keep : List Lane) (b : Scalar) (v : Lane) : Lane :=
  if b.poison then laneResult (keep ++ [b.toLane]) 0 else v
/-- The count of a lane shift: min(u64(sb), 32). -/
def shiftCount (b : Scalar) : Nat := min b.val.toNat 32

/-- `VSHUP` (Table 5.6). -/
def execVshup (d a : VReg) (b : SReg) (s : State) : Out :=
  let x := s.sreg b
  s.awaits [b] (s.vecWord (.vshup d a b) latLane d (some [.v d, .v a, .s b]) fun l =>
    (laneMove [s.vlane d l] x (if shiftCount x ≤ l then s.vlane a (l - shiftCount x) else s.vlane d l), 0))
/-- `VSHDN` (Table 5.6). -/
def execVshdn (d a : VReg) (b : SReg) (s : State) : Out :=
  let x := s.sreg b
  s.awaits [b] (s.vecWord (.vshdn d a b) latLane d (some [.v d, .v a, .s b]) fun l =>
    (laneMove [s.vlane d l] x (if l + shiftCount x ≤ 31 then s.vlane a (l + shiftCount x) else s.vlane d l), 0))
/-- `VROT` (Table 5.6). -/
def execVrot (d a : VReg) (b : SReg) (s : State) : Out :=
  let x := s.sreg b
  s.awaits [b] (s.vecWord (.vrot d a b) latLane d (some [.v a, .s b]) fun l =>
    (laneMove [] x (s.vlane a ((l + x.val.toNat % 32) % 32)), 0))
/-- `VPERM` (R168). -/
def execVperm (d a b : VReg) (s : State) : Out :=
  s.vecWord (.vperm d a b) latLane d (some [.v a, .v b]) fun l =>
    let y := s.vlane b l
    (if y.poison then y else s.vlane a (y.val.toNat % 32), 0)
/-- `VBCAST` (R168). -/
def execVbcast (d a : VReg) (b : SReg) (s : State) : Out :=
  let x := s.sreg b
  s.awaits [b] (s.vecWord (.vbcast d a b) latLane d (some [.v a, .s b]) fun _ =>
    (laneMove [] x (s.vlane a (x.val.toNat % 32)), 0))

/-! ### Trees (R60) -/

/-- A step of a tree over two patterns. -/
abbrev TreeOp := Nat → Nat → Nat × FpFlags

/-- One level of `VRED`: t[l] := op(t[l], t[l + d]) for l < d. -/
def redLevel (f : TreeOp) (t : List Nat) (d : Nat) : List Nat × FpFlags :=
  let rs := (List.range d).map fun l => f (t.getD l 0) (t.getD (l + d) 0)
  (rs.map Prod.fst, orFlags (rs.map Prod.snd))
/-- The tree of `VRED`. -/
def redTree (f : TreeOp) (t : List Nat) : Nat × FpFlags :=
  let r := [16, 8, 4, 2, 1].foldl
    (fun (acc : List Nat × FpFlags) d => let q := redLevel f acc.1 d; (q.1, acc.2 ||| q.2)) (t, 0)
  (r.1.headD 0, r.2)
/-- One level of `VSCAN`: t[l] := op(t[l − d], t[l]) for l ≥ d at once. -/
def scanLevel (f : TreeOp) (t : List Nat) (d : Nat) : List Nat × FpFlags :=
  let rs := (List.range 32).map fun l => if l < d then (t.getD l 0, 0) else f (t.getD (l - d) 0) (t.getD l 0)
  (rs.map Prod.fst, orFlags (rs.map Prod.snd))
/-- The tree of `VSCAN`. -/
def scanTree (f : TreeOp) (t : List Nat) : List Nat × FpFlags :=
  [1, 2, 4, 8, 16].foldl (fun (acc : List Nat × FpFlags) d => let q := scanLevel f acc.1 d; (q.1, acc.2 ||| q.2)) (t, 0)

/-- The step of a reduction. -/
def Skein.redStep (k : Skein) : RedOp → TreeOp
  | .add => fun x y => ((x + y) % 2 ^ 32, 0)
  | .and => fun x y => (x &&& y, 0)
  | .or => fun x y => (x ||| y, 0)
  | .xor => fun x y => (x ^^^ y, 0)
  | .min => fun x y => (eMin 32 x y, 0)
  | .max => fun x y => (eMax 32 x y, 0)
  | .minu => fun x y => (min x y, 0)
  | .maxu => fun x y => (max x y, 0)
  | .addf => k.f2 fpAdd
  | .minf => k.pick f32 fpMin
  | .maxf => k.pick f32 fpMax
  | .addd => k.d2 fpAdd
/-- What a lane outside the active set supplies (R60). -/
def redIdentity : RedOp → Nat
  | .add | .or | .xor | .maxu => 0
  | .and | .minu => 2 ^ 32 - 1
  | .min => 2 ^ 31 - 1
  | .max => 2 ^ 31
  | .addf => 2 ^ 31
  | .minf | .maxf => f32.nan
  | .addd => 2 ^ 63

/-- The 32 values that a tree combines. -/
def State.treeIn (s : State) (o : RedOp) (f : Nat → Nat) : List Nat :=
  (List.range 32).map fun l => if s.me.active s.curGang l then f l else redIdentity o
/-- The tokens of the active lanes up to `l`, lowest first. -/
def firstToken (ps : List (Nat × Scalar)) (l : Nat) : Option Dword :=
  firstScalar ((ps.filter fun p => decide (p.1 ≤ l)).map Prod.snd)

/-- The lanes of the active set that a reduction reads, as pairs for addd. -/
def State.treeLanes (s : State) (o : RedOp) (a : VReg) : List (Nat × Scalar) :=
  s.lanes.map fun l =>
    (l, if o == .addd then s.vpair a.toNat l else let x := s.vlane a l; ⟨x.val.setWidth 64, x.poison, none⟩)

/-- A reduction or a scan: lane `l` takes its result, or the token of the lowest poisoned active lane it combines; with a
poisoned active lane no flag is set (R169). -/
def State.treeWord (s : State) (i : Instr) (o : RedOp) (scan : Bool) (d a : VReg) : Out :=
  if s.lanes.isEmpty then .next s else
  let ps := s.treeLanes o a
  let t := s.treeIn o fun l => ((Tab.find? l ps).getD Scalar.zero).val.toNat
  let r := redTree (s.me.redStep o) t
  let q := scanTree (s.me.redStep o) t
  let clean := (firstToken ps 31).isNone
  let fl := if clean then (if scan then q.2 else r.2) else 0
  let res := fun (l : Nat) => match firstToken ps (if scan then l else 31) with
    | some t => (⟨t, true, none⟩ : Scalar)
    | none => ⟨BitVec.ofNat 64 (if scan then q.1.getD l 0 else r.1), false, none⟩
  let lead := s.lanes.headD 0
  if o == .addd then s.pairWord i latLane d fun l => (res l, if l = lead then fl else 0)
  else s.vecWord i latLane d (some [.v a]) fun l => ((res l).toLane, if l = lead then fl else 0)

/-- `VRED` (R169). -/
def execVred (o : RedOp) (d a : VReg) (s : State) : Out := s.treeWord (.vred o d a) o false d a
/-- `VSCAN` (R169). -/
def execVscan (o : RedOp) (d a : VReg) (s : State) : Out := s.treeWord (.vscan o d a) o true d a

end Sys2Proof.Machine
end

