-- ==== Sys2Proof/Machine/Convert.lean ====
section
/-! DEFINITION. Conversion, packing and block quantisation (R170 to R173), comparison and selection (R174, R175). -/

namespace Sys2Proof.Machine

/-! ### One value (R170, R53) -/

/-- The floating format of an element format. -/
def elemFmt : ElemFmt → Option Fmt
  | .f32 => some f32
  | .f64 => some f64
  | .f16 => some f16
  | .bf16 => some bf16
  | .e4m3 => some e4m3
  | .e5m2 => some e5m2
  | .e2m1 => some e2m1
  | _ => none
/-- A signed integer format. -/
def elemSigned : ElemFmt → Bool
  | .int8 | .int4 | .int16 | .int32 | .int64 => true
  | _ => false
/-- The integer that a pattern of an integer format stands for. -/
def elemInt (f : ElemFmt) (x : Nat) : Int :=
  if elemSigned f then sInt f.width (x % 2 ^ f.width) else x % 2 ^ f.width
/-- The limits of an integer format. -/
def elemLo (f : ElemFmt) : Int := if elemSigned f then -(2 ^ (f.width - 1)) else 0
def elemHi (f : ElemFmt) : Int := if elemSigned f then 2 ^ (f.width - 1) - 1 else 2 ^ f.width - 1

/-- Convert one pattern: the destination's pattern and its flags. -/
def Skein.convert (k : Skein) (dst src : ElemFmt) (m : CvtMod) (x : Nat) : Nat × FpFlags :=
  match elemFmt dst, elemFmt src with
  | some g, some f => (⟨g, cvtRm m k, k.ftz, cvtSat m⟩ : Round).deliver 0 (k.fin f (x % 2 ^ src.width))
  | none, some f =>
    let r := toIntSat (cvtRm m k) (elemSigned dst) dst.width (k.fin f (x % 2 ^ src.width))
    (wrap dst.width r.1, r.2)
  | some g, none => (⟨g, cvtRm m k, k.ftz, cvtSat m⟩ : Round).deliver 0 (Num.ofInt false (elemInt src x) 0)
  | none, none =>
    let i := elemInt src x
    (wrap dst.width (if cvtSat m then satI i (elemLo dst) (elemHi dst) else i), 0)
/-- A narrow pattern as a lane: signed results are sign-extended, the others zero-extended. -/
def widen (f : ElemFmt) (x : Nat) : Nat := if elemSigned f then wrap 32 (sInt f.width x) else x

/-- `VCVT` (R170). -/
def execVcvt (dst src : ElemFmt) (m : CvtMod) (d a : VReg) (s : State) : Out :=
  let i : Instr := .vcvt dst src m d a
  let x := fun (l : Nat) => if src.width = 64 then s.vpair a.toNat l
    else let y := s.vlane a l; (⟨y.val.setWidth 64, y.poison, none⟩ : Scalar)
  if dst.width = 64 then
    s.pairWord i latVec d fun l => pairF [x l] (s.me.convert dst src m (x l).val.toNat)
  else
    s.vecWord i latVec d (some (if src.width = 64 then [.v a, .v (a + 1)] else [.v a])) fun l =>
      let r := s.me.convert dst src m (x l).val.toNat
      laneF [(x l).toLane] (widen dst r.1, r.2)

/-- Elements to a lane of a narrow format. -/
def perLane (f : ElemFmt) : Nat := 32 / f.width

/-- `VPACK` (R171). -/
def execVpack (dst src : ElemFmt) (m : CvtMod) (d a : VReg) (s : State) : Out :=
  let rs := (List.range (perLane dst)).map fun k => a + BitVec.ofNat 6 k
  s.vecWord (.vpack dst src m d a) latVec d (some (rs.map .v)) fun l =>
    let xs := rs.map fun r => s.vlane r l
    let es := xs.map fun x => s.me.convert dst src m x.val.toNat
    laneF xs ((laneOf dst.width (es.map Prod.fst)).toNat, orFlags (es.map Prod.snd))
/-- `VUNPK` (R171). -/
def execVunpk (dst src : ElemFmt) (m : CvtMod) (d a : VReg) (s : State) : Out :=
  let ws := (List.range (perLane src)).flatMap fun k => s.lanes.map fun l =>
    let x := s.vlane a l
    (s.me.key (d.toNat + k) l, laneF [x] (s.me.convert dst src m (laneElem src.width x.val k)))
  s.putVec (.vunpk dst src m d a) latVec none (ws.map fun w => (w.1, w.2.1)) (orFlags (ws.map fun w => w.2.2))

/-! ### Blocks (R172, R173) -/

/-- The scale lane of a block. -/
def scaleWord (b : BlockFmt) (q : Block32) : Nat := if isDbx b then q.lo + q.hi * 256 else q.lo
/-- A block's elements as lanes. -/
def blockLanes (b : BlockFmt) (q : Block32) : List Word :=
  (List.range 32).map fun l => BitVec.ofNat 32 (leNat ((packBytes (blockBits b) q.elems).drop (4 * l) |>.take 4))

/-- `VQDBX` (R172). -/
def execVqdbx (blk : BlockFmt) (d a : VReg) (s : State) : Out :=
  let xs := s.lanes.map fun l => (l, s.vlane a l)
  let q := quantise blk ((List.range 32).map fun l => s.me.fin f32 ((Tab.get Lane.zero xs l).val.toNat))
  let es := blockLanes blk q
  let tok := firstLane (xs.map Prod.snd)
  let out := fun (w : Word) => match tok with | some t => (⟨t, true⟩ : Lane) | none => ⟨w, false⟩
  s.putVec (.vqdbx blk d a) latVec none
    (s.lanes.flatMap fun l =>
      [(s.me.key d.toNat l, out (es.getD l 0)), (s.me.key (d.toNat + 1) l, out (BitVec.ofNat 32 (scaleWord blk q)))])
    (if tok.isSome || s.lanes.isEmpty then 0 else q.flags)

/-- `VDQDBX` (R173). -/
def execVdqdbx (blk : BlockFmt) (d a : VReg) (s : State) : Out :=
  let w := blockBits blk
  let es := (List.range w).map fun l => s.vlane a l
  let sc := s.vlane (a + 1) 0
  let lo := bitsOf sc.val.toNat 0 8
  let hi := bitsOf sc.val.toNat 8 8
  s.vecWord (.vdqdbx blk d a) latVec d (some [.v a, .v (a + 1)]) fun l =>
    let e := laneElem w (es.getD (l * w / 32) Lane.zero).val (l % (32 / w))
    laneF (es ++ [sc]) ((s.me.round f32).deliver 0 (decodeElem blk e lo hi))

/-! ### Comparison and selection (R174, R175) -/

/-- A comparison's scalar: a bit for each active lane that holds; a poisoned active lane poisons it, and no flag is then
set. -/
def State.compareWord (s : State) (i : Instr) (d : SReg) (a : VReg) (b : VSrc) (f : Nat → Nat → Bool × FpFlags) : Out :=
  s.awaits (d :: scalarsOf b)
    (if s.lanes.isEmpty then .next s else
     let rs := s.lanes.map fun l =>
       let x := s.vlane a l
       let y := s.vsrc b l
       (l, [x, y], f x.val.toNat y.val.toNat)
     match firstLane (rs.flatMap fun r => r.2.1) with
     | some t => s.putScalar i latVec d (some [.v a, srcOf b]) ⟨t.setWidth 64, true, none⟩ 0
     | none =>
       let m := rs.foldl (fun m r => if r.2.2.1 then m + 2 ^ r.1 else m) 0
       s.putScalar i latVec d (some [.v a, srcOf b]) ⟨BitVec.ofNat 64 m, false, none⟩ (orFlags (rs.map fun r => r.2.2.2)))

/-- A condition over two integers. -/
def condHolds (k : Cond) (x y : Int) : Bool :=
  match k with
  | .eq => x == y
  | .ne => x != y
  | .lt => decide (x < y)
  | .le => decide (x ≤ y)
  | .gt => decide (y < x)
  | .ge => decide (y ≤ x)
/-- A condition over two numbers, with NV (R174). -/
def fcondHolds (k : FCond) (x y : Num) : Bool × FpFlags :=
  let un := x.isNan || y.isNan
  let quiet := sigFlag [x, y]
  let loud : FpFlags := if un then fNV else 0
  match k with
  | .eq => (!un && eqNum x y, quiet)
  | .ne => (un || !eqNum x y, quiet)
  | .lt => (!un && ltNum x y, loud)
  | .le => (!un && !ltNum y x, loud)
  | .gt => (!un && ltNum y x, loud)
  | .ge => (!un && !ltNum x y, loud)
  | .ord => (!un, quiet)
  | .un => (un, quiet)

/-- `VCMP` (R174). -/
def execVcmp (k : Cond) (d : SReg) (a : VReg) (b : VSrc) (s : State) : Out :=
  s.compareWord (.vcmp k d a b) d a b fun x y => (condHolds k (sInt 32 x) (sInt 32 y), 0)
/-- `VCMPU` (R174). -/
def execVcmpu (k : Cond) (d : SReg) (a : VReg) (b : VSrc) (s : State) : Out :=
  s.compareWord (.vcmpu k d a b) d a b fun x y => (condHolds k x y, 0)
/-- `VFCMP` (R174). -/
def execVfcmp (k : FCond) (d : SReg) (a : VReg) (b : VSrc) (s : State) : Out :=
  s.compareWord (.vfcmp k d a b) d a b fun x y => fcondHolds k (s.me.fin f32 x) (s.me.fin f32 y)
/-- `VSEL` (R175): a poisoned selector poisons every active lane, `vd`, `va` and the selector in that order. -/
def execVsel (d a : VReg) (b : SReg) (s : State) : Out :=
  let x := s.sreg b
  s.awaits [b] (s.vecWord (.vsel d a b) latVec d (some [.v d, .v a, .s b]) fun l =>
    (laneMove [s.vlane d l, s.vlane a l] x (if x.val.getLsbD l then s.vlane a l else s.vlane d l), 0))

end Sys2Proof.Machine
end

