-- ==== Sys2Proof/Machine/Group.lean ====
section
/-! DEFINITION. One issue step of a gang: fetching, entering a clause, or one issue group, over a given meaning `ex` of
words (R70 to R78, R115, R329). -/

namespace Sys2Proof.Machine

/-- The state that an outcome leads to; a fault or refusal leads nowhere. -/
def stateOr (s : State) : Out → State
  | .next t => t
  | _ => s

/-- The wait of a word that has acted before it waits (R200). -/
def isBarWait : Sig → Bool
  | .held .barrier => true
  | _ => false
def isHeld : Sig → Bool
  | .held _ => true
  | _ => false

/-- The outcome of a word that waits. -/
def heldOut : Out → Bool
  | .next t => isHeld t.sig
  | _ => false

/-- The outcomes of the words of a group, each taken by itself from the state before the group (R78). -/
def outcomes (ex : Instr → State → Out) (s : State) (ws : List PWord) : List Out :=
  ws.map fun w => ex w.instr (s.atWord w)

/-- An outcome that is no next state. -/
def isStop : Out → Bool
  | .next _ => false
  | _ => true
/-- A word that waits before it issues. -/
def waits (o : Out) : Bool := match o with | .next t => isHeld t.sig && !isBarWait t.sig | _ => false
/-- A word that traps at issue. -/
def traps (o : Out) : Bool := match o with | .next t => t.sig == .trapped | _ => false
/-- A word that waits after it has acted. -/
def barWaits (o : Out) : Bool := match o with | .next t => isBarWait t.sig | _ => false

/-- What ends a group before it issues whole: a stop, a wait, the lowest word that traps, a barrier wait. -/
def groupBlock (os : List Out) : Option Out :=
  match os.find? isStop with
  | some o => some o
  | none =>
    match os.find? waits with
    | some o => some o
    | none =>
      match os.find? traps with
      | some o => some o
      | none => os.find? barWaits

/-- The words of a group as they take effect: `SGET` first, which reads what other words change at once, then the others in
slot order (R78). -/
def effectOrder (ws : List PWord) : List PWord :=
  let reads := fun (w : PWord) => match w.instr with | .sget _ _ => true | _ => false
  ws.filter reads ++ ws.filter fun w => !reads w

/-- All words of a group take effect, in their order; a FAULT of one of them does not keep the others from it, unless it
has ended the launch.  The Boolean says that one faulted. -/
def runWords (ex : Instr → State → Out) : List PWord → Bool → State → Except Out (Bool × State)
  | [], f, s => .ok (f, s)
  | w :: ws, f, s =>
    if !s.hasSkein s.curKey then .ok (true, s) else
    match ex w.instr (s.atWord w) with
    | .next t => if isHeld t.sig then .error (.next t) else runWords ex ws (f || t.sig == .faulted) t
    | o => .error o

/-- The issue of a group takes one issue cycle of the skein. -/
def State.groupIssued (s : State) (ws : List PWord) : State :=
  let k := s.me
  let c := k.cursor s.curGang
  s.setMe ({ k with cycle := k.cycle + 1, lastGang := s.curGang }.setCursor s.curGang
    { c with slot := groupEnd ws, wait := none, woken := false })

/-- The trap skein returns at the end of the packet of its `RFT`; other packets end as `endPacket` says, and where a region
starts, every result already issued becomes visible (R73, R83). -/
def State.packetDone (rft : State → State) (s : State) : State :=
  if s.cur.todo.isEmpty then
    if s.cur.ctl == some .endTrap then rft s
    else
      let t := s.setMe (s.me.endPacket s.curGang)
      if t.me.regionCount = s.me.regionCount then t else t.settleSkein t.curKey true
  else s

/-- One issue group (R76): it waits, traps, or takes effect whole. -/
def issueGroup (ex : Instr → State → Out) (rft : State → State) (ws : List PWord) (s : State) : Out :=
  let s := { s with groupId := s.nextId }
  match groupBlock (outcomes ex s ws) with
  | some (.next t) => .next (if isHeld t.sig then t.setCur { t.cur with slot := s.cur.slot } else t)
  | some o => o
  | none =>
    match runWords ex (effectOrder ws) false (s.setMe { s.me with yielded := false }) with
    | .error (.next t) => match t.sig with | .held w => .next (s.hold w) | _ => .next t
    | .error o => o
    | .ok (true, t) => .next (if t.hasSkein t.curKey then t.settleSkein t.curKey true else t)
    | .ok (false, t) =>
      let t := (t.resolveGroup (ws.map PWord.slot)).groupIssued ws
      let t := if t.cur.stop then t.settleSkein t.curKey true else t
      .next { t.packetDone rft with sig := .done }

/-- One issue step of the current gang. -/
def issueStep (ex : Instr → State → Out) (rft : State → State) (s : State) : Out :=
  let c := s.cur
  match c.phase with
  | .empty => .next { s.fetchClause with sig := .done }
  | .resume n => .next { s.fetchRest n.toNat with sig := .done }
  | .fetched =>
    match decodeWord ((c.packets.headD []).headD 0) 0 with
    | some (_, i) => ex i { s with sig := .done }
    | none => .fault .noWord
  | .running =>
    match c.todo with
    | ws :: _ => issueGroup ex rft ws s
    | [] => .next { s.packetDone rft with sig := .done }

end Sys2Proof.Machine
end

