-- ==== Sys2Proof/Machine/Host.lean ====
section
/-! DEFINITION. The world latch (R348), contexts and the mailbox (R350, R351, R378), measurements (R361), the control BAR
(R355 to R359), and SPDM with IDE keys (R360, R362). -/

namespace Sys2Proof.Machine

/-! ### World latches (R348) -/

/-- A panel of the partner has a lent slot on the core (R320). -/
def State.lending (s : State) (core : Nat) : Bool :=
  s.panels.any fun q => q.2.core == core ^^^ 1 && q.2.life.holdsCore && q.2.lentOn.isSome
/-- The core meets the conditions of a latch change; one that lends a slot keeps its latch, since that would clear the slot. -/
def State.mayLatch (s : State) (core : Nat) : Bool :=
  let c := s.core core
  s.emptyCore [] core && !s.lending core && c.serving.isNone && c.queue.isEmpty && !s.skeins.any fun q => q.1 / 65 == core
/-- A core is cleared and latched, with the slots that it lends; whether its number is in use stays. -/
def State.clearCore (s : State) (core world : Nat) : State :=
  let c := s.core core
  let s := s.setCore core { Core.cleared world with unused := c.unused }
  { s with
    panels := Tab.mapv (fun p => if p.core == core ^^^ 1 && p.lentOn.isSome then { p with lent := .zero } else p) s.panels
    walks := s.walks.filter fun w => w.2.core != core
    vit := { s.vit with breaks := s.vit.breaks.filter fun b => b.core != some core } }
/-- `WORLD_LATCH_CHANGE` (R348): withheld sums and buffered writes go to their homes, the core is cleared, and the latch takes
its value. -/
def execWorldLatchChange (core : Nat) (world : BitVec 8) (s : State) : Out :=
  if 256 ≤ core || !s.mayLatch core then .next s
  else .next (((s.flushHoldings core fun _ _ => true).release core .pkg).clearCore core world.toNat)

/-! ### Measurements (R361) -/

def HostIf.measure (h : HostIf) (i : Nat) : List Byte := Tab.get (List.replicate 48 0) h.meas i
/-- A component's digest (log 10). -/
def componentDigest (k : Nat) : List Byte := (List.range 48).map (Config.digestByte k)
/-- M := SHA-384(M ‖ d). -/
def State.extend (s : State) (i : Nat) (d : List Byte) : State :=
  s.setHost { s.host with meas := Tab.put i (sha384 (s.host.measure i ++ d)) s.host.meas }
/-- What measurement 7 is extended with, as one number. -/
def contextWord (ctx : Nat) (c : Context) : Nat := ((ctx * 256 + c.world) * 65536 + c.mask.toNat) * 16 + c.ways + 16
/-- Measurements 6 and 7 at the creation or destruction of a context. -/
def State.measureContext (s : State) (ctx : Nat) (c : Context) : State :=
  let s := if c.ways = 0 then s else s.extend 6 (componentDigest (6 + 16 * s.tick))
  if c.world = 0 then s else s.extend 7 (componentDigest (contextWord ctx c))

/-! ### The mailbox (R350, R351, R378) -/

def CtxLife.code : CtxLife → Nat
  | .running => 1
  | .saving => 2
  | .saved => 3
  | .restoring => 4
/-- A command ends with a result (Table 18.2). -/
def State.mailEnd (s : State) (cmd ctx result : Nat) : State :=
  let st := match Tab.find? ctx s.contexts with | some c => c.life.code | none => 0
  let counter := match Tab.find? ctx s.contexts with | some c => c.counter.toNat | none => 0
  s.setHost { s.host with
    mailCmd := BitVec.ofNat 64 (ctx % 2 ^ 32 * 2 ^ 32 + cmd)
    mailResp := BitVec.ofNat 64 (counter * 2 ^ 32 + st * 2 ^ 16 + result) }
/-- A creation is in progress: its command was written, and what it names has not come. -/
def HostIf.creating (h : HostIf) : Bool := bitsOf h.mailCmd.toNat 0 8 == 1 && bitsOf h.mailResp.toNat 0 8 == 0
/-- L2 ways reserved (R351). -/
def State.waysReserved (s : State) : Nat := s.contexts.foldl (fun n c => n + c.2.ways) 0
/-- A creation is refused (R350, R351: NOWAYS is one cause, and Table 18.2 has one result for all); an id in use, and a key slot
in use, are refused too. -/
def State.createRefused (s : State) (ctx : Nat) (r : CreateReq) : Bool :=
  (Tab.find? ctx s.contexts).isSome || decide (2 ^ 32 ≤ ctx) || r.mask.toNat / 32 != 0 || decide (8 < r.ways) ||
    (r.world != 0 &&
      (decide (8 < s.waysReserved + r.ways) || decide (64 ≤ s.host.keySlots.length) || decide (64 ≤ r.keySlot) ||
        s.host.keySlots.contains r.keySlot || s.contexts.any (fun c => c.2.world == r.world.toNat) || !s.host.spdm ||
        !s.host.ide))
/-- `CONTEXT_CREATE` (R350, R351). -/
def execContextCreate (ctx : Nat) (req : CreateReq) (s : State) : Out :=
  if !s.host.serves || (s.host.creating && bitsOf s.host.mailCmd.toNat 32 32 != ctx) then .next s
  else if s.createRefused ctx req then .next (s.mailEnd 1 ctx 2)
  else
    let prot := req.world != 0
    let c : Context := { Context.none_ with
      root := req.root
      world := req.world.toNat
      mask := if prot then req.mask else 0x1F
      ways := if prot then req.ways else 0
      plan := req.plan
      image := req.image
      imageSize := req.imageSize
      keySlot := if prot then some req.keySlot else none
      creation := s.host.creations }
    let s := s.setHost { s.host with
      creations := s.host.creations + 1
      keySlots := if prot then s.host.keySlots ++ [req.keySlot] else s.host.keySlots }
    let s := if c.ways = 0 then s else s.setMem (s.mem.reserveWays c.world c.ways)
    .next (((s.setContext ctx c).measureContext ctx c).mailEnd 1 ctx 1)
/-- The end of a context: its launches end RESET, saved panels with them, and its keys and translations go (R350). -/
def State.destroyContext (s : State) (ctx : Nat) : State :=
  let c := s.context ctx
  let s := (s.ctxLaunches ctx).foldl (fun s q => s.stopLaunch q .reset) s
  let s := s.dropTranslations ctx 0 (2 ^ 57)
  let s := s.measureContext ctx c
  let s := s.setHost { s.host with keySlots := s.host.keySlots.filter fun k => c.keySlot != some k }
  let s := if c.ways = 0 then s else s.setMem (s.mem.reserveWays c.world 0)
  let s := if c.quarantined then s.setHost (s.host.orphan ctx) else s
  let s := { s with contexts := Tab.del ctx s.contexts }
  let any := s.contexts.any fun q => q.2.quarantined
  (if any then s else s.setStatus (putField s.host.status 8 1 0)).flushHeld
/-- `CONTEXT_DESTROY` (R350). -/
def execContextDestroy (ctx : Nat) (s : State) : Out :=
  if !s.host.serves || s.host.creating then .next s
  else
    match Tab.find? ctx s.contexts with
    | none => .next (s.mailEnd 2 ctx 2)
    | some c =>
      if c.life == .saving || c.life == .restoring then .next (s.mailEnd 2 ctx 2)
      else .next ((s.destroyContext ctx).mailEnd 2 ctx 1)
/-- `CONTEXT_RESTORE` (R378). -/
def execContextRestore (ctx : Nat) (s : State) : Out :=
  if !s.host.serves || s.host.creating then .next s
  else let r := s.restoreContext ctx; .next (r.1.mailEnd 3 ctx r.2)
/-- `CONTEXT_QUERY` (R378). -/
def execContextQuery (ctx : Nat) (s : State) : Out :=
  .next (if !s.host.serves || s.host.creating then s else s.mailEnd 4 ctx 1)

/-! ### The control BAR (R355 to R359) -/

/-- The last state of an outcome that is a next state. -/
def orElse (s : State) : Out → State
  | .next t => t
  | _ => s
/-- A ring's descriptor takes 8 bytes at an offset in it; `tail` says that the host writes the tail, else the head. -/
def Ring.writeAt (r : Ring) (tail : Bool) (off : Nat) (v : Nat) : Ring :=
  match off with
  | 0 => { r with base := v / 64 * 64 }
  | 8 => { r with log2 := v % 256 }
  | 16 => if tail then { r with tail := BitVec.ofNat 32 (v / 2 ^ 32) } else { r with head := BitVec.ofNat 32 v }
  | _ => r
/-- A write of 8 bytes into a queue block.  DESIGN CHOICE: of the priority byte the two bits that R307's range needs are held
(log 51). -/
def State.writeQueue (s : State) (q off v : Nat) : State :=
  let x := s.queue q
  if off = 16 then orElse s (execDoorbell q (BitVec.ofNat 32 (v / 2 ^ 32)) s)
  else if off < 32 then s.setQueue q { x with launch := x.launch.writeAt true off v }
  else if off < 64 then (s.setQueue q { x with prov := x.prov.writeAt false (off - 32) v }).flushHeld
  else if off = 64 then
    (s.setQueue q { x with priority := if x.enable then x.priority else v % 4 }).enableQueue q (bitsOf v 8 8 != 0)
  else s
/-- A write of 8 bytes into a migration engine's block (Table 13.6).  What a busy engine moves is not what its fields then hold
(R359). -/
def State.writeEngine (s : State) (n off v : Nat) : State :=
  let e := s.host.engine n
  match off with
  | 0 => s.setEngine n { e with va := v }
  | 8 => s.setEngine n { e with ctx := v % 2 ^ 32 }
  | 16 => s.setEngine n { e with hostpa := v }
  | 24 =>
    let s := s.setEngine n { e with dir := v % 256, size := bitsOf v 8 8 }
    if bitsOf v 16 8 = 1 then orElse s (execMigrationGo n s) else s
  | _ => s
/-- An entry of the MSI-X table is unmasked: a pending message goes out once (R358). -/
def HostIf.setMask (h : HostIf) (v : Nat) (masked : Bool) : HostIf :=
  let e := h.msi v
  if e.pending && !masked then
    { h with msix := Tab.put v { e with masked := false, pending := false } h.msix, sent := h.sent ++ [(v, e.data)] }
  else { h with msix := Tab.put v { e with masked := masked } h.msix }
/-- MSI-X vectors (R358). -/
def msixCount : Nat := 160
/-- `MSIX_UNMASK` (R358). -/
def execMsixUnmask (vec : Nat) (s : State) : Out :=
  .next (if msixCount ≤ vec || !s.host.serves then s else s.setHost (s.host.setMask vec false))
/-- A write of 8 bytes into the MSI-X table, whose entries are laid out as PCI Express lays them out. -/
def State.writeMsix (s : State) (off v : Nat) : State :=
  let n := off / 16
  if msixCount ≤ n then s
  else if off % 16 = 0 then s.setHost { s.host with msix := Tab.put n { s.host.msi n with addr := v } s.host.msix }
  else
    let h := { s.host with msix := Tab.put n { s.host.msi n with data := v % 2 ^ 32 } s.host.msix }
    s.setHost (h.setMask n (v.testBit 32))
/-- A write of the mailbox's command register (Table 18.1). -/
def State.writeMailbox (s : State) (v : Nat) : State :=
  let ctx := bitsOf v 32 32
  if s.host.creating then s
  else
    match v % 256 with
    | 1 => s.setHost { s.host with mailCmd := BitVec.ofNat 64 (ctx * 2 ^ 32 + 1), mailResp := 0 }
    | 2 => orElse s (execContextDestroy ctx s)
    | 3 => orElse s (execContextRestore ctx s)
    | 4 => orElse s (execContextQuery ctx s)
    | c => s.mailEnd c ctx 2
/-- `REGISTER_WRITE` (R355 to R359, R378): the host writes 8 bytes at an offset of the control BAR.  Offsets that are not
listed, and fields that the host may not write, take nothing. -/
def execRegisterWrite (off : Nat) (val : BitVec 64) (s : State) : Out :=
  let a := off / 8 * 8
  let v := val.toNat
  if !s.host.serves then .next s
  else if 0x40 ≤ a && a < 0x60 then
    .next ((s.setHost { s.host with errRing := s.host.errRing.writeAt false (a - 0x40) v }).flushHeld)
  else if 0x60 ≤ a && a < 0x80 then
    .next ((s.setHost { s.host with faultRing := s.host.faultRing.writeAt false (a - 0x60) v }).flushHeld)
  else if 0x1000 ≤ a && a < 0x5000 then .next (s.writeQueue ((a - 0x1000) / 128) ((a - 0x1000) % 128) v)
  else if 0x8000 ≤ a && a < 0x8100 then .next (s.writeEngine ((a - 0x8000) / 64) ((a - 0x8000) % 64) v)
  else if a = 0x9000 then .next (s.writeMailbox v)
  else if 0x10000 ≤ a && a < 0x11000 then .next (s.writeMsix (a - 0x10000) v)
  else .next s
/-- The 8 bytes at an offset of a ring's descriptor (R356). -/
def Ring.word (r : Ring) (off : Nat) : Nat :=
  match off with
  | 0 => r.base
  | 8 => r.log2
  | 16 => r.head.toNat + r.tail.toNat * 2 ^ 32
  | _ => 0
/-- The 8 bytes at an offset of a queue block (R357). -/
def Queue.word (q : Queue) (off : Nat) : Nat :=
  if off < 32 then q.launch.word off
  else if off < 64 then q.prov.word (off - 32)
  else if off = 64 then q.priority + (if q.enable then 2 ^ 8 else 0) + (if q.stopped then 2 ^ 16 else 0)
  else 0
/-- The 8 bytes at an offset of a migration engine's block (Table 13.6): `go` reads 0. -/
def MigEngine.word (e : MigEngine) (off : Nat) : Nat :=
  match off with
  | 0 => e.va
  | 8 => e.ctx
  | 16 => e.hostpa
  | 24 => e.dir + e.size * 2 ^ 8 + e.status * 2 ^ 24
  | _ => 0
/-- The 8 bytes at an offset of the MSI-X table and its pending bits.  DESIGN CHOICE: the pending bits follow the table directly
(log 51). -/
def HostIf.msixWord (h : HostIf) (off : Nat) : Nat :=
  let table := 16 * msixCount
  if off < table then
    let e := h.msi (off / 16)
    if off % 16 = 0 then e.addr else e.data + (if e.masked then 2 ^ 32 else 0)
  else if off < table + 24 then
    (List.range 64).foldl (fun n i => if (h.msi ((off - table) * 8 + i)).pending then n + 2 ^ i else n) 0
  else 0
/-- What the 8 bytes at an offset of the control BAR read (R5, R355 to R359, R378): a field that is only written reads 0, and so
does what is not listed. -/
def State.barWord (s : State) (off : Nat) : Nat :=
  let a := off / 8 * 8
  if a = 0 then s.host.status.toNat
  else if 0x40 ≤ a ∧ a < 0x60 then s.host.errRing.word (a - 0x40)
  else if 0x60 ≤ a ∧ a < 0x80 then s.host.faultRing.word (a - 0x60)
  else if a = 0x80 then s.host.overflow.toNat
  else if 0x1000 ≤ a ∧ a < 0x5000 then (s.queue ((a - 0x1000) / 128)).word ((a - 0x1000) % 128)
  else if 0x8000 ≤ a ∧ a < 0x8100 then (s.host.engine ((a - 0x8000) / 64)).word ((a - 0x8000) % 64)
  else if a = 0x9000 then s.host.mailCmd.toNat / 2 ^ 32 * 2 ^ 32
  else if a = 0x9008 then s.host.mailResp.toNat
  else if 0x10000 ≤ a ∧ a < 0x11000 then s.host.msixWord (a - 0x10000)
  else 0
/-- The host reads 8 bytes of the control BAR. -/
def State.hostRead (s : State) (off : Nat) : State :=
  if s.host.linkUp then s.setHost { s.host with readBack := leBytes 8 (s.barWord off) } else s
/-- `RING_HEAD_WRITE` (R356, R357): the host has consumed records; what was held for want of room is written. -/
def execRingHeadWrite (ring : RingName) (head : BitVec 32) (s : State) : Out :=
  if !s.host.serves then .next s
  else
    let s := match ring with
      | .prov q =>
        if 128 ≤ q then s else s.setQueue q { s.queue q with prov := { (s.queue q).prov with head := head } }
      | .pageFault => s.setHost { s.host with faultRing := { s.host.faultRing with head := head } }
      | .error => s.setHost { s.host with errRing := { s.host.errRing with head := head } }
    .next s.flushHeld

/-! ### SPDM and IDE (R360, R362) -/

/-- Bytes of an answer whose value the manual does not fix, drawn for this step (log 10). -/
def State.evidence (s : State) (n : Nat) : List Byte := (List.range n).map (Config.evidenceByte s.tick)
/-- ERROR UnexpectedRequest, as SPDM codes it. -/
def spdmUnexpected : List Byte := [0x12, 0x7F, 0x04, 0x00]
/-- ERROR UnsupportedRequest for a request code. -/
def spdmUnsupported (code : Byte) : List Byte := [0x12, 0x7F, 0x07, code]
/-- VERSION: 1.2 and 1.3 (R360; coded as SPDM codes it, log 51). -/
def spdmVersion : List Byte := [0x10, 0x04, 0x00, 0x00, 0x00, 0x02, 0x00, 0x12, 0x00, 0x13]
/-- The capabilities of R360 as SPDM flags: CERT, CHAL, MEAS with signature, ENCRYPT, MAC, KEY_EX, HBEAT, KEY_UPD, and no
pre-shared keys (log 51). -/
def spdmFlags : Nat := [1, 2, 4, 6, 7, 9, 13, 14].foldl (fun n i => n + 2 ^ i) 0
/-- CAPABILITIES; timing and sizes are free. -/
def State.spdmCapabilities (s : State) : List Byte :=
  [0x12, 0x61, 0x00, 0x00, 0x00] ++ s.evidence 1 ++ [0x00, 0x00] ++ leBytes 4 spdmFlags ++ (s.evidence 9).drop 1
/-- ALGORITHMS: SHA-384 for measurements and hashing, Ed25519, then ECDHE on P-384, AES-256-GCM, no requester signature, and the
SPDM key schedule (R360; log 51). -/
def spdmAlgorithms : List Byte :=
  [0x12, 0x63, 0x04, 0x00] ++ leBytes 2 52 ++ [0x01, 0x00] ++ leBytes 4 (2 ^ 2) ++ leBytes 4 (2 ^ 10) ++ leBytes 4 (2 ^ 1) ++
    List.replicate 16 0 ++ [2, 0x20] ++ leBytes 2 (2 ^ 4) ++ [3, 0x20] ++ leBytes 2 (2 ^ 1) ++ [4, 0x20] ++ leBytes 2 0 ++
    [5, 0x20] ++ leBytes 2 1
/-- A request of pre-shared keys (R360). -/
def isPsk (code : Byte) : Bool := code == 0xE6 || code == 0xE7
/-- A signed answer: the ML-DSA-65 co-signature may be fetched next. -/
def spdmSigned : SpdmReq → Bool
  | .challenge | .keyExchange => true
  | .getMeasurements _ b => b
  | _ => false
/-- `SPDM_REQUEST` (R360): the session begins with FINISH after KEY_EXCHANGE, and ends with END_SESSION. -/
def execSpdmRequest (req : SpdmReq) (s : State) : Out :=
  if !s.host.serves then .next s
  else
    let h := { s.host with coSignDue := spdmSigned req }
    let answer := match req with
      | .getMeasurements i _ => s.host.measure i ++ s.evidence 64
      | .getVersion => spdmVersion
      | .getCapabilities => s.spdmCapabilities
      | .negotiateAlgorithms => spdmAlgorithms
      | .other c => if isPsk c then spdmUnsupported c else s.evidence 64
      | _ => s.evidence 64
    .next (s.setHost
      (match req with
       | .keyExchange => { h with kexDone := true, doe := answer }
       | .finish => if h.kexDone then { h with kexDone := false, spdm := true, doe := answer } else { h with doe := spdmUnexpected }
       | .heartbeat | .keyUpdate => { h with doe := if h.spdm then answer else spdmUnexpected }
       | .endSession => if h.spdm then { h with spdm := false, doe := answer } else { h with doe := spdmUnexpected }
       | _ => { h with doe := answer }))
/-- `ML_DSA_CERT_CHAIN` (R360, operation 1): at most 1,024 bytes of the chain. -/
def execMlDsaCertChain (off len : Nat) (s : State) : Out :=
  if !s.host.serves then .next s
  else .next (s.setHost { s.host with
    coSignDue := false
    doe := (List.range (min len 1024)).map fun i => Config.evidenceByte 0 (off + i) })
/-- `ML_DSA_SIGNATURE` (R360, operation 2): 3,309 bytes, only as the request after a signed answer. -/
def execMlDsaSignature (s : State) : Out :=
  if !s.host.serves then .next s
  else .next (s.setHost { s.host with
    coSignDue := false
    doe := if s.host.coSignDue then s.evidence 3309 else spdmUnexpected })
/-- The link stream, and up to four selective streams (R362). -/
def ideStreams : Nat := 5
/-- `IDE_KM` (R362): a key is programmed inside a session; the stream that carries host traffic is then secure. -/
def execIdeKm (stream : Nat) (_key : List Byte) (s : State) : Out :=
  if !s.host.serves || !s.host.spdm || ideStreams ≤ stream then .next s
  else
    let h := s.host
    let keys := if h.ideKeys.contains stream then h.ideKeys else h.ideKeys ++ [stream]
    let s := s.setHost { h with ideKeys := keys, ide := h.ide || stream == 0 }
    .next (s.setStatus (putField s.host.status 2 1 (if s.host.ide then 1 else 0)))

end Sys2Proof.Machine
end

