-- ==== Sys2Proof/Machine/Worlds.lean ====
section
/-! DEFINITION. Containment (R366), hot reset and link loss (R367), and bring-up (R368). -/

namespace Sys2Proof.Machine

/-! ### Core fencing (R366) -/

/-- Spare cores that a die still has; four on each at power-on (R12). -/
def State.sparesOf (s : State) (die : Nat) : Nat := Tab.get 4 s.fabric.spares die
/-- The launches with a panel on a core, or with a slot lent by it, whose values would go with the core (R366). -/
def State.coreLaunches (s : State) (core : Nat) : List Nat :=
  ((s.panels.filter fun q => q.2.life != .ended && q.2.life != .saved &&
    (q.2.core == core || (q.2.core == core ^^^ 1 && q.2.lentOn.isSome))).map fun q => q.2.launch).eraseDups
/-- A spare core of the die takes the number; without one the number stays unused. -/
def State.takeSpare (s : State) (core : Nat) : State :=
  let n := s.sparesOf (coreDie core)
  if n = 0 then s.setCore core { s.core core with unused := true }
  else { s with fabric := { s.fabric with spares := Tab.put (coreDie core) (n - 1) s.fabric.spares } }
/-- `CORE_FENCE` (R366): launches with a panel on the core end RESET, their withheld sums drained first (R295), a record is
written, and a cleared spare core of its world takes the number.  What surviving launches had left on it goes to its home.
The record concerns the context of the launch that it names (R354). -/
def execCoreFence (core : Nat) (s : State) : Out :=
  if 256 ≤ core || (s.core core).unused then .next s
  else
    let seqs := s.coreLaunches core
    let s := seqs.foldl (fun s q => (s.flushLaunch q).stopLaunch q .reset) s
    let s := (s.flushHoldings core fun _ _ => true).release core .pkg
    let ctx := seqs.head?.map fun q => (s.launch q).block.context
    let s := s.postError ⟨.coreFenced, 0, core, ctx, seqs.headD 0, none, []⟩
    .next ((s.clearCore core (s.core core).world).takeSpare core)

/-! ### Hot reset (R367) -/

/-- Every protected frame reads zero, at HBM and in every copy. -/
def State.zeroProtected (s : State) : State :=
  let ls := s.protectedLeaves
  s.setMem { s.mem with
    hbm := s.mem.hbm.filter fun p => !inLeaves ls p.1
    l2 := s.mem.l2.filter fun q => !inLeaves ls (q.1 * 64)
    bad := s.mem.bad.filter fun sec => !inLeaves ls (sec * 64)
    guest := []
    updates := [] }
/-- A context of world 0 as a hot reset leaves it: its entry, its counter and its keys stay (R367). -/
def Context.rested (c : Context) : Context :=
  { c with life := .running, quarantined := false, tierOne := false, collWait := false, trapsQueued := false }
/-- The host interface as a hot reset leaves it: sessions and keys go, queues and engines are as at reset, rings, sequence
numbers and the message table stay (R307, R353, R367; log 6). -/
def HostIf.rested (h : HostIf) : HostIf :=
  { h with
    queues := Tab.mapv (fun q => { q with priority := 0, enable := false, stopped := false }) h.queues
    mig := []
    mailCmd := 0
    mailResp := 0
    spdm := false
    ide := false
    ideKeys := []
    kexDone := false
    coSignDue := false
    meas := []
    deadDies := 0 }
/-- The effects of a hot reset. -/
def State.hotReset (s : State) : State :=
  let live := (s.launches.filter fun q => q.2.life != .ended && q.2.life != .recording).map Prod.fst
  let s := live.foldl (fun s q => s.stopLaunch q .reset) s
  let cores := (s.cores.map Prod.fst)
  let s := cores.foldl (fun s c => s.release c .pkg) s
  let s := s.zeroProtected
  let prot := (s.contexts.filter fun c => c.2.world != 0).map Prod.fst
  let s := prot.foldl (fun s c => s.destroyContext c) s
  let s := { s with
    contexts := Tab.mapv Context.rested s.contexts
    cores := Tab.mapv (fun c => { Core.cleared 0 with unused := c.unused }) s.cores
    skeins := []
    ops := []
    walks := []
    vit := { s.vit with breaks := s.vit.breaks.filter fun b => b.core.isNone }
    mem := { s.mem with homes := [], msgs := [] } }
  (s.setHost s.host.rested).setStatus 0
/-- `HOT_RESET` (R367). -/
def execHotReset (s : State) : Out := .next s.hotReset

/-! ### Link loss and quarantine (R367) -/

/-- A record of class 0x07 for the host link. -/
def State.postLink (s : State) : State := s.postError ⟨.linkDown, 7, 0, none, 0, none, []⟩
/-- `HOST_LINK_DOWN` (R362, R367): every protected context is quarantined until a new session and new keys exist. -/
def execHostLinkDown (s : State) : Out :=
  if !s.host.linkUp then .next s
  else
    let s := s.setHost { s.host with
      linkUp := false
      spdm := false
      ide := false
      ideKeys := []
      kexDone := false
      coSignDue := false }
    let s := { s with contexts := Tab.mapv (fun c => { c with quarantined := c.world != 0 }) s.contexts }
    let any := s.contexts.any fun c => c.2.quarantined
    .next ((s.setStatus (putField (putField s.host.status 2 1 0) 8 1 (if any then 1 else 0))).postLink)
/-- `HOST_LINK_RECOVERY` (R367). -/
def execHostLinkRecovery (s : State) : Out :=
  .next (if s.host.linkUp then s else (s.setHost { s.host with linkUp := true }).postLink)
/-- `LINK_DOWN_TIMEOUT` (R367): the host link has been down for longer than 100 ms. -/
def execLinkDownTimeout (s : State) : Out := .next (if s.host.linkUp then s else s.hotReset)
/-- `QUARANTINE_LIFT` (R367): in one step, once a session and keys exist. -/
def execQuarantineLift (s : State) : Out :=
  if !s.host.linkUp || !s.host.spdm || !s.host.ide then .next s
  else
    let s := { s with contexts := Tab.mapv (fun c => { c with quarantined := false }) s.contexts }
    .next (s.setStatus (putField s.host.status 8 1 0)).flushHeld

/-! ### Bring-up (R368, Table 13.8) -/

/-- The stage that bring-up has reached. -/
def HostIf.stage (h : HostIf) : Nat := bitsOf h.status.toNat 24 8
/-- A die is fenced whole, and a record is written. -/
def State.fenceDie (s : State) (die : Nat) : State :=
  (s.setHost { s.host with deadDies := s.host.deadDies ||| BitVec.ofNat 4 (2 ^ die) }).postError
    ⟨.bringUp, 6, die, none, 0, none, []⟩
/-- The dies serving: those of `ds` that are not fenced are added. -/
def State.raiseDies (s : State) (ds : List Nat) : State :=
  let up := ds.foldl (fun n d => if s.host.deadDies.getLsbD d then n else n ||| 2 ^ d) (bitsOf s.host.status.toNat 4 4)
  s.setStatus (putField s.host.status 4 4 up)
/-- `POWER_ON` (R368): the next stage of bring-up; `ok` says that it did not fail. -/
def execPowerOn (ok : Bool) (s : State) : Out :=
  let st := s.host.stage
  if s.host.status.getLsbD 1 || 5 ≤ st then .next s
  else
    let s := s.setStatus (putField s.host.status 24 8 (st + 1))
    match st with
    | 0 =>
      if ok then .next ([1, 2, 3, 4].foldl (fun s i => s.extend i (componentDigest i)) s)
      else .next (s.setStatus (putField s.host.status 1 1 1))
    | 1 => .next ((if ok then s else s.fenceDie 0).extend 5 (componentDigest 5))
    | 2 =>
      let s := if ok || s.host.deadDies.getLsbD 0 then s else s.fenceDie 0
      .next ((s.raiseDies [0]).setStatus (putField (s.raiseDies [0]).host.status 3 1 1))
    | 3 =>
      let failing := if ok then 0 else Config.choice s.tick % 7 + 1
      let s := ([1, 2, 3].filter fun d => failing.testBit (d - 1)).foldl State.fenceDie s
      .next (s.raiseDies [1, 2, 3])
    | _ => .next (s.setStatus (putField (putField s.host.status 3 1 0) 0 1 1))

end Sys2Proof.Machine
end

