-- ==== Sys2Proof/Machine/Fabric.lean ====
section
/-! DEFINITION. Stitch links and the pod (R363 to R365). -/

namespace Sys2Proof.Machine

/-! ### Stitch links (R363) -/

/-- Stitch links of a package. -/
def stitchLinks : Nat := 18
def State.link (s : State) (n : Nat) : Link := Tab.get Link.untrained s.fabric.links n
def State.setLink (s : State) (n : Nat) (l : Link) : State :=
  { s with fabric := { s.fabric with links := Tab.put n l s.fabric.links } }
/-- The link carries flits of every kind. -/
def Link.isOpen (l : Link) : Bool := l.trained && l.authed && l.keyed && !l.down
/-- Links that carry flits. -/
def State.openLinks (s : State) : List Nat := (List.range stitchLinks).filter fun n => (s.link n).isOpen
/-- A record that concerns a stitch link. -/
def State.postStitch (s : State) (cls : ErrClass) (n : Nat) : State := s.postError ⟨cls, 4, n, none, 0, none, []⟩
/-- A link goes down; what it carried goes over others (R364). -/
def State.takeDown (s : State) (n : Nat) : State :=
  (s.setLink n ⟨(s.link n).lanes, false, false, false, true⟩).postStitch .linkDown n
/-- `STITCH_LINK_BRINGUP` (R363): training, mutual SPDM, keys; a peer that fails keeps the link closed.  A link that had gone down
has recovered (Table 13.3). -/
def execStitchLinkBringup (n : Nat) (peerOk : Bool) (s : State) : Out :=
  if stitchLinks ≤ n || (s.link n).isOpen then .next s
  else if peerOk then
    let t := s.setLink n ⟨4, true, true, true, false⟩
    .next (if (s.link n).down then t.postStitch .linkDown n else t)
  else .next ((s.setLink n ⟨4, true, false, false, false⟩).postStitch .authFailed n)
/-- `LANE_DROP` (R363): the link runs on what lanes are left; with the last it goes down. -/
def execLaneDrop (n : Nat) (s : State) : Out :=
  let l := s.link n
  if stitchLinks ≤ n || !l.trained || l.down then .next s
  else
    let s := (s.setLink n { l with lanes := l.lanes - 1 }).postStitch .laneDropped n
    .next (if l.lanes ≤ 1 then s.takeDown n else s)
/-- `LINK_DOWN` (R363, R364). -/
def execLinkDown (n : Nat) (s : State) : Out :=
  .next (if stitchLinks ≤ n || (s.link n).down then s else s.takeDown n)

/-- An event of a die link (R353, Table 13.3): a lane of it dropped, or the link has gone down or recovered. -/
def State.dieLinkEvent (s : State) (n : Nat) (lane : Bool) : State :=
  s.postError ⟨if lane then .laneDropped else .linkDown, 3, n % 65536, none, 0, none, []⟩

/-! ### Pod traffic (R364) -/

/-- The package that a message comes from, and its number among those of that package. -/
def podOrder : PodMsg → Nat × Nat
  | .arrive src seq _ | .expect src seq _ _ | .coll src seq _ _ _ => (src, seq)
/-- An update that another package sends to a barrier object of pod scope. -/
def State.podUpdate (s : State) (pa : Nat) (u : ObjUpd) : State :=
  let b := barOf (s.atPtr (.phys pa) 16)
  if b.scope != scopeCode .pod then s else s.putPtr (dieOf pa * 64) (.phys pa) 16 (b.update .pod u).toNat
/-- `POD_MESSAGE` (R364): each message of a package is taken once, in order. -/
def execPodMessage (m : PodMsg) (s : State) : Out :=
  let o := podOrder m
  if s.openLinks.isEmpty || s.fabric.lost.contains o.1 || Tab.get 0 s.fabric.podSeq o.1 != o.2 then .next s
  else
    let s := { s with fabric := { s.fabric with podSeq := Tab.put o.1 (o.2 + 1) s.fabric.podSeq } }
    match m with
    | .arrive _ _ addr => .next (s.podUpdate (addr / 16 * 16) .arrive)
    | .expect _ _ addr n => .next (s.podUpdate (addr / 16 * 16) (.expect n))
    | .coll _ _ tag part bs =>
      .next { s with fabric := { s.fabric with podColl := s.fabric.podColl ++ [(tag, part, bs)] } }

/-! ### Heartbeats and lost packages (R365) -/

/-- `HEARTBEAT` (R365): one on every open link. -/
def execHeartbeat (s : State) : Out :=
  .next { s with fabric := { s.fabric with beats := s.openLinks.foldl (fun t n => Tab.upd 0 n (· + 1) t) s.fabric.beats } }

/-- The pod barrier word that a gang waits at, with its slot and pointer register. -/
def podWait (c : Cursor) : Option (Nat × SReg) :=
  if c.wait != some .barrier then none else
  (c.todo.headD []).findSome? fun w =>
    match w.instr with
    | .bar .pod a => some (w.slot, a)
    | .barw .pod a _ => some (w.slot, a)
    | _ => none
/-- An update on its way to an object of a lost package raises FAULT. -/
def State.loseUpdate (s : State) (q : Nat × Op) : State :=
  match q.2.kind with
  | .barrier u _ sc va =>
    if !s.podLost q.2.who sc va then s
    else
      let s := s.delOp q.1
      let s := if u == .arriveWait then s.modSkein q.2.sk fun k => { k with bar := none } else s
      (s.endEntry q.2).lateFault q.2.sk lostCode q.2.place.2.1 q.2.place.1 va
  | _ => s
/-- A gang that waits on an object of a lost package raises FAULT. -/
def State.loseWait (s : State) (k g : Nat) : State :=
  let x := s.skein k
  match podWait (x.cursor g) with
  | some (slot, a) =>
    if s.podLost (s.whoOf k) .pod (x.sreg a).val then s.lateFault k lostCode slot (x.pcOf g) (x.sreg a).val else s
  | none => s
/-- A collective with a lost package among its participants ends in MISMATCH (R233). -/
def State.loseColl (s : State) (id : Nat) : State :=
  match s.op id with
  | some o =>
    match o.kind with
    | .coll c =>
      let ctx := s.ctxOf o.who
      if !o.staged && c.out.isNone && !c.bad && s.collLost ctx c then s.failColl ctx c (s.collGroup o c) (s.remoteSends c).length
      else s
    | _ => s
  | none => s
/-- `PACKAGE_LOST` (R365): which objects are homed at the package and which collectives it has a part in is free (log 41); those
that skeins wait on, update or take part in end now, and later ones as they come. -/
def execPackageLost (node : Nat) (s : State) : Out :=
  if 4096 ≤ node || s.fabric.lost.contains node then .next s
  else
    let s := ({ s with fabric := { s.fabric with lost := s.fabric.lost ++ [node] } }.postStitch .packageLost node).signal 131
    let s := (s.ops.map Prod.fst).foldl State.loseColl s
    let s := s.ops.foldl State.loseUpdate s
    .next (s.skeins.foldl (fun s q => (List.range 8).foldl (fun s g => s.loseWait q.1 g) s) s)
/-- The fabric manager gives the package its node id (R364). -/
def State.giveNode (s : State) (n : Nat) : State := { s with fabric := { s.fabric with node := n % 4096 } }

end Sys2Proof.Machine
end

