-- ==== Sys2Proof/Machine/Vitrine.lean ====
section
/-! DEFINITION. The vitrine's commands that stop, resume and show (R259 to R262, R347, R371 to R376, R381, R382). -/

namespace Sys2Proof.Machine

/-! ### Breakpoints (R381) -/

/-- The packet of a label of the code or trap section, or of a number. -/
def Vitrine.packetOf (v : Vitrine) (loc : String) : Option Nat :=
  match v.opened with
  | none => none
  | some c =>
    match List.find? (fun y => y.1 == loc && decide (y.2.1 < 2) && y.2.2.1 == 0) c.symbols with
    | some y => some (v.codeBase / 12 + (if y.2.1 = 1 then c.code.length / 3 else 0) + y.2.2.2)
    | none => (parseNum (loc.toList.map lowerChar)).map (· + v.codeBase / 12)
/-- A breakpoint number is free for a new breakpoint: on its core, or on every core that the launch uses. -/
def State.numberFree (s : State) (core : Option Nat) (n : Nat) : Bool :=
  !s.vit.breaks.any fun b => b.num == n && (match b.core, core with
    | none, none => true
    | none, some d => s.launchCores.contains d
    | some c, some d => c == d
    | some c, none => s.launchCores.contains c)
/-- Write the registers of the cores that a breakpoint concerns. -/
def State.armFor (s : State) (core : Option Nat) : State :=
  (match core with | some c => [c] | none => s.launchCores).foldl (fun s c => s.armCore c) s
/-- `BREAK` (R381). -/
def execVitBreak (loc : String) (core : Option Nat) (s : State) : Out :=
  match s.vit.packetOf loc with
  | none => .next s
  | some pc =>
    match (List.range 4).find? (s.numberFree core) with
    | none => .next (s.print "no breakpoint free")
    | some n =>
      let s := { s with vit := { s.vit with breaks := s.vit.breaks ++ [(⟨n, BitVec.ofNat 53 pc, core⟩ : BreakSet)] } }
      .next (s.armFor core)
/-- `BREAK_DEL` (R381). -/
def execVitBreakDel (n : Nat) (core : Option Nat) (s : State) : Out :=
  let s := { s with vit := { s.vit with breaks := s.vit.breaks.filter fun b => !(b.num == n && b.core == core) } }
  .next (s.armFor core)

/-! ### Going on (R347) -/

/-- A gang that the debugger has held between packets goes on from there with its stop record: it enters its clause again,
or continues it with the recorded flags and no wait (R71, R73).  Within a packet it goes on where it stopped (R347). -/
def Cursor.resumed (c : Cursor) : Cursor :=
  if !c.between then { c with stop := false }
  else if c.stopRec.left = 0 then { Cursor.empty with passed := c.passed }
  else { Cursor.empty with phase := .resume c.stopRec.left, setA := c.setA, setB := c.setB, passed := c.passed }
/-- The debugger lets a skein's gangs go: where another gang stopped at the same packet, a gang has no report to make
(R346). -/
def Skein.release (k : Skein) : Skein :=
  let at_ := ((List.range 8).filter fun g => (k.cursor g).stop && (k.cursor g).between).map k.pcOf
  let gangs := k.gangs.map fun q =>
    let c := { q.2 with passed := q.2.passed || (k.stopped && q.2.between && at_.contains (k.pcOf q.1)) }
    (q.1, if k.heldGang q.1 then c.resumed else c)
  { k with gangs := gangs, stopped := false, dbgHold := false }
/-- Every result that a halted skein has issued is visible before it goes on (R83). -/
def State.releaseSkein (s : State) (k : Nat) : State :=
  let x := s.skein k
  if x.stopped || x.dbgHold then
    (if x.leaders.all x.heldGang then s.settleSkein k true else s).modSkein k Skein.release
  else s
/-- `CONTINUE` (R347): every skein of the launch that the debugger holds goes on. -/
def execVitContinue (s : State) : Out :=
  match s.vit.launched with
  | none => .next s
  | some seq =>
    let ks := (s.skeins.filter fun q => (s.panel q.2.panel).launch == seq).map Prod.fst
    .next (ks.foldl State.releaseSkein { s with vit := { s.vit with stepping := none } })
/-- The gang that `STEP` issues: one that stopped, else the one that issued last. -/
def Skein.current (k : Skein) : Nat :=
  match k.leaders.find? fun g => (k.cursor g).stop with
  | some g => g
  | none => if k.leaders.contains k.lastGang then k.lastGang else k.leaders.headD 0
/-- `STEP` (R347): the selected gang may issue one group; it then stops, and the others stay halted. -/
def execVitStep (s : State) : Out :=
  let k := s.skein s.vit.sel
  if !s.hasSkein s.vit.sel || !k.stopped then .next s
  else
    let g := k.current
    let s := s.modSkein s.vit.sel fun k => k.setCursor g (k.cursor g).resumed
    .next { s with vit := { s.vit with stepping := some g } }
/-- `SKEIN` (R261): the skein that later commands address; the number of the trap slot names the trap skein. -/
def execVitSkein (core panel idx : Nat) (s : State) : Out :=
  let mine := fun (q : Nat × Skein) =>
    q.1 / 65 == core && (if idx = trapSlot then q.2.slot == trapSlot
      else q.2.slot != trapSlot && q.2.idx == idx && (s.panel q.2.panel).index == panel)
  match List.find? mine s.skeins with
  | some q => .next { s with vit := { s.vit with sel := q.1 } }
  | none => .next s

/-! ### Prints of the selected skein (R262) -/

def State.prints (s : State) (ls : List String) : State := ls.foldl State.print s
/-- A print about the selected skein, whose fixed-latency results are visible to it (R83, R260); `denied` where the mask
denies it (R259). -/
def State.show_ (s : State) (f : State → Skein → List String) : Out :=
  match Tab.find? s.vit.sel s.skeins with
  | none => .next s
  | some k =>
    if !s.mayDebug (s.core k.core).world then .next (s.print "denied")
    else
      let t := if k.stopped || k.halted then s.settleSkein s.vit.sel true else s
      .next (s.prints (f t (t.skein s.vit.sel)))

def joinWith (sep : String) : List String → String
  | [] => ""
  | [x] => x
  | x :: t => x ++ sep ++ joinWith sep t
def trimEnd (t : String) : String := String.ofList (t.toList.reverse.dropWhile (· == ' ')).reverse
/-- A number of at least `k` digits. -/
def hexMin (k x : Nat) : String := hexK (max k (x.log2 / 4 + 1)) x
def regName (r : SReg) : String :=
  if r = regEm then "em" else if r = regPm then "pm" else if r = 62 then "lr" else if r = regZero then "zero"
  else "s" ++ dec r.toNat
/-- One lane of a vector register. -/
def laneText (l : Nat) (x : Lane) : String := padLeft 2 (dec l) ++ " " ++ hexK 8 x.val.toNat ++ (if x.poison then "*" else " ")
/-- A vector register: four lines of eight lanes. -/
def vectorText (k : Skein) (r : VReg) : List String :=
  (List.range 4).map fun i =>
    let items := (List.range 8).map fun j => laneText (8 * i + j) (k.lane (laneKey r.toNat (8 * i + j)))
    trimEnd (padRight 5 (if i = 0 then "v" ++ dec r.toNat else "") ++ joinWith " " items)
/-- `REGS` (R262). -/
def execVitRegs (rs : List VReg) (s : State) : Out := s.show_ fun _ k => rs.flatMap (vectorText k)
/-- `SREGS` (R261). -/
def execVitSregs (rs : List SReg) (s : State) : Out :=
  s.show_ fun _ k => rs.map fun r =>
    let x := k.sreg r
    padRight 5 (regName r) ++ hexK 16 x.val.toNat ++ (if x.poison then " P" else "") ++ (if x.pend.isSome then " F" else "")
/-- `FLAGS` (R261). -/
def execVitFlags (s : State) : Out :=
  s.show_ fun _ k => ["f0-11  " ++ joinWith " " ((List.range 12).map fun n => dec (k.flag n))]
/-- `SLICES` (R261): slice PCs, gang map and exited mask. -/
def execVitSlices (s : State) : Out :=
  s.show_ fun t k =>
    ["pc0-7  " ++ joinWith " " ((List.range 8).map fun sl => hexN (t.vit.packet (k.pcOf sl))) ++ "   gangs " ++
      hexMin 4 k.gangmap.toNat ++ "  exited " ++ hexK 2 k.exited.toNat]
/-- A pattern value: the value, then its pairs (R374). -/
def patternText (name : String) (p : Dword) : String :=
  let pair := fun i => "v" ++ dec (bitsOf p.toNat (12 * i + 6) 6) ++ ">v" ++ dec (bitsOf p.toNat (12 * i) 6)
  trimEnd (padRight 5 name ++ hexK 16 p.toNat ++ "   " ++ joinWith " " ((List.range (min 5 (bitsOf p.toNat 60 4))).map pair))
/-- `PATTERN` (R374). -/
def execVitPattern (s : State) : Out :=
  s.show_ fun _ k => ["open " ++ (if k.meldOpen then "1" else "0"), patternText "A" k.patA, patternText "B" k.patB]
/-- `POISON` (R376): the mask of poisoned lanes, then each with its token. -/
def execVitPoison (v : VReg) (s : State) : Out :=
  s.show_ fun _ k =>
    let ls := ((List.range 32).map fun l => (l, k.lane (laneKey v.toNat l))).filter fun q => q.2.poison
    let mask := ls.foldl (fun m q => m + 2 ^ q.1) 0
    [padRight 5 ("v" ++ dec v.toNat) ++ "mask " ++ hexK 8 mask ++
      String.join (ls.map fun q => "  " ++ dec q.1 ++ " " ++ hexK 8 q.2.val.toNat)]
/-- `ACCESSIONS` (R376): every valid record. -/
def execVitAccessions (s : State) : Out :=
  s.show_ fun t k =>
    let word := fun i w => (Tab.get 0 k.accession (4 * i + w)).toNat
    let pc := fun (x : Nat) => hexN (t.vit.packet (BitVec.ofNat 53 x))
    ((List.range 16).filter fun i => (word i 0).testBit 63).map fun i =>
      "acc " ++ dec i ++ "  code " ++ hexK 2 (bitsOf (word i 0) 32 8) ++ "  pc " ++ pc (word i 2) ++ "." ++
        dec (bitsOf (word i 0) 40 2) ++ "  lanes " ++ hexK 8 (bitsOf (word i 0) 0 32) ++ "  addr " ++ hexK 16 (word i 1) ++
        "  region " ++ pc (word i 3)

/-! ### Cabinet (R371) -/

/-- The key of an entry. -/
def keyText (e : CabEntry) : String :=
  opName e.word ++ String.join (e.key.srcs.map fun n => " #" ++ dec n) ++
    (if hasImm e.word then " " ++ hexN e.key.imm.toNat else "") ++ " L" ++ dec e.key.launchSlot
/-- References (R370): registers that map to the slot, and entries whose keys name it. -/
def State.refCount (s : State) (core n : Nat) : Nat :=
  ((s.mapped core).filter (· == n)).length + ((s.core core).cabinet.filter fun q => q.2.key.srcs.contains n).length
def State.cabinetLine (s : State) (core : Nat) (q : Nat × CabEntry) : String :=
  trimEnd (padLeft 4 (dec q.1) ++ "  " ++ padRight 23 (keyText q.2) ++ padLeft 4 (dec (s.refCount core q.1)) ++ "  " ++
    (if q.2.loadRooted then joinWith " " (q.2.shown.map (hexK 16)) else ""))
/-- `CABINET` (R371). -/
def execVitCabinet (s : State) : Out :=
  s.show_ fun t k =>
    let t := t.sweep k.core
    "slot  key                    refs  lines" :: (t.core k.core).cabinet.map (t.cabinetLine k.core)

/-! ### Memory, scratchpad, accumulators (R260, R261, R373) -/

/-- Bytes, sixteen to a line, each line with its address. -/
def dumpLines (digits : Nat) : Nat → Nat → List String → List String
  | 0, _, _ => []
  | n + 1, a, bs =>
    if bs.isEmpty then []
    else (hexK digits a ++ "  " ++ joinWith " " (bs.take 16)) :: dumpLines digits n (a + 16) (bs.drop 16)
/-- The page of the device that holds an address of the vitrine's context, whatever its world. -/
def State.vitPage (s : State) (va : Nat) : Option Xlat :=
  let a := va % 2 ^ 57
  match entryAt s.mem a 4 (s.context s.vit.ctx).root with
  | some (_, l, e) => if pteOwner e == 1 then none else some ⟨leafAddr e l a, e, l⟩
  | none => none
/-- A byte of global memory at its home, whatever its world; `denied` shows as a code of its own. -/
def State.vitByte (s : State) (va : Nat) : Except Bool Byte :=
  match s.vitPage va with
  | none => .error false
  | some x => if s.mayDebug (pteWorld x.pte) then .ok (s.mem.homeByte x.pa) else .error true
/-- The bytes of a range in print, or none where the mask denies one of them (R259).  A byte that no page maps prints as
two dashes. -/
def State.vitBytes (s : State) (va len : Nat) : Option (List String) :=
  (List.range len).mapM fun i =>
    match s.vitByte (va + i) with
    | .ok b => some (hexByte b)
    | .error true => none
    | .error false => some "--"
/-- `MEM` (R261). -/
def execVitMem (addr len : Nat) (s : State) : Out :=
  match s.vitBytes addr len with
  | none => .next (s.print "denied")
  | some bs => .next (s.prints (dumpLines 16 (len + 1) addr bs))
/-- `SCRATCH` (R261). -/
def execVitScratch (off len : Nat) (s : State) : Out :=
  s.show_ fun t k =>
    let p := t.panel k.panel
    dumpLines 8 (len + 1) off ((p.padBytes off (min len (p.padSize - off))).map hexByte)
/-- Columns c0 to c1 of a row, eight to a line. -/
def accLines (name : String) (x : Nat → Lane) (c0 c1 : Nat) : List String :=
  (List.range ((c1 + 8 - c0) / 8)).map fun i =>
    let j := c0 + 8 * i
    let vals := ((List.range 8).filter fun d => decide (j + d ≤ c1)).map fun d =>
      hexK 8 (x (j + d)).val.toNat ++ (if (x (j + d)).poison then "*" else "")
    padRight 8 (if i = 0 then name else "") ++ padLeft 3 ("c" ++ dec j) ++ "  " ++ joinWith " " vals
/-- The progress of the first operation on an accumulator in the queue. -/
def State.accProgress (s : State) (core p a : Nat) : Nat :=
  (((s.core core).queue.filterMap s.op).filter fun o => o.kind.accOf == some (p, a)).head?.elim 0 fun o =>
    match o.kind with | .mmat m => m.steps | _ => 0
/-- `ACC` (R373). -/
def execVitAcc (n : Nat) (row c0 c1 : Option Nat) (s : State) : Out :=
  s.show_ fun t k =>
    let p := k.panel
    let x := t.panel p
    let r := row.getD 0
    let lo := c0.getD 0
    let hi := c1.getD 63
    if t.accBusy x.core p n then ["busy  progress " ++ dec (t.accProgress x.core p n)]
    else if x.accBase.length ≤ n || (if t.paired p n then 128 else 64) ≤ r || hi < lo || 63 < hi then []
    else
      let a := x.acc n
      let e := fun c => if r < 64 then Tab.get Lane.zero a.elem (64 * r + c) else Tab.get Lane.zero x.lent.elem (64 * (r - 64) + c)
      accLines ("row " ++ dec r) e lo hi ++
        ["Q " ++ binK 5 a.q.toNat ++ "  cursor " ++ dec a.band.toNat ++
          (if 64 ≤ r then "  lent slot on core " ++ dec (x.core ^^^ 1) else "")]

/-! ### Trackers (R375) -/

/-- The region that holds an address, of a launch of the vitrine's context: one that runs before one that has ended, the later
before the earlier. -/
def State.vitRegion (s : State) (va : Nat) : Option Region :=
  let mine := (s.launches.filter fun q => q.2.block.context == s.vit.ctx).reverse
  let holds := fun (q : Nat × Launch) => q.2.regions.find? fun r => decide (r.base ≤ va) && decide (va < r.base + r.size)
  ((mine.filter fun q => q.2.life == .running).findSome? holds).or (mine.findSome? holds)
/-- One holder, with the share b that it has (Table 10.5). -/
def State.holderLine (s : State) (sector n : Nat) (h : Nat × Word) : String :=
  let w := Tab.get ⟨[], 0, h.2, false, 0, []⟩ (s.core h.1).withheld sector
  "core " ++ dec h.1 ++ "  b " ++ showF32 w.share ++ "  M " ++ showF32 w.mag ++ "  draining " ++
    (if w.draining then "1" else "0") ++ "  sum " ++ (match Tab.find? (sector * 64 + 4 * n) w.sums with | some x => showF32 x | none => "empty")
/-- Holders in ascending core number. -/
def insertHolder (h : Nat × Word) : List (Nat × Word) → List (Nat × Word)
  | [] => [h]
  | x :: t => if h.1 ≤ x.1 then h :: x :: t else x :: insertHolder h t
/-- `TRACKER` (R375). -/
def execVitTracker (addr : Nat) (s : State) : Out :=
  match s.vitRegion addr, s.vitPage addr with
  | some r, some x =>
    if !s.mayDebug (pteWorld x.pte) then .next (s.print "denied")
    else
      let sector := x.pa / 64
      let h := s.home sector r.ease
      let h := if h.holders.isEmpty then { h with ease := r.ease, rest := r.ease } else h
      let n := addr % 64 / 4
      let value := BitVec.ofNat 32 (s.mem.homeNat (sector * 64 + 4 * n) 4)
      .next (s.prints (
        ["sector " ++ hexK 16 (addr / 64 * 64) ++ "  home die " ++ dec (dieOf x.pa) ++ "  ease " ++ showF32 h.ease ++ "  U " ++
            showF32 h.rest ++ "  holders " ++ dec h.holders.length,
          "elem " ++ dec n ++ "  home " ++ showF32 value] ++
        (h.holders.foldr insertHolder []).map (s.holderLine sector n)))
  | _, _ => .next s

/-! ### Futures, batches, spools, worlds, images -/

def futureKind (n : Nat) : String := ["MMAT", "COLL", "CSEAL", "COPEN"].getD n (dec n)
def futureStatus (n : Nat) : String :=
  ["OK", "CANCELLED", "BADOP", "BOUNDS", "FAULT", "MISMATCH", "STALE", "TAG", "DENIED"].getD n (hexK 2 n)
/-- `FUTURE` (R372). -/
def execVitFuture (r : SReg) (s : State) : Out :=
  s.show_ fun _ k =>
    let x := k.sreg r
    let v := x.val.toNat
    [padRight 5 (regName r) ++ hexK 16 v ++
      (if x.pend.isSome then " F  pending " ++ futureKind (bitsOf v 60 3)
       else "  done " ++ futureStatus (bitsOf v 48 8) ++ " detail " ++ hexK 2 (bitsOf v 40 8) ++ " flags " ++
         binK 5 (bitsOf v 32 5) ++ " progress " ++ dec (bitsOf v 0 32))]
/-- `BATCH` (R261). -/
def execVitBatch (s : State) : Out :=
  s.show_ fun _ k => ["open " ++ dec k.openBatch.num.toNat ++ "  outstanding " ++ dec k.batches.length]
/-- `SPOOL` (R261). -/
def execVitSpool (n : Nat) (s : State) : Out :=
  s.show_ fun t k =>
    let y := (t.panel k.panel).spool n
    ["spool " ++ dec n ++ "  base " ++ hexN y.base ++ "  size " ++ dec y.size ++ "  count " ++ dec y.count ++ "  free " ++
      dec y.free ++ "  filled " ++ dec y.filled ++ "  held " ++ dec y.held.length]
/-- `WORLD` (R261). -/
def execVitWorld (s : State) : Out :=
  let core := s.vit.sel / 65
  let w := (s.core core).world
  .next (s.print ("core " ++ dec core ++ "  world " ++ dec w ++ "  mask " ++ hexK 4 (s.worldMask w).toNat))
/-- `IMAGE` (R382). -/
def execVitImage (addr : Nat) (s : State) : Out :=
  let bs := (List.range 64).map fun i => s.vitByte (addr + i)
  if bs.any fun b => match b with | .error true => true | _ => false then .next (s.print "denied")
  else
    let h := bs.map fun b => match b with | .ok x => x | .error _ => 0
    let f := fieldOf h
    if f 0 4 != 0x47533444 then .next (s.print "no image")
    else .next (s.prints
      ["image " ++ hexK 16 addr ++ "  magic " ++ hexK 8 (f 0 4) ++ "  version " ++ dec (f 4 2) ++ "  kind " ++ dec (f 6 1) ++
          "  skein " ++ dec (f 7 1) ++ "  context " ++ hexN (f 8 4) ++ "  counter " ++ dec (f 12 4) ++ "  segment " ++
          dec (f 16 2) ++ "  length " ++ dec (f 20 4) ++ "  offset " ++ hexN (f 24 4) ++ "  world " ++ dec (f 28 4),
        "      tag " ++ joinWith " " (((h.drop 32).take 16).map hexByte)])

end Sys2Proof.Machine
end

