-- ==== Sys2Proof/Machine/Dispatch.lean ====
section
/-! DEFINITION. The meaning of every instruction: one arm for each constructor, each a direct call of its meaning. -/

namespace Sys2Proof.Machine

/-- The meaning of an instruction. -/
def exec (i : Instr) (s : State) : Host.Outcome State Fault Refusal :=
  match i with
  | .clauseHeader wait setA setB len gap => Sys2Proof.Machine.execClauseHeader wait setA setB len gap s
  | .fixedResultVisible sk => Sys2Proof.Machine.execFixedResultVisible sk s
  | .nop => Sys2Proof.Machine.execNop s
  | .bra off => Sys2Proof.Machine.execBra off s
  | .bruZ a off => Sys2Proof.Machine.execBruZ a off s
  | .bruNz a off => Sys2Proof.Machine.execBruNz a off s
  | .bruNeg a off => Sys2Proof.Machine.execBruNeg a off s
  | .bruNneg a off => Sys2Proof.Machine.execBruNneg a off s
  | .bruv a off => Sys2Proof.Machine.execBruv a off s
  | .brs a off => Sys2Proof.Machine.execBrs a off s
  | .brzm a off => Sys2Proof.Machine.execBrzm a off s
  | .call off => Sys2Proof.Machine.execCall off s
  | .ret => Sys2Proof.Machine.execRet s
  | .jmpi a => Sys2Proof.Machine.execJmpi a s
  | .exit => Sys2Proof.Machine.execExit s
  | .yield => Sys2Proof.Machine.execYield s
  | .split a => Sys2Proof.Machine.execSplit a s
  | .regang a => Sys2Proof.Machine.execRegang a s
  | .meld a => Sys2Proof.Machine.execMeld a s
  | .meldx => Sys2Proof.Machine.execMeldx s
  | .region => Sys2Proof.Machine.execRegion s
  | .vdrop a b e d => Sys2Proof.Machine.execVdrop a b e d s
  | .sadd d a b => Sys2Proof.Machine.execSadd d a b s
  | .ssub d a b => Sys2Proof.Machine.execSsub d a b s
  | .smul d a b => Sys2Proof.Machine.execSmul d a b s
  | .smulh d a b => Sys2Proof.Machine.execSmulh d a b s
  | .smulhu d a b => Sys2Proof.Machine.execSmulhu d a b s
  | .sdiv d a b => Sys2Proof.Machine.execSdiv d a b s
  | .sdivu d a b => Sys2Proof.Machine.execSdivu d a b s
  | .srem d a b => Sys2Proof.Machine.execSrem d a b s
  | .sremu d a b => Sys2Proof.Machine.execSremu d a b s
  | .sand d a b => Sys2Proof.Machine.execSand d a b s
  | .sor d a b => Sys2Proof.Machine.execSor d a b s
  | .sxor d a b => Sys2Proof.Machine.execSxor d a b s
  | .sandn d a b => Sys2Proof.Machine.execSandn d a b s
  | .sshl d a b => Sys2Proof.Machine.execSshl d a b s
  | .sshr d a b => Sys2Proof.Machine.execSshr d a b s
  | .ssra d a b => Sys2Proof.Machine.execSsra d a b s
  | .smin d a b => Sys2Proof.Machine.execSmin d a b s
  | .smax d a b => Sys2Proof.Machine.execSmax d a b s
  | .sminu d a b => Sys2Proof.Machine.execSminu d a b s
  | .smaxu d a b => Sys2Proof.Machine.execSmaxu d a b s
  | .scmpEq d a b => Sys2Proof.Machine.execScmpEq d a b s
  | .scmpNe d a b => Sys2Proof.Machine.execScmpNe d a b s
  | .scmpLt d a b => Sys2Proof.Machine.execScmpLt d a b s
  | .scmpLe d a b => Sys2Proof.Machine.execScmpLe d a b s
  | .scmpLtu d a b => Sys2Proof.Machine.execScmpLtu d a b s
  | .scmpLeu d a b => Sys2Proof.Machine.execScmpLeu d a b s
  | .ssel d a b => Sys2Proof.Machine.execSsel d a b s
  | .spopc d a => Sys2Proof.Machine.execSpopc d a s
  | .sclz d a => Sys2Proof.Machine.execSclz d a s
  | .sctz d a => Sys2Proof.Machine.execSctz d a s
  | .sbfe d a b => Sys2Proof.Machine.execSbfe d a b s
  | .sbfi d a b => Sys2Proof.Machine.execSbfi d a b s
  | .saddI d a n => Sys2Proof.Machine.execSaddI d a n s
  | .sandI d a n => Sys2Proof.Machine.execSandI d a n s
  | .sorI d a n => Sys2Proof.Machine.execSorI d a n s
  | .sxorI d a n => Sys2Proof.Machine.execSxorI d a n s
  | .sshlI d a n => Sys2Proof.Machine.execSshlI d a n s
  | .sshrI d a n => Sys2Proof.Machine.execSshrI d a n s
  | .ssraI d a n => Sys2Proof.Machine.execSsraI d a n s
  | .scmpEqI d a n => Sys2Proof.Machine.execScmpEqI d a n s
  | .scmpNeI d a n => Sys2Proof.Machine.execScmpNeI d a n s
  | .scmpLtI d a n => Sys2Proof.Machine.execScmpLtI d a n s
  | .scmpLeI d a n => Sys2Proof.Machine.execScmpLeI d a n s
  | .scmpLtuI d a n => Sys2Proof.Machine.execScmpLtuI d a n s
  | .scmpLeuI d a n => Sys2Proof.Machine.execScmpLeuI d a n s
  | .smovi d n => Sys2Proof.Machine.execSmovi d n s
  | .slui d n => Sys2Proof.Machine.execSlui d n s
  | .smov d a => Sys2Proof.Machine.execSmov d a s
  | .sget d sel => Sys2Proof.Machine.execSget d sel s
  | .sput a => Sys2Proof.Machine.execSput a s
  | .vadd t d a b => Sys2Proof.Machine.execVadd t d a b s
  | .vsub t d a b => Sys2Proof.Machine.execVsub t d a b s
  | .vmul t d a b => Sys2Proof.Machine.execVmul t d a b s
  | .vmulh t d a b => Sys2Proof.Machine.execVmulh t d a b s
  | .vmulhu t d a b => Sys2Proof.Machine.execVmulhu t d a b s
  | .vand d a b => Sys2Proof.Machine.execVand d a b s
  | .vor d a b => Sys2Proof.Machine.execVor d a b s
  | .vxor d a b => Sys2Proof.Machine.execVxor d a b s
  | .vandn d a b => Sys2Proof.Machine.execVandn d a b s
  | .vshl t d a b => Sys2Proof.Machine.execVshl t d a b s
  | .vshr t d a b => Sys2Proof.Machine.execVshr t d a b s
  | .vsra t d a b => Sys2Proof.Machine.execVsra t d a b s
  | .vmin t d a b => Sys2Proof.Machine.execVmin t d a b s
  | .vmax t d a b => Sys2Proof.Machine.execVmax t d a b s
  | .vminu t d a b => Sys2Proof.Machine.execVminu t d a b s
  | .vmaxu t d a b => Sys2Proof.Machine.execVmaxu t d a b s
  | .vabsd t d a b => Sys2Proof.Machine.execVabsd t d a b s
  | .vaddsat t d a b => Sys2Proof.Machine.execVaddsat t d a b s
  | .vsubsat t d a b => Sys2Proof.Machine.execVsubsat t d a b s
  | .vpopc t d a => Sys2Proof.Machine.execVpopc t d a s
  | .vclz t d a => Sys2Proof.Machine.execVclz t d a s
  | .vbfe d a b => Sys2Proof.Machine.execVbfe d a b s
  | .vbfi d a b => Sys2Proof.Machine.execVbfi d a b s
  | .vmov d b => Sys2Proof.Machine.execVmov d b s
  | .vidx d => Sys2Proof.Machine.execVidx d s
  | .vaddI d a n => Sys2Proof.Machine.execVaddI d a n s
  | .vmulI d a n => Sys2Proof.Machine.execVmulI d a n s
  | .vandI d a n => Sys2Proof.Machine.execVandI d a n s
  | .vorI d a n => Sys2Proof.Machine.execVorI d a n s
  | .vxorI d a n => Sys2Proof.Machine.execVxorI d a n s
  | .vshlI d a n => Sys2Proof.Machine.execVshlI d a n s
  | .vshrI d a n => Sys2Proof.Machine.execVshrI d a n s
  | .vsraI d a n => Sys2Proof.Machine.execVsraI d a n s
  | .vminI d a n => Sys2Proof.Machine.execVminI d a n s
  | .vmaxI d a n => Sys2Proof.Machine.execVmaxI d a n s
  | .vminuI d a n => Sys2Proof.Machine.execVminuI d a n s
  | .vmaxuI d a n => Sys2Proof.Machine.execVmaxuI d a n s
  | .vmovi d n => Sys2Proof.Machine.execVmovi d n s
  | .vfadd d a b => Sys2Proof.Machine.execVfadd d a b s
  | .vfsub d a b => Sys2Proof.Machine.execVfsub d a b s
  | .vfmul d a b => Sys2Proof.Machine.execVfmul d a b s
  | .vfmin d a b => Sys2Proof.Machine.execVfmin d a b s
  | .vfmax d a b => Sys2Proof.Machine.execVfmax d a b s
  | .vfabs d a => Sys2Proof.Machine.execVfabs d a s
  | .vfneg d a => Sys2Proof.Machine.execVfneg d a s
  | .vfclass d a => Sys2Proof.Machine.execVfclass d a s
  | .vfscale d a b => Sys2Proof.Machine.execVfscale d a b s
  | .vfrint d a => Sys2Proof.Machine.execVfrint d a s
  | .vfma d a b e => Sys2Proof.Machine.execVfma d a b e s
  | .vfms d a b e => Sys2Proof.Machine.execVfms d a b e s
  | .vfnma d a b e => Sys2Proof.Machine.execVfnma d a b e s
  | .vmad d a b e => Sys2Proof.Machine.execVmad d a b e s
  | .vaddmin d a b e => Sys2Proof.Machine.execVaddmin d a b e s
  | .vfaddmin d a b e => Sys2Proof.Machine.execVfaddmin d a b e s
  | .vdadd d a b => Sys2Proof.Machine.execVdadd d a b s
  | .vdmul d a b => Sys2Proof.Machine.execVdmul d a b s
  | .vdfma d a b => Sys2Proof.Machine.execVdfma d a b s
  | .vcadd d a b => Sys2Proof.Machine.execVcadd d a b s
  | .vcmul d a b => Sys2Proof.Machine.execVcmul d a b s
  | .vcfma d a b => Sys2Proof.Machine.execVcfma d a b s
  | .vfdiv d a b fs => Sys2Proof.Machine.execVfdiv d a b fs s
  | .vfsqrt d a fs => Sys2Proof.Machine.execVfsqrt d a fs s
  | .vexp2 d a fs => Sys2Proof.Machine.execVexp2 d a fs s
  | .vlog2 d a fs => Sys2Proof.Machine.execVlog2 d a fs s
  | .vrcp d a fs => Sys2Proof.Machine.execVrcp d a fs s
  | .vrsq d a fs => Sys2Proof.Machine.execVrsq d a fs s
  | .vsinp d a fs => Sys2Proof.Machine.execVsinp d a fs s
  | .vcosp d a fs => Sys2Proof.Machine.execVcosp d a fs s
  | .vrng d a fs => Sys2Proof.Machine.execVrng d a fs s
  | .trnComplete id => Sys2Proof.Machine.execTrnComplete id s
  | .vshup d a b => Sys2Proof.Machine.execVshup d a b s
  | .vshdn d a b => Sys2Proof.Machine.execVshdn d a b s
  | .vrot d a b => Sys2Proof.Machine.execVrot d a b s
  | .vperm d a b => Sys2Proof.Machine.execVperm d a b s
  | .vbcast d a b => Sys2Proof.Machine.execVbcast d a b s
  | .vred o d a => Sys2Proof.Machine.execVred o d a s
  | .vscan o d a => Sys2Proof.Machine.execVscan o d a s
  | .vcvt dst src m d a => Sys2Proof.Machine.execVcvt dst src m d a s
  | .vpack dst src m d a => Sys2Proof.Machine.execVpack dst src m d a s
  | .vunpk dst src m d a => Sys2Proof.Machine.execVunpk dst src m d a s
  | .vqdbx blk d a => Sys2Proof.Machine.execVqdbx blk d a s
  | .vdqdbx blk d a => Sys2Proof.Machine.execVdqdbx blk d a s
  | .vcmp k d a b => Sys2Proof.Machine.execVcmp k d a b s
  | .vcmpu k d a b => Sys2Proof.Machine.execVcmpu k d a b s
  | .vfcmp k d a b => Sys2Proof.Machine.execVfcmp k d a b s
  | .vsel d a b => Sys2Proof.Machine.execVsel d a b s
  | .chk a => Sys2Proof.Machine.execChk a s
  | .chkScalar b => Sys2Proof.Machine.execChkScalar b s
  | .ptst d a => Sys2Proof.Machine.execPtst d a s
  | .trap code => Sys2Proof.Machine.execTrap code s
  | .dbrk => Sys2Proof.Machine.execDbrk s
  | .ld z d b o fs => Sys2Proof.Machine.execLd z d b o fs s
  | .ldSpec z d b o fs => Sys2Proof.Machine.execLdSpec z d b o fs s
  | .ldByp z d b o fs => Sys2Proof.Machine.execLdByp z d b o fs s
  | .ldAcqCore z d b o fs => Sys2Proof.Machine.execLdAcqCore z d b o fs s
  | .ldAcqQuad z d b o fs => Sys2Proof.Machine.execLdAcqQuad z d b o fs s
  | .ldAcqDie z d b o fs => Sys2Proof.Machine.execLdAcqDie z d b o fs s
  | .ldAcqPkg z d b o fs => Sys2Proof.Machine.execLdAcqPkg z d b o fs s
  | .ldAcqPod z d b o fs => Sys2Proof.Machine.execLdAcqPod z d b o fs s
  | .st z d b o fs => Sys2Proof.Machine.execSt z d b o fs s
  | .stRelCore z d b o fs => Sys2Proof.Machine.execStRelCore z d b o fs s
  | .stRelQuad z d b o fs => Sys2Proof.Machine.execStRelQuad z d b o fs s
  | .stRelDie z d b o fs => Sys2Proof.Machine.execStRelDie z d b o fs s
  | .stRelPkg z d b o fs => Sys2Proof.Machine.execStRelPkg z d b o fs s
  | .stRelPod z d b o fs => Sys2Proof.Machine.execStRelPod z d b o fs s
  | .ldp z d b o fs => Sys2Proof.Machine.execLdp z d b o fs s
  | .ldpSpec z d b o fs => Sys2Proof.Machine.execLdpSpec z d b o fs s
  | .stp z d b o fs => Sys2Proof.Machine.execStp z d b o fs s
  | .ldc z d b o fs => Sys2Proof.Machine.execLdc z d b o fs s
  | .loadComplete id => Sys2Proof.Machine.execLoadComplete id s
  | .storeAccepted id => Sys2Proof.Machine.execStoreAccepted id s
  | .atom op wide d b o fs => Sys2Proof.Machine.execAtom op wide d b o fs s
  | .atomp op wide d b o fs => Sys2Proof.Machine.execAtomp op wide d b o fs s
  | .red op wide d b o fs => Sys2Proof.Machine.execRed op wide d b o fs s
  | .atomicPerformed id => Sys2Proof.Machine.execAtomicPerformed id s
  | .redbv d b o => Sys2Proof.Machine.execRedbv d b o s
  | .ldtol k d b o fs => Sys2Proof.Machine.execLdtol k d b o fs s
  | .fence sem scope => Sys2Proof.Machine.execFence sem scope s
  | .cflush mem a b x => Sys2Proof.Machine.execCflush mem a b x s
  | .cinv mem a b x => Sys2Proof.Machine.execCinv mem a b x s
  | .walkerComplete id => Sys2Proof.Machine.execWalkerComplete id s
  | .pref l2 a b => Sys2Proof.Machine.execPref l2 a b s
  | .bari scope a x => Sys2Proof.Machine.execBari scope a x s
  | .bara scope a => Sys2Proof.Machine.execBara scope a s
  | .barw scope a x => Sys2Proof.Machine.execBarw scope a x s
  | .bar scope a => Sys2Proof.Machine.execBar scope a s
  | .bexp scope a x => Sys2Proof.Machine.execBexp scope a x s
  | .waitm a x => Sys2Proof.Machine.execWaitm a x s
  | .barrierObjectUpdate id => Sys2Proof.Machine.execBarrierObjectUpdate id s
  | .waitmWake sk => Sys2Proof.Machine.execWaitmWake sk s
  | .cpy q a b x => Sys2Proof.Machine.execCpy q a b x s
  | .cpySpl n b x => Sys2Proof.Machine.execCpySpl n b x s
  | .cpyg e a b x => Sys2Proof.Machine.execCpyg e a b x s
  | .seal a => Sys2Proof.Machine.execSeal a s
  | .waitb a => Sys2Proof.Machine.execWaitb a s
  | .splcfg n a => Sys2Proof.Machine.execSplcfg n a s
  | .splget n a => Sys2Proof.Machine.execSplget n a s
  | .splrel n => Sys2Proof.Machine.execSplrel n s
  | .copyComplete id => Sys2Proof.Machine.execCopyComplete id s
  | .copyFault id => Sys2Proof.Machine.execCopyFault id s
  | .mmatS d acc a b da db kk => Sys2Proof.Machine.execMmatS d acc a b da db kk s
  | .mmatPair d acc a b da db kk => Sys2Proof.Machine.execMmatPair d acc a b da db kk s
  | .mzero acc => Sys2Proof.Machine.execMzero acc s
  | .mload acc a fs => Sys2Proof.Machine.execMload acc a fs s
  | .mdrain fmt tgt acc d sc sp fs => Sys2Proof.Machine.execMdrain fmt tgt acc d sc sp fs s
  | .engineOpStart id => Sys2Proof.Machine.execEngineOpStart id s
  | .mmatBegin id => Sys2Proof.Machine.execMmatBegin id s
  | .mmatInterruptiblePoint id => Sys2Proof.Machine.execMmatInterruptiblePoint id s
  | .mmatComplete id => Sys2Proof.Machine.execMmatComplete id s
  | .mloadComplete id => Sys2Proof.Machine.execMloadComplete id s
  | .mdrainComplete id => Sys2Proof.Machine.execMdrainComplete id s
  | .fwait a => Sys2Proof.Machine.execFwait a s
  | .ftest d a => Sys2Proof.Machine.execFtest d a s
  | .fcancel a => Sys2Proof.Machine.execFcancel a s
  | .coll kind rop scope d a => Sys2Proof.Machine.execColl kind rop scope d a s
  | .cseal d a => Sys2Proof.Machine.execCseal d a s
  | .copen d a => Sys2Proof.Machine.execCopen d a s
  | .collComplete id => Sys2Proof.Machine.execCollComplete id s
  | .csealComplete id => Sys2Proof.Machine.execCsealComplete id s
  | .copenComplete id => Sys2Proof.Machine.execCopenComplete id s
  | .sysr x sel => Sys2Proof.Machine.execSysr x sel s
  | .sysw sel x => Sys2Proof.Machine.execSysw sel x s
  | .rft => Sys2Proof.Machine.execRft s
  | .xread x a sel => Sys2Proof.Machine.execXread x a sel s
  | .xwrite sel a x => Sys2Proof.Machine.execXwrite sel a x s
  | .xresumePc a x => Sys2Proof.Machine.execXresumePc a x s
  | .xresumeEntry a => Sys2Proof.Machine.execXresumeEntry a s
  | .skeinHalt sk => Sys2Proof.Machine.execSkeinHalt sk s
  | .trapSkeinStart core => Sys2Proof.Machine.execTrapSkeinStart core s
  | .skeinEnd sk => Sys2Proof.Machine.execSkeinEnd sk s
  | .breakpointFire sk gang => Sys2Proof.Machine.execBreakpointFire sk gang s
  | .walkComplete id => Sys2Proof.Machine.execWalkComplete id s
  | .faultResolutionPosted ctx page => Sys2Proof.Machine.execFaultResolutionPosted ctx page s
  | .faultRefusalPosted ctx page => Sys2Proof.Machine.execFaultRefusalPosted ctx page s
  | .scbEntryDrain core entry => Sys2Proof.Machine.execScbEntryDrain core entry s
  | .scbDrainTimeout core entry => Sys2Proof.Machine.execScbDrainTimeout core entry s
  | .guestUpdate die entry => Sys2Proof.Machine.execGuestUpdate die entry s
  | .holdingRequest id => Sys2Proof.Machine.execHoldingRequest id s
  | .baste id => Sys2Proof.Machine.execBaste id s
  | .basteAck id => Sys2Proof.Machine.execBasteAck id s
  | .boundedDrain id => Sys2Proof.Machine.execBoundedDrain id s
  | .drainAck id => Sys2Proof.Machine.execDrainAck id s
  | .ldtolRequest id => Sys2Proof.Machine.execLdtolRequest id s
  | .unpick id => Sys2Proof.Machine.execUnpick id s
  | .unpickAnswer id => Sys2Proof.Machine.execUnpickAnswer id s
  | .doorbell q tail => Sys2Proof.Machine.execDoorbell q tail s
  | .queueEnable q enable => Sys2Proof.Machine.execQueueEnable q enable s
  | .launchAccept q => Sys2Proof.Machine.execLaunchAccept q s
  | .launchDispatch seq => Sys2Proof.Machine.execLaunchDispatch seq s
  | .panelPlace seq core => Sys2Proof.Machine.execPanelPlace seq core s
  | .quantumCommit seq => Sys2Proof.Machine.execQuantumCommit seq s
  | .launchClose seq => Sys2Proof.Machine.execLaunchClose seq s
  | .preemptionRequest seq => Sys2Proof.Machine.execPreemptionRequest seq s
  | .tierOneDeadline ctx => Sys2Proof.Machine.execTierOneDeadline ctx s
  | .tierTwoDeadline ctx => Sys2Proof.Machine.execTierTwoDeadline ctx s
  | .collWaitDeadline ctx => Sys2Proof.Machine.execCollWaitDeadline ctx s
  | .restoreTimeout ctx => Sys2Proof.Machine.execRestoreTimeout ctx s
  | .watchdogExpiry seq => Sys2Proof.Machine.execWatchdogExpiry seq s
  | .hostAbort seq => Sys2Proof.Machine.execHostAbort seq s
  | .worldLatchChange core world => Sys2Proof.Machine.execWorldLatchChange core world s
  | .tableUpdate pa entry => Sys2Proof.Machine.execTableUpdate pa entry s
  | .shootdown ctx lo hi => Sys2Proof.Machine.execShootdown ctx lo hi s
  | .migrationGo engine => Sys2Proof.Machine.execMigrationGo engine s
  | .migrationComplete engine => Sys2Proof.Machine.execMigrationComplete engine s
  | .hostMemoryAccess acc => Sys2Proof.Machine.execHostMemoryAccess acc s
  | .foyerHostAccess acc => Sys2Proof.Machine.execFoyerHostAccess acc s
  | .patrolScrub sector find => Sys2Proof.Machine.execPatrolScrub sector find s
  | .registerWrite off val => Sys2Proof.Machine.execRegisterWrite off val s
  | .msixUnmask vec => Sys2Proof.Machine.execMsixUnmask vec s
  | .contextCreate ctx req => Sys2Proof.Machine.execContextCreate ctx req s
  | .contextDestroy ctx => Sys2Proof.Machine.execContextDestroy ctx s
  | .contextRestore ctx => Sys2Proof.Machine.execContextRestore ctx s
  | .contextQuery ctx => Sys2Proof.Machine.execContextQuery ctx s
  | .spdmRequest req => Sys2Proof.Machine.execSpdmRequest req s
  | .mlDsaCertChain off len => Sys2Proof.Machine.execMlDsaCertChain off len s
  | .mlDsaSignature => Sys2Proof.Machine.execMlDsaSignature s
  | .ideKm stream key => Sys2Proof.Machine.execIdeKm stream key s
  | .stitchLinkBringup link peerOk => Sys2Proof.Machine.execStitchLinkBringup link peerOk s
  | .laneDrop link => Sys2Proof.Machine.execLaneDrop link s
  | .linkDown link => Sys2Proof.Machine.execLinkDown link s
  | .podMessage msg => Sys2Proof.Machine.execPodMessage msg s
  | .heartbeat => Sys2Proof.Machine.execHeartbeat s
  | .packageLost node => Sys2Proof.Machine.execPackageLost node s
  | .coreFence core => Sys2Proof.Machine.execCoreFence core s
  | .hotReset => Sys2Proof.Machine.execHotReset s
  | .hostLinkDown => Sys2Proof.Machine.execHostLinkDown s
  | .linkDownTimeout => Sys2Proof.Machine.execLinkDownTimeout s
  | .quarantineLift => Sys2Proof.Machine.execQuarantineLift s
  | .powerOn ok => Sys2Proof.Machine.execPowerOn ok s
  | .vitOpen file => Sys2Proof.Machine.execVitOpen file s
  | .vitLpb file => Sys2Proof.Machine.execVitLpb file s
  | .vitData addr file => Sys2Proof.Machine.execVitData addr file s
  | .vitBreak loc core => Sys2Proof.Machine.execVitBreak loc core s
  | .vitBreakDel n core => Sys2Proof.Machine.execVitBreakDel n core s
  | .vitRun => Sys2Proof.Machine.execVitRun s
  | .vitContinue => Sys2Proof.Machine.execVitContinue s
  | .vitStep => Sys2Proof.Machine.execVitStep s
  | .vitSkein core panel idx => Sys2Proof.Machine.execVitSkein core panel idx s
  | .vitRegs rs => Sys2Proof.Machine.execVitRegs rs s
  | .vitSregs rs => Sys2Proof.Machine.execVitSregs rs s
  | .vitFlags => Sys2Proof.Machine.execVitFlags s
  | .vitSlices => Sys2Proof.Machine.execVitSlices s
  | .vitPattern => Sys2Proof.Machine.execVitPattern s
  | .vitPoison v => Sys2Proof.Machine.execVitPoison v s
  | .vitAccessions => Sys2Proof.Machine.execVitAccessions s
  | .vitCabinet => Sys2Proof.Machine.execVitCabinet s
  | .vitMem addr len => Sys2Proof.Machine.execVitMem addr len s
  | .vitScratch addr len => Sys2Proof.Machine.execVitScratch addr len s
  | .vitAcc n row c0 c1 => Sys2Proof.Machine.execVitAcc n row c0 c1 s
  | .vitTracker addr => Sys2Proof.Machine.execVitTracker addr s
  | .vitFuture r => Sys2Proof.Machine.execVitFuture r s
  | .vitBatch => Sys2Proof.Machine.execVitBatch s
  | .vitSpool n => Sys2Proof.Machine.execVitSpool n s
  | .vitWorld => Sys2Proof.Machine.execVitWorld s
  | .vitImage addr => Sys2Proof.Machine.execVitImage addr s
  | .holdingGrant id => Sys2Proof.Machine.execHoldingGrant id s
  | .passThroughAdd id => Sys2Proof.Machine.execPassThroughAdd id s
  | .ringHeadWrite ring head => Sys2Proof.Machine.execRingHeadWrite ring head s
  | .hostLinkRecovery => Sys2Proof.Machine.execHostLinkRecovery s
  | .pseudoChannelFailure die pc => Sys2Proof.Machine.execPseudoChannelFailure die pc s

end Sys2Proof.Machine
end

