-- ==== Sys2Proof/Machine/Sched.lean ====
section
/-! DEFINITION. Which acts the machine may take of itself (R10, R131, R323), what comes before an issue (R79, R276, R346),
and what one act does, over a given meaning `ex` of the rows of the table. -/

namespace Sys2Proof.Machine

/-! ### Issue -/

/-- A skein in deterministic mode that has retired its quantum issues nothing (R276), but for a gang that a halt request asks to
come to its packet boundary (R145). -/
def State.quantumHeld (s : State) (k g : Nat) : Bool :=
  let x := s.skein k
  let b := (s.launch (s.panel x.panel).launch).block
  b.dmode && k % 65 != trapSlot && ((x.cursor g).between || !x.haltReq) && decide (2 ^ b.qexp ≤ x.retired)
/-- A gang may take an issue step: it is there, its skein is not halted, no halt request stands at its packet boundary, it
does not wait at a `REGANG` or on a watched line that has not been written, and neither the debugger nor the quantum
holds it.  Other waits are looked at again by the step itself. -/
def State.mayIssue (s : State) (k g : Nat) : Bool :=
  match Tab.find? k s.skeins with
  | none => false
  | some x =>
    let c := x.cursor g
    !x.halted && !x.exiting && x.leaders.contains g && !(x.haltReq && c.between) && (!x.heldGang g || s.steps k g) &&
    !s.quantumHeld k g &&
    (match c.wait with
     | some .regang => false
     | some (.monitor _ _) => false
     | _ => true)

/-- The gang that `step` let issue stops again once its group has issued (R347); between packets that is a stop of R83. -/
def State.endStep (s : State) (k g : Nat) : State :=
  let s := { s with vit := { s.vit with stepping := none } }
  if s.hasSkein k && !(s.skein k).halted then
    let h := (s.skein k).gangOf g
    let s := s.modSkein k fun x => x.setCursor h { x.cursor h with stop := true }
    if ((s.skein k).cursor h).between then s.settleSkein k true else s
  else s

/-! ### Which skein and which gang issue (R127, R131, R323) -/

/-- The next issue group of the gang. -/
def Cursor.group? (c : Cursor) : Option (List PWord) := if c.phase == .running then c.todo.head? else none
/-- The machine as a gang's group would find it: the results of its skein that are due are visible (R79). -/
def State.asGang (s : State) (k g : Nat) : State :=
  let s := if (s.skein k).due then s.settleSkein k false else s
  { s with curCore := k / 65, curSlot := k % 65, curGang := g, groupId := s.nextId }
/-- A gang is ready: its next issue group is not held (R76, R323). -/
def State.readyGang (ex : Instr → State → Out) (s : State) (k g : Nat) : Bool :=
  s.mayIssue k g && (s.breakDue k g).isNone &&
  match ((s.skein k).cursor g).group? with
  | some ws =>
    match groupBlock (outcomes ex (s.asGang k g) ws) with
    | some o => !heldOut o
    | none => true
  | none => false
/-- Gangs take turns in ascending order after the one that issued last: how far away a gang's turn is (R131). -/
def Skein.turn (k : Skein) (g : Nat) : Nat := (g + 7 - k.lastGang % 8) % 8
/-- Another gang of the skein is ready and comes before this one (R131). -/
def State.gangFirst (ex : Instr → State → Out) (s : State) (k g : Nat) : Bool :=
  let x := s.skein k
  (x.leaders.filter fun h => decide (x.turn h < x.turn g)).any (s.readyGang ex k)

/-- The partition that a skein issues from (R317, R337). -/
def partition (k : Nat) : Nat := k % 65 % 4
/-- The other skeins of the partition that are ready. -/
def State.rivals (ex : Instr → State → Out) (s : State) (k : Nat) : List Nat :=
  (s.skeins.filter fun q => q.1 / 65 == k / 65 && partition q.1 == partition k && q.1 != k &&
    q.2.leaders.any (s.readyGang ex q.1)).map Prod.fst
/-- A panel's place in the order of placement on its core; the trap skein's comes before every other (R323, R337). -/
def State.placeOrder (s : State) (k : Nat) : List Nat :=
  if k % 65 = trapSlot then [] else
  let p := s.panel (s.skein k).panel
  [p.order + 1, p.launch, p.index]
def before (a b : List Nat) : Bool := decide (a < b)
/-- The first of a list by an order, the earlier where two are equal. -/
def bestBy (lt : Nat → Nat → Bool) : List Nat → Option Nat
  | [] => none
  | x :: t => some (t.foldl (fun a b => if lt b a then b else a) x)
/-- Cycles of its partition after which a ready skein is waiting-long (R323). -/
def longWait : Nat := 48
/-- The partition's choice among ready skeins (R323). -/
def State.chosen (s : State) (ks : List Nat) : Option Nat :=
  let ks := if ks.all fun k => (s.skein k).yielded then ks else ks.filter fun k => !(s.skein k).yielded
  let wait := fun k => (s.skein k).waited
  if ks.any fun k => decide (longWait ≤ wait k) then
    bestBy (fun a b => decide (wait b < wait a) || (wait a == wait b && decide (a < b))) ks
  else
    match bestBy (fun a b => before (s.placeOrder a) (s.placeOrder b)) ks with
    | none => none
    | some f =>
      let p := (s.skein f).panel
      let last := Tab.get 63 (s.panel p).lastSlots (partition f)
      let turn := fun k => (k % 65 + 127 - last) % 64
      bestBy (fun a b => decide (turn a < turn b)) (ks.filter fun k => s.placeOrder k == s.placeOrder f)
/-- A group of a skein has issued: its partition's ready skeins have waited one cycle more, and a `YIELD` of the cycle before
has had its effect (R127, R323). -/
def State.served (s : State) (k : Nat) (rivals : List Nat) : State :=
  let s := { s with skeins := s.skeins.map fun q =>
    if q.1 / 65 == k / 65 && partition q.1 == partition k then
      (q.1, if q.1 == k then { q.2 with waited := 0 }
        else { q.2 with waited := if rivals.contains q.1 then q.2.waited + 1 else 0, yielded := false })
    else q }
  if k % 65 = trapSlot || !s.hasSkein k then s
  else
    let p := (s.skein k).panel
    s.setPanel p { s.panel p with lastSlots := Tab.put (partition k) (k % 65) (s.panel p).lastSlots }

/-- A gang whose next issue group is not held issues it, in its turn; whatever else comes before an issue needs no turn.  An
issue out of turn changes nothing. -/
def issueTurn (ex : Instr → State → Out) (rft : State → State) (k g : Nat) (s : State) : Out :=
  let go := fun (s : State) => issueStep ex rft { s with curCore := k / 65, curSlot := k % 65, curGang := g }
  if !s.readyGang ex k g then
    match go s with
    | .next t => .next (if t.steps k g && (!t.hasSkein k || (t.skein k).halted) then t.endStep k g else t)
    | o => o
  else
    let rs := s.rivals ex k
    if s.gangFirst ex k g || (!rs.isEmpty && s.chosen (k :: rs) != some k) then .next s
    else
      match go s with
      | .next t =>
        let t := t.served k rs
        .next (if s.steps k g then t.endStep k g else t)
      | o => o
/-- The next issue step of a gang.  Results of its skein that are due become visible first (R79), and a breakpoint fires
before its packet issues (R346). -/
def runIssue (ex : Instr → State → Out) (rft : State → State) (core slot g : Nat) (s : State) : Out :=
  let k := skKey core slot
  if !s.mayIssue k g then .next s
  else
    let s := s.modSkein k fun x => { x with servedAt := Tab.put g s.tick x.servedAt }
    if (s.skein k).due then ex (.fixedResultVisible k) s
    else if (s.breakDue k g).isSome then ex (.breakpointFire k g) s
    else issueTurn ex rft k g s

/-! ### The moves of the machine itself -/

/-- A move of a list, by its place; where it is not there, nothing changes. -/
def pickMove (ms : List (State → Out)) (n : Nat) (s : State) : Out := match ms[n]? with | some f => f s | none => .next s
/-- What an operation in flight may do next. -/
def opMoves (id : Nat) (o : Op) : List (State → Out) :=
  match o.kind with
  | .load _ => [fun s => .next (s.readUpTo o.core id), execLoadComplete id]
  | .result true _ _ _ | .ldtol _ _ _ => [execLoadComplete id]
  | .result false _ _ _ => [execTrnComplete id]
  | .store => [execStoreAccepted id]
  | .write _ | .redbv _ => []
  | .atomic _ _ _ _ _ => [execAtomicPerformed id, fun s => .next (s.performAtomic id)]
  | .walker _ _ _ _ _ _ => [execWalkerComplete id]
  | .barrier _ _ _ _ => [execBarrierObjectUpdate id]
  | .copy _ _ _ _ _ _ _ _ _ | .gather _ _ _ _ _ => [fun s => .next (s.copyLine id), execCopyComplete id, execCopyFault id]
  | .mmat _ => [execMmatBegin id, execMmatInterruptiblePoint id, execMmatComplete id]
  | .mzero _ _ => [execEngineOpStart id]
  | .mload _ _ _ _ _ => [execEngineOpStart id, execMloadComplete id]
  | .mdrain _ _ _ _ _ _ _ _ _ _ => [execEngineOpStart id, execMdrainComplete id]
  | .coll _ => [execCollComplete id]
  | .cseal _ => [execCsealComplete id]
  | .copen _ => [execCopenComplete id]
/-- The arrival of a message of the bounded protocol. -/
def arrive (id : Nat) (m : BMsg) : State → Out :=
  match m.kind with
  | .request _ => execHoldingRequest id
  | .grant _ | .refuse => execHoldingGrant id
  | .baste => execBaste id
  | .basteAck => execBasteAck id
  | .drain _ _ _ => execBoundedDrain id
  | .drainAck => execDrainAck id
  | .pass _ _ _ _ => execPassThroughAdd id
  | .ldtol _ _ _ => execLdtolRequest id
  | .unpick => execUnpick id
  | .answer _ => execUnpickAnswer id
/-- What a skein may do besides issuing: results that become visible, its halt, its end, the end of its wait. -/
def skeinMoves (k : Nat) : List (State → Out) := [execFixedResultVisible k, execSkeinHalt k, execSkeinEnd k, execWaitmWake k]
/-- What a core may do: start its trap skein, drain its buffer, untag an entry of a full cabinet (R324). -/
def coreMoves (c : Nat) : List (State → Out) :=
  [execTrapSkeinStart c, execScbEntryDrain c 0, execScbDrainTimeout c 0, fun s => .next (s.untagOldest c)]
/-- What the Registrar and the curator may do for a launch: on the launch, on each core (R308, R317); the lowest core that is to be
re-latched comes first (R315). -/
def launchMoves (seq : Nat) (world : BitVec 8) : List (State → Out) :=
  [execLaunchDispatch seq, execPreemptionRequest seq, execQuantumCommit seq, execLaunchClose seq, execWatchdogExpiry seq] ++
  (List.range 256).map (execPanelPlace seq) ++
  (List.range 256).map fun c s => if (s.relatchFor seq).head? == some c then execWorldLatchChange c world s else .next s
/-- What may happen to a context: the steps of its save, and the deadlines of a pre-emption and of a restore. -/
def ctxMoves (ctx : Nat) : List (State → Out) :=
  [fun s => .next (s.ctxProgress ctx), execTierOneDeadline ctx, execTierTwoDeadline ctx, execCollWaitDeadline ctx,
    execRestoreTimeout ctx]

/-! ### Acts -/

/-- One act. -/
def runAct (ex : Instr → State → Out) (rft : State → State) (a : Act) (s : State) : Out :=
  match a with
  | .issue core slot g => runIssue ex rft core slot g s
  | .event i => ex i s
  | .op id n => match s.op id with | some o => pickMove (opMoves id o) n s | none => .next s
  | .skein k n => pickMove (skeinMoves k) n s
  | .core c n => pickMove (coreMoves c) n s
  | .launch seq n => pickMove (launchMoves seq (BitVec.ofNat 8 (s.launch seq).block.world)) n s
  | .context ctx n => pickMove (ctxMoves ctx) n s
  | .message id => match Tab.find? id s.mem.msgs with | some m => arrive id m s | none => .next s
  | .walk id => execWalkComplete id s
  | .guest die id => execGuestUpdate die id s
  | .evict die sector => .next (s.setMem (s.mem.evict die sector))
  | .accept q => execLaunchAccept q s
  | .migrated n => execMigrationComplete n s
  | .hostRead off => .next (s.hostRead off)
  | .driver i => .next (s.addImage i)
  | .nodeId n => .next (s.giveNode n)
  | .dieLink n lane => .next (s.dieLinkEvent n lane)

/-- The first `n` moves, each as an act. -/
def numbered (n : Nat) (f : Nat → Act) : List Act := (List.range n).map f
/-- The gangs that may take an issue step, each with its skein. -/
def State.issuing (s : State) : List (Nat × Nat) :=
  s.skeins.flatMap fun q => ((List.range 8).filter (s.mayIssue q.1)).map fun g => (q.1, g)
/-- The issue step of a gang. -/
def issueAct (q : Nat × Nat) : Act := .issue (q.1 / 65) (q.1 % 65) q.2
def State.issueActs (s : State) : List Act := s.issuing.map issueAct
/-- When a gang last took an issue step. -/
def State.lastServed (s : State) (q : Nat × Nat) : Nat := Tab.get 0 (s.skein q.1).servedAt q.2
/-- The gang that may issue and has been passed over longest, where that is `patience` steps or more; every other step is
left to the free choice, so that what is not an issue comes to its turn too (R131, R275; log 3). -/
def State.overdue (s : State) : Option Act :=
  if s.tick % 2 = 1 then none
  else
    match s.issuing with
    | [] => none
    | q :: t =>
      let old := t.foldl (fun a b => if s.lastServed b < s.lastServed a then b else a) q
      if s.lastServed old + Config.patience ≤ s.tick then some (issueAct old) else none
/-- A skein has something to do besides issuing. -/
def Skein.restless (x : Skein) : Bool := x.due || x.haltReq || x.exiting || x.gangs.any fun q => q.2.wait.isSome
/-- The acts of the machine itself that may come next; one whose conditions do not hold changes nothing (log 3).  What the
host, the fabric, the vitrine or an error brings comes with the schedule alone. -/
def State.acts (s : State) : List Act :=
  s.issueActs ++
  s.ops.flatMap (fun q => numbered (opMoves q.1 q.2).length (.op q.1)) ++
  s.mem.msgs.map (fun q => .message q.1) ++
  s.skeins.flatMap (fun q => if q.2.restless then numbered 4 (.skein q.1) else []) ++
  s.cores.flatMap (fun q =>
    if q.2.trapQ.isEmpty && q.2.scb.isEmpty && decide (q.2.cabinet.length < 512) then [] else numbered 4 (.core q.1)) ++
  s.walks.map (fun q => .walk q.1) ++
  s.mem.updates.map (fun u => .guest u.die u.id) ++
  s.mem.l2.map (fun q => .evict (dieOf (q.1 * 64)) q.1) ++
  s.mem.guest.map (fun q => .evict (q.1 % 4) (q.1 / 4)) ++
  (match s.nextQueue with | some q => [.accept q] | none => []) ++
  s.launches.flatMap (fun q => if q.2.live then numbered 517 (.launch q.1) else []) ++
  s.contexts.flatMap (fun q =>
    if q.2.life == .saving || q.2.life == .restoring || q.2.tierOne || q.2.collWait then numbered 5 (.context q.1) else []) ++
  ((s.host.mig.filter fun q => q.2.status == migBusy).map fun q => .migrated q.1)

end Sys2Proof.Machine
end

