-- ==== Sys2Proof/Machine/Step.lean ====
section
/-! DEFINITION. One step of the machine: the act that the schedule brings, or a free choice among the acts of the machine
itself (R10; log 3); and how a word comes to run from reset (log 8). -/

namespace Sys2Proof.Machine

/-- A step draws the next free values; the cycle counts of the dies and the watchdogs run on (Table 4.2, R344; log 4). -/
def State.pass (s : State) : State :=
  let t := { s with
    tick := s.tick + 1
    cycles := (List.range 4).foldl (fun t d => Tab.upd 0 d (· + Config.elapsed s.tick d) t) s.cycles }
  t.countWatchdogs (Config.elapsed s.tick 4)

/-- The act that comes next where the schedule brings none: that of a gang passed over too long, else a free choice (R10,
R275; log 3). -/
def State.nextAct (s : State) : Option Act :=
  match s.overdue with
  | some a => some a
  | none => s.acts[Config.choice s.tick % s.acts.length]?
/-- One step. -/
def step (s : State) : Host.Outcome State Fault Refusal :=
  match s.sched with
  | a :: rest => runAct exec State.returnTrap a { s.pass with sched := rest }
  | [] =>
    match s.nextAct with
    | some a => runAct exec State.returnTrap a s.pass
    | none => .next s.pass

/-- A panel of one skein on core 0, as placement leaves it, or its trap skein in progress. -/
def State.placed (s : State) (slot : Nat) : State :=
  let blk : Block := { Block.zero with version := 1, gx := 1, gy := 1, gz := 1, skeins := 1, scratch := 1, acc := 4 }
  let la : Launch := { Launch.none_ with block := blk, life := .running, placed := 1 }
  let pa : Panel := { Panel.none_ with
    launch := 1, slots := [0], accBase := [0, 1, 2, 3], scratchUnits := 1, life := .resident, skeinsLeft := [0] }
  let co := s.core 0
  let serving := if slot = trapSlot then some ⟨1, 0, 0, 0, 0, true⟩ else co.serving
  { s with
    launches := Tab.put 1 la s.launches
    panels := Tab.put 1 pa s.panels
    cores := Tab.put 0 { co with slots := [some 1, none, none, none], serving := serving } s.cores
    skeins := Tab.put (skKey 0 slot) (Skein.start 0 slot 1 0 0) s.skeins }

/-- The state with an instruction placed where the next step issues it: as the first word of a fetched clause of gang 0
of a skein on core 0, the trap skein for a privileged word; a header as the header of a fetched clause (log 8). -/
def State.withFetchWord (s : State) (_nbits w : Nat) : State :=
  let w0 : Word := BitVec.ofNat 32 w
  let w1 : Word := BitVec.ofNat 32 (w / 2 ^ 32)
  let slot := match decodeWord w0 w1 with | some (_, i) => if privileged i then trapSlot else 0 | none => 0
  let s := if s.hasSkein (skKey 0 slot) then s else s.placed slot
  let cur : Cursor :=
    if isHeader w0 then { Cursor.empty with phase := .fetched, packets := [[w0, w1, 0]], first := true }
    else { Cursor.empty with
      phase := .running, packets := [[fmtHeader 0 0xF 0xF 0 0, w0, w1]], first := true, slot := 1 }
  let k := (s.skein (skKey 0 slot)).setCursor 0 cur
  { s with
    sched := .issue 0 slot 0 :: s.sched
    curCore := 0
    curSlot := slot
    curGang := 0
    skeins := Tab.put (skKey 0 slot) k s.skeins }

end Sys2Proof.Machine
end

