-- ==== Sys2Proof/Safety.lean ====
section
/-! DEFINITION. The terms in which claims speak of runs: what counts as a safe run, the conditions under which a word does
not wait, and what a word leaves unchanged. -/

namespace Sys2Proof.Machine

/-! ### Safe runs -/

/-- An outcome that goes on. -/
def goesOn : Host.Outcome State Fault Refusal → Prop
  | .next _ => True
  | _ => False

/-- Every memory of the machine is in canonical form. -/
def State.memWf (s : State) : Prop :=
  s.mem.hbm.wf = true ∧ s.mem.foyer.wf = true ∧ s.mem.host.wf = true ∧ ∀ p ∈ s.panels, p.2.scratch.wf = true

/-- `em` and `pm` hold 32 bits, no poison and no future, and reserved bits of the status word read 0, in every skein (R17, R18,
Table 1.3). -/
def State.masksOk (s : State) : Prop :=
  ∀ q ∈ s.skeins, q.2.status &&& ~~~(0x1F0F : Dword) = 0 ∧
    ∀ r, r = 60 ∨ r = 61 → let x := Tab.get Scalar.zero q.2.s r
      x.poison = false ∧ x.pend = none ∧ x.val.toNat < 2 ^ 32

/-- The next `n` steps go on. -/
def safeFor : Nat → State → Prop
  | 0, _ => True
  | n + 1, s => ∃ t, step s = .next t ∧ safeFor n t

/-! ### A word does not wait (R19, R20, R181 to R183, R212) -/

/-- No scalar among `rs` is pending (R19). -/
def State.settled (s : State) (rs : List SReg) : Prop := ∀ r ∈ rs, (s.sreg r).pend = none
/-- No scalar among `rs` is poisoned. -/
def State.clean (s : State) (rs : List SReg) : Prop := ∀ r ∈ rs, (s.sreg r).poison = false
/-- The flag that the word counts on stands below 63 (R20). -/
def State.countable (s : State) (fs : Bool) : Prop := s.flagFull (s.flagOf fs) = false
/-- Every logged word of the skein has been replayed, every earlier copy of it is translated, and no earlier word of it can
raise FAULT any more (R181, R182). -/
def State.mayCommit (s : State) : Prop :=
  s.me.logged (fun _ => true) = false ∧
  s.ops.any (fun q => q.2.sk == s.curKey && !q.2.staged && (q.2.kind.mayFault || !s.copyOk q.2)) = false
/-- The operand log has an entry free, and no logged word holds this one up (R183, R186, R200). -/
def State.mayAccess (s : State) (writes : Bool) : Prop :=
  (∃ n, n < 4 ∧ (Tab.get LogEntry.free s.me.oplog n).valid = false) ∧
  s.me.logged (fun e => blocksLater e.instr) = false ∧
  s.ops.any (fun q => q.2.isExpect s.curKey || q.2.acquires s.curKey) = false ∧
  (writes = true → s.me.logged LogEntry.write = false)
/-- The engine queue of the core has room (R212). -/
def State.mayQueue (s : State) : Prop := s.mayCommit ∧ s.myCore.queue.length < queueSize
/-- Nothing of the skein is still to be accepted before a release (R188, R194). -/
def State.mayRelease (s : State) : Prop := s.ops.any (fun q => q.2.beforeRelease s.curKey) = false

/-! ### What a word leaves -/

/-- After a word that acts on its own skein alone: the skein is `k`; every other skein, panel, launch, context and core, every
byte of memory and the host's side stand as they were; of the core, at most its cabinet has changed (R35 to R40); and `new`
is the operation that it has put in flight, if any. -/
structure Issued (s t : State) (k : Skein) (new : Option Op) : Prop where
  me : t.me = k
  others : ∀ n, n ≠ s.curKey → t.skein n = s.skein n
  cores : ∀ c, c ≠ s.curCore → t.core c = s.core c
  mine : { t.myCore with cabinet := s.myCore.cabinet } = s.myCore
  ops : t.ops = (match new with | some o => Tab.put s.nextId o s.ops | none => s.ops)
  named : t.nextId = (if new.isSome then s.nextId + 1 else s.nextId)
  rest : { t with skeins := s.skeins, cores := s.cores, ops := s.ops, nextId := s.nextId } = s

/-- The same for a word that puts nothing in flight. -/
abbrev OnlySkein (s t : State) (k : Skein) : Prop := Issued s t k none

/-- The operation that the word at the current slot puts in flight. -/
def State.wordOp (s : State) (flag : Option Nat) (kind : OpKind) : Op :=
  ⟨s.curCore, s.curKey, s.me.panel, s.myPanel.launch, flag, kind, false, false, s.here, none, [], []⟩

/-- After a word that enters the engine queue of its core: the skein is `k`, the operation `o` is last in the queue under the
next name, and nothing else has changed (R212). -/
structure Queued (s t : State) (k : Skein) (o : Op) : Prop where
  me : t.me = k
  others : ∀ n, n ≠ s.curKey → t.skein n = s.skein n
  mine : t.myCore = { s.myCore with queue := s.myCore.queue ++ [s.nextId] }
  cores : ∀ c, c ≠ s.curCore → t.core c = s.core c
  ops : t.ops = Tab.put s.nextId o s.ops
  rest : { t with skeins := s.skeins, cores := s.cores, ops := s.ops, nextId := s.nextId } = s

/-- An operation with a handle has ended with a status: it is gone from its core's queue, and every scalar that was pending
on it holds the status, clean (R19, R228). -/
structure Resolved (s t : State) (id core : Nat) (st : Dword) : Prop where
  gone : t.op id = none
  queue : (t.core core).queue = (s.core core).queue.filter (· != id)
  scalars : ∀ n r, Tab.get Scalar.zero (t.skein n).s r =
    if (Tab.get Scalar.zero (s.skein n).s r).pend = some id then ⟨st, false, none⟩ else Tab.get Scalar.zero (s.skein n).s r
  lanes : ∀ n key, (t.skein n).lane key = (s.skein n).lane key

/-- The issuing skein with a result of the word at the current slot on its way. -/
def State.sent (s : State) (lat : Nat) (e : Effect) : Skein := s.me.pend s.cur.slot lat e
/-- The same with the sticky flags of the word. -/
def State.sends (s : State) (lat : Nat) (e : Effect) (fl : FpFlags) : Skein :=
  if fl = 0 then s.sent lat e else (s.sent lat e).pend s.cur.slot lat (.sticky fl)
/-- The same for lane writes, which may be none. -/
def State.sendsLanes (s : State) (lat : Nat) (ws : List (Nat × Lane)) (tag : Option Nat) (fl : FpFlags) : Skein :=
  if ws.isEmpty then (if fl = 0 then s.me else s.sent lat (.sticky fl)) else s.sends lat (.vec ws tag) fl

/-! ### Forms of claims: what a word of fixed latency comes to -/

/-- While no scalar of `ws` is pending, `i` goes on, the value `v` reaches scalar `d` and the flags `fl` the status word
`lat` issue cycles later, and nothing else changes; a poisoned value for `em` or `pm` is left to another claim (R18). -/
def GivesScalar (i : Instr) (lat : Nat) (d : SReg) (ws : List SReg) (v : State → Scalar) (fl : State → FpFlags) : Prop :=
  ∀ s : State, s.settled ws → ((v s).poison = true → d ≠ regEm ∧ d ≠ regPm) →
    ∃ t tag, exec i s = .next t ∧ OnlySkein s t (s.sends lat (.scalar d.toNat (v s) tag) (fl s))
/-- The same for lane writes. -/
def GivesLanes (i : Instr) (lat : Nat) (ws : List SReg) (w : State → List (Nat × Lane)) (fl : State → FpFlags) : Prop :=
  ∀ s : State, s.settled ws →
    ∃ t tag, exec i s = .next t ∧ OnlySkein s t (s.sendsLanes lat (w s) tag (fl s))

/-- A scalar word over two operands (R116). -/
def Scalar2 (i : SReg → SReg → SReg → Instr) (f : Dword → Dword → Dword) : Prop :=
  ∀ d a b, GivesScalar (i d a b) 2 d [d, a, b]
    (fun s => scalarResult [s.sreg a, s.sreg b] (f (s.sreg a).val (s.sreg b).val)) fun _ => 0
/-- A scalar word that reads its destination first. -/
def Scalar3 (i : SReg → SReg → SReg → Instr) (f : Dword → Dword → Dword → Dword) : Prop :=
  ∀ d a b, GivesScalar (i d a b) 2 d [d, a, b]
    (fun s => scalarResult [s.sreg d, s.sreg a, s.sreg b] (f (s.sreg d).val (s.sreg a).val (s.sreg b).val)) fun _ => 0
/-- A scalar word over one operand. -/
def Scalar1 (i : SReg → SReg → Instr) (f : Dword → Dword) : Prop :=
  ∀ d a, GivesScalar (i d a) 2 d [d, a] (fun s => scalarResult [s.sreg a] (f (s.sreg a).val)) fun _ => 0
/-- A scalar constant. -/
def ScalarConst (i : Instr) (d : SReg) (v : State → Dword) : Prop :=
  GivesScalar i 2 d [d] (fun s => ⟨v s, false, none⟩) fun _ => 0

/-- The selectors of Table 4.2 with their values. -/
def selectorTable : List (Nat × (State → Dword)) :=
  let n := fun (f : State → Nat) (s : State) => BitVec.ofNat 64 (f s)
  [(0x000, fun s => s.me.status), (0x001, n fun s => s.me.idx), (0x002, n fun s => s.myPanel.index),
    (0x003, n fun s => s.myPanel.x), (0x004, n fun s => s.myPanel.y), (0x005, n fun s => s.myPanel.z),
    (0x006, n fun s => s.curCore), (0x007, n fun s => s.myPanel.launch), (0x008, n fun s => s.myCore.world),
    (0x009, fun s => s.me.gangmap.setWidth 64), (0x00A, fun s => s.me.regionCount.setWidth 64),
    (0x00B, fun s => s.me.openBatch.num.setWidth 64), (0x00C, n fun s => Tab.get 0 s.cycles (coreDie s.curCore)),
    (0x040, n fun s => s.myLaunch.block.gx), (0x041, n fun s => s.myLaunch.block.gy), (0x042, n fun s => s.myLaunch.block.gz),
    (0x043, n fun s => s.myLaunch.block.skeins), (0x044, fun s => s.myLaunch.block.seed),
    (0x045, fun s => s.myLaunch.block.ctrbase), (0x046, n fun s => s.myLaunch.block.cbsize),
    (0x047, n fun s => 4096 * s.myLaunch.block.scratch), (0x048, n fun s => s.myLaunch.block.acc)]

/-- One lane of register field `d` for each active lane. -/
def State.each (s : State) (d : VReg) (g : Nat → Lane) : List (Nat × Lane) :=
  s.lanes.map fun l => (s.me.key d.toNat l, g l)
/-- Two registers for each active lane: a pair result. -/
def State.eachPair (s : State) (d : VReg) (g : Nat → Scalar) : List (Nat × Lane) :=
  s.lanes.flatMap fun l => s.pairWrites d.toNat l (g l)

/-- A lane-wise integer word over two operands (R150, R155). -/
def Vec2 (i : VReg → VReg → VSrc → Instr) (f : Word → Word → Word) : Prop :=
  ∀ d a b, GivesLanes (i d a b) 4 (scalarsOf b)
    (fun s => s.each d fun l => laneResult [s.vlane a l, s.vsrc b l] (f (s.vlane a l).val (s.vsrc b l).val)) fun _ => 0
/-- A lane-wise integer word over one operand. -/
def Vec1 (i : VReg → VReg → Instr) (f : Word → Word) : Prop :=
  ∀ d a, GivesLanes (i d a) 4 [] (fun s => s.each d fun l => laneResult [s.vlane a l] (f (s.vlane a l).val)) fun _ => 0

/-- An element function applied to each element of a lane, the lowest element in the lowest bits (R46). -/
def perElem (t : ElemTy) (f : (n : Nat) → BitVec n → BitVec n → BitVec n) (x y : Word) : Word :=
  match t with
  | .w => f 32 x y
  | .h2 => f 16 (x.extractLsb' 16 16) (y.extractLsb' 16 16) ++ f 16 (x.extractLsb' 0 16) (y.extractLsb' 0 16)
  | .b4 =>
    (f 8 (x.extractLsb' 24 8) (y.extractLsb' 24 8) ++ f 8 (x.extractLsb' 16 8) (y.extractLsb' 16 8)) ++
      (f 8 (x.extractLsb' 8 8) (y.extractLsb' 8 8) ++ f 8 (x.extractLsb' 0 8) (y.extractLsb' 0 8))

/-- A lane-wise floating word: value and flags of each active lane that is not poisoned (R151, R152). -/
def Fp1 (i : VReg → VReg → Instr) (f : Skein → Nat → Nat × FpFlags) : Prop :=
  ∀ d a, GivesLanes (i d a) 4 []
    (fun s => s.each d fun l => (laneF [s.vlane a l] (f s.me (s.vlane a l).val.toNat)).1)
    (fun s => orFlags (s.lanes.map fun l => (laneF [s.vlane a l] (f s.me (s.vlane a l).val.toNat)).2))
def Fp2 (i : VReg → VReg → VSrc → Instr) (f : Skein → Nat → Nat → Nat × FpFlags) : Prop :=
  ∀ d a b, GivesLanes (i d a b) 4 (scalarsOf b)
    (fun s => s.each d fun l =>
      (laneF [s.vlane a l, s.vsrc b l] (f s.me (s.vlane a l).val.toNat (s.vsrc b l).val.toNat)).1)
    (fun s => orFlags (s.lanes.map fun l =>
      (laneF [s.vlane a l, s.vsrc b l] (f s.me (s.vlane a l).val.toNat (s.vsrc b l).val.toNat)).2))
def Fp3 (i : VReg → VReg → VReg → VReg → Instr) (f : Skein → Nat → Nat → Nat → Nat × FpFlags) : Prop :=
  ∀ d a b e, GivesLanes (i d a b e) 4 []
    (fun s => s.each d fun l => (laneF [s.vlane a l, s.vlane b l, s.vlane e l]
      (f s.me (s.vlane a l).val.toNat (s.vlane b l).val.toNat (s.vlane e l).val.toNat)).1)
    (fun s => orFlags (s.lanes.map fun l => (laneF [s.vlane a l, s.vlane b l, s.vlane e l]
      (f s.me (s.vlane a l).val.toNat (s.vlane b l).val.toNat (s.vlane e l).val.toNat)).2))
/-- The same over pairs; a scalar operand gives all its 64 bits (R99, R161, R162). -/
def Dp2 (i : VReg → VReg → VSrc → Instr) (f : Skein → Nat → Nat → Nat × FpFlags) : Prop :=
  ∀ d a b, GivesLanes (i d a b) 4 (scalarsOf b)
    (fun s => s.eachPair d fun l =>
      (pairF [s.vpair a.toNat l, s.vpairSrc b l] (f s.me (s.vpair a.toNat l).val.toNat (s.vpairSrc b l).val.toNat)).1)
    (fun s => orFlags (s.lanes.map fun l =>
      (pairF [s.vpair a.toNat l, s.vpairSrc b l] (f s.me (s.vpair a.toNat l).val.toNat (s.vpairSrc b l).val.toNat)).2))
/-- The same with the destination as the first source. -/
def Dp3 (i : VReg → VReg → VSrc → Instr) (f : Skein → Nat → Nat → Nat → Nat × FpFlags) : Prop :=
  ∀ d a b, GivesLanes (i d a b) 4 (scalarsOf b)
    (fun s => s.eachPair d fun l => (pairF [s.vpair d.toNat l, s.vpair a.toNat l, s.vpairSrc b l]
      (f s.me (s.vpair d.toNat l).val.toNat (s.vpair a.toNat l).val.toNat (s.vpairSrc b l).val.toNat)).1)
    (fun s => orFlags (s.lanes.map fun l => (pairF [s.vpair d.toNat l, s.vpair a.toNat l, s.vpairSrc b l]
      (f s.me (s.vpair d.toNat l).val.toNat (s.vpair a.toNat l).val.toNat (s.vpairSrc b l).val.toNat)).2))

/-! ### Forms of claims: what a long-latency word comes to -/

/-- While no scalar of `ws` is pending and its flag stands below 63, `i` goes on: its flag rises by one, an operation of
kind `kind` is in flight, and nothing else changes (R84). -/
def GivesLater (i : Instr) (fs : Bool) (ws : List SReg) (kind : State → Option Nat → OpKind) : Prop :=
  ∀ s : State, s.settled ws → s.countable fs →
    ∃ t tag, exec i s = .next t ∧
      Issued s t (s.me.incFlag (s.flagOf fs)) (some (s.wordOp (s.flagOf fs) (kind s tag)))
/-- A word of major 0x09 over one operand (R163). -/
def Trn1 (i : VReg → VReg → Bool → Instr) (f : Skein → Num → Nat × FpFlags) : Prop :=
  ∀ d a fs, GivesLater (i d a fs) fs [] fun s tag =>
    let r := fun l => laneF [s.vlane a l] (f s.me (s.me.fin f32 (s.vlane a l).val.toNat))
    .result false (s.each d fun l => (r l).1) (orFlags (s.lanes.map fun l => (r l).2)) tag

/-! ### Forms of claims: control and traps -/

/-- The issuing gang's packet ends as `c` says; nothing else changes (R74). -/
def State.ends (s : State) (c : Ctl) : State := s.setCur { s.cur with ctl := some c }
/-- While the scalars of `ws` hold values, `i` ends its packet as `c` says (R19, R122). -/
def Transfers (i : Instr) (ws : List SReg) (c : State → Ctl) : Prop :=
  ∀ s : State, s.settled ws → s.clean ws → exec i s = .next (s.ends (c s))

/-- The issuing skein is there, is not halted, is no trap skein, and has a TRAPBASE. -/
def State.trappable (s : State) : Prop :=
  s.hasSkein s.curKey = true ∧ s.me.halted = false ∧ s.curSlot < 64 ∧ s.myLaunch.trapbase.isSome = true

/-- The issuing skein has taken a trap (R83, R115, R146, R330): it is halted with every slice that has not exited at `at_`,
every result that it had issued is visible, and the trap stands last in its core's queue with the fields of Table 4.6; no
other skein, no memory, panel or launch has changed. -/
structure TookTrap (s t : State) (cls code accn : Nat) (addr : Dword) (at_ : Pc) : Prop where
  halted : t.me.halted = true ∧ t.me.gangs = [] ∧ t.me.pending = []
  pcs : ∀ sl, sl < 8 → t.me.pcOf sl = if s.me.live sl then at_ else s.me.pcOf sl
  flushed : t.me.v = s.me.flush.v ∧ t.me.s = s.me.flush.s ∧ t.me.status = s.me.flush.status
  queued : ∃ r : TrapRec, t.myCore = { s.myCore with trapQ := s.myCore.trapQ ++ [r] } ∧
    r.panel = s.me.panel ∧ r.skein = s.me.idx ∧ r.addr = addr ∧ r.names = false ∧
    (r.pc.extractLsb' 0 53 = s.curPc ∧ (r.pc.extractLsb' 53 2).toNat = s.cur.slot % 4) ∧
    (r.cause.extractLsb' 0 4).toNat = cls ∧ (r.cause.extractLsb' 16 12).toNat = code ∧
    (r.cause.extractLsb' 32 5).toNat = s.me.idx % 32 ∧ (r.cause.extractLsb' 40 5).toNat = accn
  others : ∀ n, n ≠ s.curKey → t.skein n = s.skein n
  cores : ∀ c, c ≠ s.curCore → t.core c = s.core c
  rest : { t with skeins := s.skeins, cores := s.cores, ops := s.ops, sig := s.sig } = s

/-- `i` writes to scalar `d` a result that is poisoned where one of `srcs` is, the token being that of the first (R30, R116 to
R120). -/
def ScalarResultOf (i : Instr) (d : SReg) (srcs : List SReg) : Prop :=
  (∃ a b, srcs = [a, b] ∧ i ∈ [Instr.sadd d a b, .ssub d a b, .smul d a b, .smulh d a b, .smulhu d a b, .sdiv d a b, .sdivu d a b,
    .srem d a b, .sremu d a b, .sand d a b, .sor d a b, .sxor d a b, .sandn d a b, .sshl d a b, .sshr d a b, .ssra d a b,
    .smin d a b, .smax d a b, .sminu d a b, .smaxu d a b, .scmpEq d a b, .scmpNe d a b, .scmpLt d a b, .scmpLe d a b,
    .scmpLtu d a b, .scmpLeu d a b, .sbfe d a b]) ∨
  (∃ a b, srcs = [d, a, b] ∧ (i = .ssel d a b ∨ i = .sbfi d a b)) ∨
  (∃ a, srcs = [a] ∧ (i ∈ [Instr.smov d a, .spopc d a, .sclz d a, .sctz d a] ∨
    (∃ m, i ∈ [Instr.saddI d a m, .sandI d a m, .sorI d a m, .sxorI d a m, .scmpEqI d a m, .scmpNeI d a m, .scmpLtI d a m,
      .scmpLeI d a m, .scmpLtuI d a m, .scmpLeuI d a m]) ∨
    ∃ n, i ∈ [Instr.sshlI d a n, .sshrI d a n, .ssraI d a n]))

/-! ### Forms of claims: memory words -/

/-- A result without its lineage. -/
def Effect.plain : Effect → Effect
  | .vec ws _ => .vec ws none
  | .scalar r v _ => .scalar r v none
  | e => e
/-- A skein without the lineage of its registers and results and without the wake marks of its gangs: what a write of
another skein never changes (R33, R38, R202). -/
def Skein.plain (k : Skein) : Skein :=
  { k with
    vtag := []
    stag := []
    pending := k.pending.map fun p => { p with eff := p.eff.plain }
    gangs := k.gangs.map fun q => (q.1, { q.2 with woken := false }) }

/-- After a memory word of the issuing skein: that skein is `k` but for lineage, no other skein, launch or context and nothing
on the host's side has changed, and no panel has changed but for its scratchpad. -/
structure MemWord (s t : State) (k : Skein) : Prop where
  me : t.me.plain = k.plain
  others : ∀ n, n ≠ s.curKey → (t.skein n).plain = (s.skein n).plain
  panels : ∀ p, { t.panel p with scratch := (s.panel p).scratch } = s.panel p
  rest : { t with
      skeins := s.skeins
      cores := s.cores
      ops := s.ops
      mem := s.mem
      walks := s.walks
      nextId := s.nextId
      panels := s.panels } = s

/-- No byte of memory has changed: neither at its home, in a scratchpad, nor in the host. -/
def SameBytes (s t : State) : Prop :=
  (∀ pa, t.mem.homeByte pa = s.mem.homeByte pa) ∧ (∀ p off, (t.panel p).scratch.read off = (s.panel p).scratch.read off) ∧
    ∀ a, t.mem.host.read a = s.mem.host.read a

/-- A byte as the core's own loads find it at its home: what the core has buffered, or under quad-fused L1 its quad, else the
home (R265, R286). -/
def State.coreByte (s : State) (fused : Bool) (core pa : Nat) : Byte := (s.bufferedByte fused core pa).getD (s.mem.homeByte pa)
/-- Each sector stands at most once in the buffer of a core, or of its quad under quad-fused L1, its bytes in ascending places
below 64 (R285, R286). -/
def State.scbWf (s : State) (fused : Bool) (core : Nat) : Prop :=
  ((quadOf fused core).flatMap fun c => (s.core c).scb.map ScbEntry.sector).Nodup ∧
    ∀ c ∈ quadOf fused core, ∀ e ∈ (s.core c).scb, (e.bytes.map Prod.fst).Pairwise (· < ·) ∧ ∀ b ∈ e.bytes, b.1 < 64
/-- No sector is uncorrectable, and none stands under the tag of a world. -/
def State.noBad (s : State) : Prop :=
  s.mem.failedPc = [] ∧ s.mem.bad = [] ∧ (∀ p ∈ s.mem.l2, p.2.poisoned = false) ∧ s.mem.sealed = []
/-- A write meets no uncorrectable sector there, and none under the tag of another world (R289, R297). -/
def State.writable (s : State) (x : Xlat) : Prop :=
  isFoyer x.pa = true ∨ (s.mem.isBad (x.pa / 64) = false ∧ s.mem.tagFails x = false)
/-- The registers of a lane that a word of `n` bytes writes, each from a bit of the value on (R16). -/
def State.targets (s : State) (d : VReg) (n l : Nat) : List (Nat × Nat) :=
  if n = 8 then let (lo, hi) := s.me.pairRegs d.toNat l; [(laneKey lo l, 0), (laneKey hi l, 32)] else [(s.me.key d.toNat l, 0)]
/-- A lane of a load that needs no fill: its sector is of the foyer, or stands in the L2 where the load reads at the home, or in
the L1 where it does not. -/
def State.near (s : State) (o : Op) (l : LoadLane) : Prop :=
  isFoyer l.pa = true ∨ (l.home = true ∧ (Tab.find? (l.pa / 64) s.mem.l2).isSome = true) ∨
    (l.home = false ∧ (s.core (l1Home (s.fusedOf o.who) o.core l.pa)).l1Has (l.pa / 64) = true)

/-- The address of a lane: base plus offset modulo 2^64 (R177). -/
def State.laneAddr (s : State) (b : SReg) (o : Off) (n l : Nat) : Nat :=
  ((s.sreg b).val + offsetOf o n (match offVec o with | some v => (s.vlane v l).val | none => 0)).toNat
/-- The active lanes hold clean addresses, pass the checks of R383, and reach `x`; no atomic on their bytes is
outstanding (R265). -/
def State.laneReaches (s : State) (sp : Space) (need : Need) (n : Nat) (b : SReg) (o : Off) (x : Nat → Xlat) : Prop :=
  s.curSlot ≤ 64 ∧ ∀ l ∈ s.lanes, s.addrToken b (offVec o) l = none ∧
    s.checkLane s.who sp need n false (s.laneAddr b o n l) = .ok (x l) ∧
    ∀ q ∈ s.ops, q.2.core = s.curCore → q.2.touches (if sp = .pad then some s.me.panel else none) (x l).pa n = false

/-- The error ring has room, and no record waits for a quarantine to lift (R353, R367); context ids have 32 bits. -/
def State.canRecord (s : State) : Prop :=
  s.host.errRing.full = false ∧ s.memWf ∧ ∀ c ∈ s.contexts, c.2.quarantined = false ∧ c.1 < 2 ^ 32
/-- One record has been written, into the next place of the error ring under the next sequence number (R353, Table 13.2). -/
structure Recorded (s t : State) (cls unitkind unit launch : Nat) : Prop where
  ring : t.host.errRing = { s.host.errRing with tail := s.host.errRing.tail + 1 }
  seq : t.host.errseq = s.host.errseq + 1
  fields : let read := fun (off n : Nat) => leNat (t.mem.host.readN (s.host.errRing.slot 64 + off) n)
    read 0 8 = s.host.errseq.toNat ∧ read 8 1 = cls ∧ read 9 1 = unitkind ∧ read 10 2 = unit % 65536 ∧ read 14 2 = 1 ∧
      read 16 8 = launch % 2 ^ 64
/-- No copy of a sector in an L2 differs from the HBM unless it is dirty, none is poisoned, and each is whole (R287). -/
def State.l2Clean (s : State) : Prop :=
  (s.mem.l2.map Prod.fst).Pairwise (· < ·) ∧ ∀ p ∈ s.mem.l2, p.2.data.length = 64 ∧ p.2.poisoned = false ∧
    isFoyer (p.1 * 64) = false ∧
    (p.2.dirty = false → ∀ n, n < 64 → p.2.data.getD n 0 = s.mem.hbm.read (p.1 * 64 + n))
/-- No atomic and no barrier update is in flight. -/
def State.noUpdates (s : State) : Prop :=
  ∀ q ∈ s.ops, (∀ op wide red pad ls, q.2.kind ≠ .atomic op wide red pad ls) ∧ ∀ u p sc va, q.2.kind ≠ .barrier u p sc va

/-- The load words with their forms (Table 6.2). -/
def loadForms : List ((Size → VReg → SReg → Off → Bool → Instr) × LoadForm) :=
  [(.ld, ⟨.glob, false, false, none⟩), (.ldSpec, ⟨.glob, true, false, none⟩), (.ldByp, ⟨.glob, false, true, none⟩),
    (.ldAcqCore, ⟨.glob, false, false, some .core⟩), (.ldAcqQuad, ⟨.glob, false, false, some .quad⟩),
    (.ldAcqDie, ⟨.glob, false, false, some .die⟩), (.ldAcqPkg, ⟨.glob, false, false, some .pkg⟩),
    (.ldAcqPod, ⟨.glob, false, false, some .pod⟩), (.ldp, ⟨.pad, false, false, none⟩),
    (.ldpSpec, ⟨.pad, true, false, none⟩), (.ldc, ⟨.bank, false, false, none⟩)]
/-- The store words, with whether they go to the scratchpad and the scope of their release (R188, R264). -/
def storeForms : List ((Size → VReg → SReg → Off → Bool → Instr) × Bool × Option Scope) :=
  [(.st, false, none), (.stp, true, none), (.stRelCore, false, some .core), (.stRelQuad, false, some .quad),
    (.stRelDie, false, some .die), (.stRelPkg, false, some .pkg), (.stRelPod, false, some .pod)]

end Sys2Proof.Machine
end

