-- ==== Sys2Proof/Certificates/Slice0/Obligations.lean ====
section
/-! DEFINITION. The statements for the provers.  A statement `Obligations.X` that covers several families is the conjunction of
parts `Claim.Y`, each stated just above it. -/

section

open Sys2Proof Sys2Proof.Machine

/-! ### Scalar words -/

/-- R116, R117, Table 4.1: every register form other than division over its 64-bit sources, its result visible two issue
cycles later and nothing else changed, whatever `em` holds; a poisoned source gives the token of the first (R30). -/
def Claim.ScalarRegisterForms : Prop :=
  Scalar2 .sadd (fun a b => a + b) ∧ Scalar2 .ssub (fun a b => a - b) ∧ Scalar2 .smul (fun a b => a * b) ∧
  Scalar2 .smulh (fun a b => (a.signExtend 128 * b.signExtend 128).extractLsb' 64 64) ∧
  Scalar2 .smulhu (fun a b => (a.setWidth 128 * b.setWidth 128).extractLsb' 64 64) ∧
  Scalar2 .sand (fun a b => a &&& b) ∧ Scalar2 .sor (fun a b => a ||| b) ∧ Scalar2 .sxor (fun a b => a ^^^ b) ∧
  Scalar2 .sandn (fun a b => a &&& ~~~b) ∧
  Scalar2 .sshl (fun a b => a <<< (b.extractLsb' 0 6).toNat) ∧
  Scalar2 .sshr (fun a b => a >>> (b.extractLsb' 0 6).toNat) ∧
  Scalar2 .ssra (fun a b => a.sshiftRight (b.extractLsb' 0 6).toNat) ∧
  Scalar2 .smin (fun a b => if a.toInt ≤ b.toInt then a else b) ∧
  Scalar2 .smax (fun a b => if a.toInt ≤ b.toInt then b else a) ∧
  Scalar2 .sminu (fun a b => if a.toNat ≤ b.toNat then a else b) ∧
  Scalar2 .smaxu (fun a b => if a.toNat ≤ b.toNat then b else a) ∧
  Scalar2 .scmpEq (fun a b => if a.toInt = b.toInt then 1 else 0) ∧
  Scalar2 .scmpNe (fun a b => if a.toInt ≠ b.toInt then 1 else 0) ∧
  Scalar2 .scmpLt (fun a b => if a.toInt < b.toInt then 1 else 0) ∧
  Scalar2 .scmpLe (fun a b => if a.toInt ≤ b.toInt then 1 else 0) ∧
  Scalar2 .scmpLtu (fun a b => if a.toNat < b.toNat then 1 else 0) ∧
  Scalar2 .scmpLeu (fun a b => if a.toNat ≤ b.toNat then 1 else 0) ∧
  Scalar3 .ssel (fun d a b => if d ≠ 0 then a else b)

/-- Table 4.1: counts of bits, and bit fields with position b[5:0] and width min(b[14:8], 64), of which bits above 63 read
as 0 or are discarded. -/
def Claim.ScalarBitForms : Prop :=
  Scalar1 .spopc (fun a => a.cpop) ∧ Scalar1 .sclz (fun a => a.clz) ∧ Scalar1 .sctz (fun a => a.ctz) ∧
  Scalar2 .sbfe (fun a b =>
    (a >>> (b.extractLsb' 0 6).toNat) &&& (BitVec.allOnes 64 >>> (64 - min (b.extractLsb' 8 7).toNat 64))) ∧
  Scalar3 .sbfi (fun d a b =>
    let m : Dword := (BitVec.allOnes 64 >>> (64 - min (b.extractLsb' 8 7).toNat 64)) <<< (b.extractLsb' 0 6).toNat
    (d &&& ~~~m) ||| ((a <<< (b.extractLsb' 0 6).toNat) &&& m))

/-- R118, Table 4.1: quotients truncate towards zero and remainders take the dividend's sign; division by zero gives all
ones, and its remainder the dividend; −2^63 by −1 gives −2^63 and 0. -/
def Claim.ScalarDivision : Prop :=
  Scalar2 .sdiv (fun a b => if b = 0 then BitVec.allOnes 64 else a.sdiv b) ∧
  Scalar2 .sdivu (fun a b => if b = 0 then BitVec.allOnes 64 else a / b) ∧
  Scalar2 .srem (fun a b => if b = 0 then a else a - b * a.sdiv b) ∧
  Scalar2 .sremu (fun a b => if b = 0 then a else a - b * (a / b)) ∧
  (BitVec.intMin 64).sdiv (BitVec.allOnes 64) = BitVec.intMin 64 ∧
  decodeWord 0x04708304 0 = some (false, .smulhu 7 2 3) ∧ decodeWord 0x0851400C 0 = some (false, .saddI 5 5 (.short 0x00C))

/-- R116 to R118: the register forms of the scalar words, their bit counts and bit fields, and their divisions. -/
def Obligations.ScalarRegisterWords : Prop :=
  Claim.ScalarRegisterForms ∧ Claim.ScalarBitForms ∧ Claim.ScalarDivision

/-- R93, Table 3.8: the immediate forms take the immediate sign-extended, or zero-extended for the logical words, and shift
by the six bits of the field. -/
def Claim.ScalarImmediateForms : Prop :=
  (∀ i, Scalar1 (fun d a => .saddI d a i) (fun a => a + immSx i)) ∧
  (∀ i, Scalar1 (fun d a => .sandI d a i) (fun a => a &&& immZx i)) ∧
  (∀ i, Scalar1 (fun d a => .sorI d a i) (fun a => a ||| immZx i)) ∧
  (∀ i, Scalar1 (fun d a => .sxorI d a i) (fun a => a ^^^ immZx i)) ∧
  (∀ n, Scalar1 (fun d a => .sshlI d a n) (fun a => a <<< n)) ∧
  (∀ n, Scalar1 (fun d a => .sshrI d a n) (fun a => a >>> n)) ∧
  (∀ n, Scalar1 (fun d a => .ssraI d a n) (fun a => a.sshiftRight' n)) ∧
  (∀ i, Scalar1 (fun d a => .scmpEqI d a i) (fun a => if a.toInt = (immSx i).toInt then 1 else 0)) ∧
  (∀ i, Scalar1 (fun d a => .scmpNeI d a i) (fun a => if a.toInt ≠ (immSx i).toInt then 1 else 0)) ∧
  (∀ i, Scalar1 (fun d a => .scmpLtI d a i) (fun a => if a.toInt < (immSx i).toInt then 1 else 0)) ∧
  (∀ i, Scalar1 (fun d a => .scmpLeI d a i) (fun a => if a.toInt ≤ (immSx i).toInt then 1 else 0)) ∧
  (∀ i, Scalar1 (fun d a => .scmpLtuI d a i) (fun a => if a.toNat < (immSx i).toNat then 1 else 0)) ∧
  (∀ i, Scalar1 (fun d a => .scmpLeuI d a i) (fun a => if a.toNat ≤ (immSx i).toNat then 1 else 0))

/-- R119: `SMOVI` writes imm18 sign-extended, and `SLUI` imm18 × 2^46 with bits [45:0] zero; neither reads its
destination. -/
def Claim.ScalarConstants : Prop :=
  (∀ d i, ScalarConst (.smovi d i) d fun _ => i.signExtend 64) ∧
  (∀ d i, ScalarConst (.slui d i) d fun _ => i ++ (0 : BitVec 46))

/-- R120, R121, R21: `SMOV` copies data and poison, and where its source is pending the destination becomes pending on the
same operation; each selector of Table 4.2 decodes, and `SGET` of it gives the value of that table; `SPUT` of a clean scalar gives
the status word one issue cycle later. -/
def Claim.ScalarMovesAndSelectors : Prop :=
  (∀ d a, GivesScalar (.smov d a) 2 d [d] (fun s => s.sreg a) fun _ => 0) ∧
  (∀ (d : SReg) (n : Nat) (v : State → Dword), (n, v) ∈ selectorTable → ∃ sel,
    decodeWord (BitVec.ofNat 32 (0x0C080400 + d.toNat * 2 ^ 20 + n)) 0 = some (false, .sget d sel) ∧
    ScalarConst (.sget d sel) d v) ∧
  (∀ a s, State.settled s [a] → s.clean [a] →
    ∃ t, exec (.sput a) s = .next t ∧ OnlySkein s t (s.sent 1 (.status (s.sreg a).val)))

/-- R93, R119 to R121: the immediate forms, the constants, and the moves and selectors. -/
def Obligations.ScalarImmediatesAndMoves : Prop :=
  Claim.ScalarImmediateForms ∧ Claim.ScalarConstants ∧ Claim.ScalarMovesAndSelectors

/-! ### Vector words -/

/-- R155, Table 5.3: each element of each active lane of a register form, in the three packings; no other lane is written,
and a poisoned source lane gives its token. -/
def Claim.VectorIntegerForms : Prop :=
  (∀ t, Vec2 (.vadd t) (perElem t fun _ a b => a + b)) ∧
  (∀ t, Vec2 (.vsub t) (perElem t fun _ a b => a - b)) ∧
  (∀ t, Vec2 (.vmul t) (perElem t fun _ a b => a * b)) ∧
  (∀ t, Vec2 (.vmulh t) (perElem t fun n a b => (a.signExtend (2 * n) * b.signExtend (2 * n)).extractLsb' n n)) ∧
  (∀ t, Vec2 (.vmulhu t) (perElem t fun n a b => (a.setWidth (2 * n) * b.setWidth (2 * n)).extractLsb' n n)) ∧
  Vec2 .vand (fun a b => a &&& b) ∧ Vec2 .vor (fun a b => a ||| b) ∧ Vec2 .vxor (fun a b => a ^^^ b) ∧
  Vec2 .vandn (fun a b => a &&& ~~~b) ∧
  (∀ t, Vec2 (.vshl t) (perElem t fun n a b => a <<< (b.toNat % n))) ∧
  (∀ t, Vec2 (.vshr t) (perElem t fun n a b => a >>> (b.toNat % n))) ∧
  (∀ t, Vec2 (.vsra t) (perElem t fun n a b => a.sshiftRight (b.toNat % n))) ∧
  (∀ t, Vec2 (.vmin t) (perElem t fun _ a b => if a.toInt ≤ b.toInt then a else b)) ∧
  (∀ t, Vec2 (.vmax t) (perElem t fun _ a b => if a.toInt ≤ b.toInt then b else a)) ∧
  (∀ t, Vec2 (.vminu t) (perElem t fun _ a b => if a.toNat ≤ b.toNat then a else b)) ∧
  (∀ t, Vec2 (.vmaxu t) (perElem t fun _ a b => if a.toNat ≤ b.toNat then b else a)) ∧
  (∀ t, Vec2 (.vabsd t) (perElem t fun n a b => BitVec.ofNat n (a.toInt - b.toInt).natAbs)) ∧
  (∀ t, Vec2 (.vaddsat t) (perElem t fun n a b =>
    BitVec.ofInt n (max (-(2 ^ (n - 1))) (min (2 ^ (n - 1) - 1) (a.toInt + b.toInt))))) ∧
  (∀ t, Vec2 (.vsubsat t) (perElem t fun n a b =>
    BitVec.ofInt n (max (-(2 ^ (n - 1))) (min (2 ^ (n - 1) - 1) (a.toInt - b.toInt)))))

/-- R155, R156, Table 5.3: counts of bits and bit fields of a lane, moves, the lane number, constants. -/
def Claim.VectorBitsAndMoves : Prop :=
  (∀ t, Vec1 (.vpopc t) (fun x => perElem t (fun _ a _ => a.cpop) x 0)) ∧
  (∀ t, Vec1 (.vclz t) (fun x => perElem t (fun _ a _ => a.clz) x 0)) ∧
  Vec2 .vbfe (fun a b =>
    (a >>> (b.extractLsb' 0 5).toNat) &&& (BitVec.allOnes 32 >>> (32 - min (b.extractLsb' 8 6).toNat 32))) ∧
  (∀ d a b, GivesLanes (.vbfi d a b) 4 (scalarsOf b)
    (fun s => s.each d fun l =>
      let m : Word := (BitVec.allOnes 32 >>> (32 - min ((s.vsrc b l).val.extractLsb' 8 6).toNat 32)) <<<
        ((s.vsrc b l).val.extractLsb' 0 5).toNat
      laneResult [s.vlane d l, s.vlane a l, s.vsrc b l]
        (((s.vlane d l).val &&& ~~~m) ||| (((s.vlane a l).val <<< ((s.vsrc b l).val.extractLsb' 0 5).toNat) &&& m)))
    fun _ => 0) ∧
  (∀ d b, GivesLanes (.vmov d b) 4 (scalarsOf b) (fun s => s.each d (s.vsrc b)) fun _ => 0) ∧
  (∀ d, GivesLanes (.vidx d) 4 [] (fun s => s.each d fun l => ⟨BitVec.ofNat 32 l, false⟩) fun _ => 0) ∧
  (∀ d i, GivesLanes (.vmovi d i) 4 [] (fun s => s.each d fun _ => ⟨immSx32 i, false⟩) fun _ => 0)

/-- R155, Table 3.10: the immediate forms act on whole lanes, with the immediate sign-extended, or zero-extended for the
logical and unsigned words. -/
def Claim.VectorImmediateForms : Prop :=
  (∀ i, Vec1 (fun d a => .vaddI d a i) (fun a => a + immSx32 i)) ∧
  (∀ i, Vec1 (fun d a => .vmulI d a i) (fun a => a * immSx32 i)) ∧
  (∀ i, Vec1 (fun d a => .vandI d a i) (fun a => a &&& immZx32 i)) ∧
  (∀ i, Vec1 (fun d a => .vorI d a i) (fun a => a ||| immZx32 i)) ∧
  (∀ i, Vec1 (fun d a => .vxorI d a i) (fun a => a ^^^ immZx32 i)) ∧
  (∀ n, Vec1 (fun d a => .vshlI d a n) (fun a => a <<< n)) ∧
  (∀ n, Vec1 (fun d a => .vshrI d a n) (fun a => a >>> n)) ∧
  (∀ n, Vec1 (fun d a => .vsraI d a n) (fun a => a.sshiftRight' n)) ∧
  (∀ i, Vec1 (fun d a => .vminI d a i) (fun a => if a.toInt ≤ (immSx32 i).toInt then a else immSx32 i)) ∧
  (∀ i, Vec1 (fun d a => .vmaxI d a i) (fun a => if a.toInt ≤ (immSx32 i).toInt then immSx32 i else a)) ∧
  (∀ i, Vec1 (fun d a => .vminuI d a i) (fun a => if a.toNat ≤ (immZx32 i).toNat then a else immZx32 i)) ∧
  (∀ i, Vec1 (fun d a => .vmaxuI d a i) (fun a => if a.toNat ≤ (immZx32 i).toNat then immZx32 i else a))

/-- R155, R156: the lane-wise integer words, in their register and immediate forms. -/
def Obligations.VectorIntegerWords : Prop :=
  Claim.VectorIntegerForms ∧ Claim.VectorBitsAndMoves ∧ Claim.VectorImmediateForms

/-- R157, R158, Table 5.4: every binary32 word over two or one operands, its flags those of the active lanes that are not
poisoned. -/
def Claim.VectorFloatForms : Prop :=
  Fp2 .vfadd (fun k => k.f2 fpAdd) ∧ Fp2 .vfsub (fun k => k.f2 fpSub) ∧ Fp2 .vfmul (fun k => k.f2 fpMul) ∧
  Fp2 .vfmin (fun k => k.pick f32 fpMin) ∧ Fp2 .vfmax (fun k => k.pick f32 fpMax) ∧
  Fp1 .vfabs (fun _ x => (x % 2 ^ 31, 0)) ∧ Fp1 .vfneg (fun _ x => ((x + 2 ^ 31) % 2 ^ 32, 0)) ∧
  Fp1 .vfclass (fun _ x => (fclassOf x, 0)) ∧ Fp2 .vfscale (fun k => k.fscale) ∧ Fp1 .vfrint (fun k => k.frint)

/-- R159, R160, Table 5.5: the four-operand words; `VADDMIN` compares the exact sum with c once and saturates only below. -/
def Claim.VectorFourOperandForms : Prop :=
  Fp3 .vfma (fun k => k.fma false false) ∧ Fp3 .vfms (fun k => k.fma false true) ∧
  Fp3 .vfnma (fun k => k.fma true false) ∧ Fp3 .vmad (fun _ a b c => ((a * b + c) % 2 ^ 32, 0)) ∧
  Fp3 .vaddmin (fun _ a b c =>
    let m := min ((BitVec.ofNat 32 a).toInt + (BitVec.ofNat 32 b).toInt) (BitVec.ofNat 32 c).toInt
    ((BitVec.ofInt 32 (max (-(2 ^ 31)) m)).toNat, 0)) ∧
  Fp3 .vfaddmin (fun k => k.faddMin)

/-- R161, R162: binary64 and complex words over pairs; the destination is the addend of `VDFMA` and `VCFMA`. -/
def Claim.VectorPairForms : Prop :=
  Dp2 .vdadd (fun k => k.d2 fpAdd) ∧ Dp2 .vdmul (fun k => k.d2 fpMul) ∧
  Dp3 .vdfma (fun k z x y => fpDot (k.round f64) [(k.fin f64 x, k.fin f64 y)] (some (k.fin f64 z))) ∧
  Dp2 .vcadd (fun k x y =>
    cplxOf (fpAdd (k.round f32) (k.cplx x).1 (k.cplx y).1) (fpAdd (k.round f32) (k.cplx x).2 (k.cplx y).2)) ∧
  Dp2 .vcmul (fun k x y =>
    cplxOf (fpDot (k.round f32) [((k.cplx x).1, (k.cplx y).1), ((k.cplx x).2.negate, (k.cplx y).2)] none)
      (fpDot (k.round f32) [((k.cplx x).1, (k.cplx y).2), ((k.cplx x).2, (k.cplx y).1)] none)) ∧
  Dp3 .vcfma (fun k z x y =>
    cplxOf (fpDot (k.round f32) [((k.cplx x).1, (k.cplx y).1), ((k.cplx x).2.negate, (k.cplx y).2)] (some (k.cplx z).1))
      (fpDot (k.round f32) [((k.cplx x).1, (k.cplx y).2), ((k.cplx x).2, (k.cplx y).1)] (some (k.cplx z).2)))

/-- R157 to R162: the lane-wise floating words over one to three operands and over pairs. -/
def Obligations.VectorFloatWords : Prop :=
  Claim.VectorFloatForms ∧ Claim.VectorFourOperandForms ∧ Claim.VectorPairForms

/-- R163 to R166: every word of major 0x09 counts on its flag at issue, and its result over the lanes active then is in
flight; `VRNG` gives the random word of its lane's global index and draw number. -/
def Claim.LongLatencyArithmetic : Prop :=
  (∀ d a b fs, GivesLater (.vfdiv d a b fs) fs (scalarsOf b) fun s tag =>
    let r := fun l => laneF [s.vlane a l, s.vsrc b l] (s.me.f2 fpDiv (s.vlane a l).val.toNat (s.vsrc b l).val.toNat)
    .result false (s.each d fun l => (r l).1) (orFlags (s.lanes.map fun l => (r l).2)) tag) ∧
  Trn1 .vfsqrt (fun k => fpSqrt (k.round f32)) ∧ Trn1 .vexp2 (fun k => fnExp2 k.ftz) ∧
  Trn1 .vlog2 (fun k => fnLog2 k.ftz) ∧ Trn1 .vrcp (fun k => fnRcp k.ftz) ∧ Trn1 .vrsq (fun k => fnRsq k.ftz) ∧
  Trn1 .vsinp (fun k => fnTrig false k.ftz) ∧ Trn1 .vcosp (fun k => fnTrig true k.ftz) ∧
  (∀ d a fs, GivesLater (.vrng d a fs) fs [] fun s _ =>
    let g := fun l => s.myPanel.index * 1024 + s.me.idx * 32 + l
    let b := s.myLaunch.block
    .result false (s.each d fun l => if (s.vlane a l).poison then s.vlane a l
      else ⟨rngWord b.seed b.ctrbase (g l) ((s.vlane a l).val.toNat % 2 ^ 24), false⟩) 0 none)

/-- R84, R21: at the completion of a word of major 0x09, and at that of a load, its lanes reach the registers of its skein,
its sticky flags the status word, and its flag falls by one; every other skein and everything else stays. -/
def Claim.LongLatencyResultsArrive : Prop :=
  ∀ (s : State) (id : Nat) (o : Op) (load : Bool) (ws : List (Nat × Lane)) (fl : FpFlags) (tag : Option Nat) (k : Skein),
    s.op id = some o → o.kind = .result load ws fl tag → o.entry = none → Tab.find? o.sk s.skeins = some k →
    ∃ t, exec (if load then .loadComplete id else .trnComplete id) s = .next t ∧
      t.op id = none ∧ (∀ n, n ≠ id → t.op n = s.op n) ∧ (∀ n, n ≠ o.sk → t.skein n = s.skein n) ∧
      (∀ n, (t.skein o.sk).lane n = match ws.reverse.find? (fun w => w.1 == n && !o.lost.contains n) with
        | some w => w.2 | none => k.lane n) ∧
      (t.skein o.sk).status = k.status ||| (fl.setWidth 64 <<< 8) ∧
      (∀ n, (t.skein o.sk).flag n = if o.flag = some n then k.flag n - 1 else k.flag n) ∧
      { t.skein o.sk with v := k.v, vtag := k.vtag, status := k.status, f := k.f } = k ∧
      { t with skeins := s.skeins, ops := s.ops } = s

/-- R84, R188: at `STORE_ACCEPTED` the store's flag falls by one, and nothing else changes. -/
def Claim.StoreAcceptedLowersItsFlag : Prop :=
  ∀ (s : State) (id : Nat) (o : Op) (k : Skein), s.op id = some o → o.kind = .store → o.entry = none →
    Tab.find? o.sk s.skeins = some k →
    exec (.storeAccepted id) s = .next ((s.delOp id).setSkein o.sk (k.decFlag o.flag)) ∧
    ∀ n, (k.decFlag o.flag).flag n = if o.flag = some n then k.flag n - 1 else k.flag n

/-- R163 to R166, R84: the words of major 0x09 go in flight, and their results, those of loads, and the acceptance of a store
arrive. -/
def Obligations.LongLatencyWords : Prop :=
  Claim.LongLatencyArithmetic ∧ Claim.LongLatencyResultsArrive ∧ Claim.StoreAcceptedLowersItsFlag

/-- R167, R168, Table 5.6: lane shifts, permutation and broadcast, six issue cycles after issue; a lane that keeps or takes a
value keeps or takes its poison, and a poisoned count poisons every active lane. -/
def Claim.LaneMoves : Prop :=
  (∀ d a b, GivesLanes (.vshup d a b) 6 [b] (fun s => s.each d fun l =>
    let n := min (s.sreg b).val.toNat 32
    if (s.sreg b).poison then laneResult [s.vlane d l, (s.sreg b).toLane] 0
    else if n ≤ l then s.vlane a (l - n) else s.vlane d l) fun _ => 0) ∧
  (∀ d a b, GivesLanes (.vshdn d a b) 6 [b] (fun s => s.each d fun l =>
    let n := min (s.sreg b).val.toNat 32
    if (s.sreg b).poison then laneResult [s.vlane d l, (s.sreg b).toLane] 0
    else if l + n ≤ 31 then s.vlane a (l + n) else s.vlane d l) fun _ => 0) ∧
  (∀ d a b, GivesLanes (.vrot d a b) 6 [b] (fun s => s.each d fun l =>
    if (s.sreg b).poison then (s.sreg b).toLane
    else s.vlane a ((l + ((s.sreg b).val.extractLsb' 0 5).toNat) % 32)) fun _ => 0) ∧
  (∀ d a b, GivesLanes (.vperm d a b) 6 [] (fun s => s.each d fun l =>
    if (s.vlane b l).poison then s.vlane b l else s.vlane a ((s.vlane b l).val.extractLsb' 0 5).toNat) fun _ => 0) ∧
  (∀ d a b, GivesLanes (.vbcast d a b) 6 [b] (fun s => s.each d fun _ =>
    if (s.sreg b).poison then (s.sreg b).toLane else s.vlane a ((s.sreg b).val.extractLsb' 0 5).toNat) fun _ => 0)

/-- R169: `VRED` and `VSCAN` give each active lane what the trees of R60 give over the active lanes and the identity, or the
token of the lowest poisoned active lane combined; with a poisoned active lane no flag is set. -/
def Claim.LaneReductions : Prop :=
  ∀ (o : RedOp) (scan : Bool) (d a : VReg),
    let tree := fun (s : State) => s.treeIn o fun l => ((Tab.find? l (s.treeLanes o a)).getD Scalar.zero).val.toNat
    let res := fun (s : State) (l : Nat) => match firstToken (s.treeLanes o a) (if scan then l else 31) with
      | some t => (⟨t, true, none⟩ : Scalar)
      | none => ⟨BitVec.ofNat 64 (if scan then (scanTree (s.me.redStep o) (tree s)).1.getD l 0
          else (redTree (s.me.redStep o) (tree s)).1), false, none⟩
    GivesLanes (if scan then .vscan o d a else .vred o d a) 6 []
      (fun s => if o == .addd then s.eachPair d (res s) else s.each d fun l => (res s l).toLane)
      fun s => if s.lanes.isEmpty || (firstToken (s.treeLanes o a) 31).isSome then 0
        else if scan then (scanTree (s.me.redStep o) (tree s)).2 else (redTree (s.me.redStep o) (tree s)).2

/-- R167 to R169: words that move values between the lanes, or reduce them. -/
def Obligations.LaneWords : Prop :=
  Claim.LaneMoves ∧ Claim.LaneReductions

/-- R60, R169: the trees of the integer operations come to the plain sum, modulo 2^32, of the 32 values, and to their
conjunction, disjunction and exclusive or. -/
def Claim.IntegerTreesAreSums : Prop :=
  ∀ (k : Skein) (t : List Nat), t.length = 32 → (∀ x ∈ t, x < 2 ^ 32) →
    (redTree (k.redStep .add) t).1 = t.sum % 2 ^ 32 ∧
    (∀ l, l < 32 → (scanTree (k.redStep .add) t).1.getD l 0 = (t.take (l + 1)).sum % 2 ^ 32) ∧
    (redTree (k.redStep .and) t).1 = t.foldl (fun a b => a &&& b) (2 ^ 32 - 1) ∧
    (redTree (k.redStep .or) t).1 = t.foldl (fun a b => a ||| b) 0 ∧
    (redTree (k.redStep .xor) t).1 = t.foldl (fun a b => a ^^^ b) 0

/-- R61, R232: the sum of integers does not depend on the tree by which a collective combines it. -/
def Claim.IntegerCollectivesAreSums : Prop :=
  ∀ (det : Bool) (tick x : Nat) (vs : List Nat), (∀ v ∈ vs, v < 2 ^ 32) →
    collValue .addi det tick x vs = vs.sum % 2 ^ 32

/-- R60, R61: reductions of integers, over lanes or participants, do not depend on the order of combination. -/
def Obligations.IntegerReductionsAreSums : Prop :=
  Claim.IntegerTreesAreSums ∧ Claim.IntegerCollectivesAreSums

/-- R170, R171: conversion of one value a lane, packing and unpacking. -/
def Claim.Conversions : Prop :=
  (∀ dst src m d a, GivesLanes (.vcvt dst src m d a) 4 []
    (fun s =>
      let x := fun l => if src.width = 64 then s.vpair a.toNat l
        else ⟨(s.vlane a l).val.setWidth 64, (s.vlane a l).poison, none⟩
      if dst.width = 64 then s.eachPair d fun l => (pairF [x l] (s.me.convert dst src m (x l).val.toNat)).1
      else s.each d fun l => (laneF [(x l).toLane] (widen dst (s.me.convert dst src m (x l).val.toNat).1, 0)).1)
    (fun s =>
      let x := fun l => if src.width = 64 then s.vpair a.toNat l
        else ⟨(s.vlane a l).val.setWidth 64, (s.vlane a l).poison, none⟩
      orFlags (s.lanes.map fun l => if (x l).poison then 0 else (s.me.convert dst src m (x l).val.toNat).2))) ∧
  (∀ dst src m d a, GivesLanes (.vpack dst src m d a) 4 []
    (fun s => s.each d fun l =>
      let xs := (List.range (perLane dst)).map fun k => s.vlane (a + BitVec.ofNat 6 k) l
      laneResult xs (laneOf dst.width (xs.map fun x => (s.me.convert dst src m x.val.toNat).1)))
    (fun s => orFlags (s.lanes.map fun l =>
      let xs := (List.range (perLane dst)).map fun k => s.vlane (a + BitVec.ofNat 6 k) l
      if (firstLane xs).isSome then 0 else orFlags (xs.map fun x => (s.me.convert dst src m x.val.toNat).2)))) ∧
  (∀ dst src m d a, GivesLanes (.vunpk dst src m d a) 4 []
    (fun s => (List.range (perLane src)).flatMap fun k => s.lanes.map fun l =>
      (s.me.key (d.toNat + k) l, laneResult [s.vlane a l]
        (BitVec.ofNat 32 (s.me.convert dst src m (laneElem src.width (s.vlane a l).val k)).1)))
    (fun s => orFlags ((List.range (perLane src)).flatMap fun k => s.lanes.map fun l =>
      if (s.vlane a l).poison then 0 else (s.me.convert dst src m (laneElem src.width (s.vlane a l).val k)).2)))

/-- R172, R173: block quantisation over the active lanes, the others supplying +0, and decoding of a block with its scale. -/
def Claim.BlockWords : Prop :=
  (∀ blk d a, GivesLanes (.vqdbx blk d a) 4 []
    (fun s =>
      let q := quantise blk ((List.range 32).map fun l =>
        s.me.fin f32 (if l ∈ s.lanes then (s.vlane a l).val.toNat else 0))
      let r := fun w => laneResult (s.lanes.map (s.vlane a)) w
      s.lanes.flatMap fun l =>
        [(s.me.key d.toNat l, r ((blockLanes blk q).getD l 0)),
          (s.me.key (d.toNat + 1) l, r (BitVec.ofNat 32 (scaleWord blk q)))])
    (fun s =>
      let q := quantise blk ((List.range 32).map fun l =>
        s.me.fin f32 (if l ∈ s.lanes then (s.vlane a l).val.toNat else 0))
      if s.lanes.isEmpty || (firstLane (s.lanes.map (s.vlane a))).isSome then 0 else q.flags)) ∧
  (∀ blk d a, GivesLanes (.vdqdbx blk d a) 4 []
    (fun s => s.each d fun l =>
      let es := (List.range (blockBits blk)).map (s.vlane a)
      let sc := s.vlane (a + 1) 0
      (laneF (es ++ [sc]) ((s.me.round f32).deliver 0 (decodeElem blk
        (laneElem (blockBits blk) (s.vlane a (l * blockBits blk / 32)).val (l % (32 / blockBits blk)))
        (sc.val.toNat % 256) (sc.val.toNat / 256 % 256)))).1)
    (fun s => orFlags (s.lanes.map fun l =>
      let es := (List.range (blockBits blk)).map (s.vlane a)
      let sc := s.vlane (a + 1) 0
      (laneF (es ++ [sc]) ((s.me.round f32).deliver 0 (decodeElem blk
        (laneElem (blockBits blk) (s.vlane a (l * blockBits blk / 32)).val (l % (32 / blockBits blk)))
        (sc.val.toNat % 256) (sc.val.toNat / 256 % 256)))).2)))

/-- R170 to R173: conversions, and block quantisation. -/
def Obligations.ConversionsAndBlocks : Prop :=
  Claim.Conversions ∧ Claim.BlockWords

/-- R174, R175, R140: a comparison gives each active lane its bit and every other bit 0, or the token of the first poisoned
active lane; with no lane active it does nothing.  `VSEL` takes `va` where its selector's bit is 1; `PTST` gives the poison
bits of the active lanes. -/
def Obligations.CompareAndSelect : Prop :=
  (∀ (i : Instr) (d : SReg) (a : VReg) (b : VSrc) (f : State → Nat → Nat → Bool × FpFlags) (s : State),
    ((∃ k, i = .vcmp k d a b ∧ f = fun _ x y =>
        (condHolds k (BitVec.ofNat 32 x).toInt (BitVec.ofNat 32 y).toInt, 0)) ∨
      (∃ k, i = .vcmpu k d a b ∧ f = fun (_ : State) (x y : Nat) => (condHolds k x y, 0)) ∨
      (∃ k, i = .vfcmp k d a b ∧ f = fun s x y => fcondHolds k (s.me.fin f32 x) (s.me.fin f32 y))) →
    s.settled (d :: scalarsOf b) →
    let g := fun l => f s (s.vlane a l).val.toNat (s.vsrc b l).val.toNat
    let tok := firstLane (s.lanes.flatMap fun l => [s.vlane a l, s.vsrc b l])
    (tok.isSome → d ≠ regEm ∧ d ≠ regPm) →
    ∃ t tag v, exec i s = .next t ∧
      (s.lanes = [] → t = s) ∧
      (s.lanes ≠ [] → OnlySkein s t
        (s.sends 4 (.scalar d.toNat v tag) (if tok.isSome then 0 else orFlags (s.lanes.map fun l => (g l).2)))) ∧
      (∀ x, tok = some x → v = ⟨x.setWidth 64, true, none⟩) ∧
      (tok = none → v.poison = false ∧ v.pend = none ∧
        ∀ l, v.val.getLsbD l = (decide (l ∈ s.lanes) && (g l).1))) ∧
  (∀ d a b, GivesLanes (.vsel d a b) 4 [b] (fun s => s.each d fun l =>
    if (s.sreg b).poison then laneResult [s.vlane d l, s.vlane a l, (s.sreg b).toLane] 0
    else if (s.sreg b).val.getLsbD l then s.vlane a l else s.vlane d l) fun _ => 0) ∧
  (∀ (d : SReg) (a : VReg) (s : State), s.settled [d] →
    ∃ t tag v, exec (.ptst d a) s = .next t ∧ OnlySkein s t (s.sent 2 (.scalar d.toNat ⟨v, false, none⟩ tag)) ∧
      ∀ l, v.getLsbD l = (decide (l ∈ s.lanes) && (s.vlane a l).poison))

/-! ### Lineage -/

/-- R35, R36, R37, R38, R370: a constant, or a scalar sum, product or exclusive or of tagged scalars, that every lane of an
unparted gang issues outside a meld, binds to the entry of its key, or else enters the cabinet in the lowest free slot; any other
execution is untagged, and `zero` never maps to an entry.  A fence with an acquire untags every load-rooted entry,
  with the entries whose keys name one that goes,
and no register maps to an entry that has gone. -/
def Obligations.LineageTagsBindsAndUntags : Prop :=
  (∀ (i : Instr) (d : SReg) (srcs : List SReg) (s : State),
    ((∃ x, i = .smovi d x ∧ srcs = []) ∨ (∃ x, i = .slui d x ∧ srcs = []) ∨
      (∃ a b, (i = .sadd d a b ∨ i = .smul d a b ∨ i = .sxor d a b) ∧ srcs = [a, b])) →
    s.settled (d :: srcs) → s.clean srcs →
    let cab := (s.sweep s.curCore).myCore.cabinet
    let tags := srcs.map fun r => s.me.tagOf (.s r)
    let slot := s.myCore.slots.findIdx? (· == some s.myPanel.launch)
    let may := s.me.em = 0xFFFFFFFF ∧ s.me.gangMask s.curGang = 0xFF ∧ s.me.meldOpen = false ∧ none ∉ tags ∧ slot ≠ none
    let key : Key := ⟨s.me.keyOp i, tags.filterMap id, keyImm i, slot.getD 0, none⟩
    ∃ t v tag, exec i s = .next t ∧ v.poison = false ∧ t.me = s.sent 2 (.scalar d.toNat v tag) ∧
      (¬ may → tag = none ∧ t.myCore.cabinet = s.myCore.cabinet) ∧
      (may →
        (∀ q, List.find? (fun p => p.2.key == key) cab = some q →
          tag = (if d = regZero then none else some q.1) ∧ t.myCore.cabinet = Tab.put q.1 { q.2 with last := s.tick } cab) ∧
        ((∀ q ∈ cab, q.2.key ≠ key) →
          (∀ n, n < 512 → Tab.find? n cab = none → (∀ m, m < n → (Tab.find? m cab).isSome = true) →
            tag = (if d = regZero then none else some n) ∧ t.myCore.cabinet = Tab.put n ⟨key, i, [], 0, [], [], false,
              s.tick⟩ cab) ∧
          ((∀ n, n < 512 → (Tab.find? n cab).isSome = true) → tag = none ∧ t.myCore.cabinet = cab)))) ∧
  (∀ (sem : Sem) (sc : Scope) (s : State), sem ≠ .rel → s.curSlot ≤ 64 → s.mayCommit → s.mayAccess true →
    (sem = .ar → s.mayRelease) → (sem = .acq → s.ops.any (fun q => q.2.isRead s.curKey || q.2.walksFor s.curKey) = false) →
    ∃ t, exec (.fence sem sc) s = .next t ∧
      (let old := s.myCore.cabinet
       let new := t.myCore.cabinet
       let gone := fun (n : Nat) => (∃ q ∈ old, q.1 = n) ∧ ∀ q ∈ new, q.1 ≠ n
       (∀ q ∈ new, q ∈ old ∧ q.2.loadRooted = false ∧ ∀ m ∈ q.2.key.srcs, ¬ gone m) ∧
       (∀ q ∈ old, gone q.1 → ∃ p ∈ old, p.1 = q.1 ∧ (p.2.loadRooted = true ∨ ∃ m ∈ p.2.key.srcs, gone m)) ∧
       (∀ q ∈ old, q ∉ new → gone q.1) ∧
       ∀ q ∈ t.skeins, q.1 / 65 = s.curCore → (∀ r ∈ q.2.vtag, ¬ gone r.2) ∧ ∀ r ∈ q.2.stag, ¬ gone r.2))

/-! ### Control, checks and traps -/

/-- R69, R122, R123, Table 4.3: branches, calls and returns move the whole gang at the end of the packet, to the target or to
the packet after; `CALL` also leaves the packet after in `lr` two issue cycles later. -/
def Claim.UniformTransfers : Prop :=
  (∀ off, Transfers (.bra off) [] fun s => .move (s.curPc + off.signExtend 53)) ∧
  (∀ a off, Transfers (.bruZ a off) [a] fun s =>
    .move (if (s.sreg a).val = 0 then s.curPc + off.signExtend 53 else s.curPc + 1)) ∧
  (∀ a off, Transfers (.bruNz a off) [a] fun s =>
    .move (if (s.sreg a).val ≠ 0 then s.curPc + off.signExtend 53 else s.curPc + 1)) ∧
  (∀ a off, Transfers (.bruNeg a off) [a] fun s =>
    .move (if (s.sreg a).val.toInt < 0 then s.curPc + off.signExtend 53 else s.curPc + 1)) ∧
  (∀ a off, Transfers (.bruNneg a off) [a] fun s =>
    .move (if 0 ≤ (s.sreg a).val.toInt then s.curPc + off.signExtend 53 else s.curPc + 1)) ∧
  (∀ a off, Transfers (.brzm a off) [a] fun s =>
    .move (if (s.sreg a).val.setWidth 32 &&& s.me.gangLanes s.curGang = 0 then s.curPc + off.signExtend 53
      else s.curPc + 1)) ∧
  (∀ off s, State.settled s [regLr] → exec (.call off) s =
    .next ((s.pend 2 (.scalar 62 ⟨(s.curPc + 1).setWidth 64, false, none⟩ none)).ends
      (.move (s.curPc + off.signExtend 53)))) ∧
  Transfers .ret [regLr] (fun s => .move ((s.sreg regLr).val.setWidth 53)) ∧
  (∀ a, Transfers (.jmpi a) [a] fun s => .move ((s.sreg a).val.setWidth 53)) ∧
  Transfers .rft [] (fun _ => .endTrap)

/-- R123, R131: `BRUV` goes on at the next packet for an empty mask and takes the branch for the whole of `em` over the gang's
lanes; any other mask raises DIVERGE at the packet. -/
def Claim.BruvAgreesOrDiverges : Prop :=
  ∀ (a : SReg) (off : BitVec 15) (s : State), s.settled [a] → s.clean [a] →
    let m : Word := (s.sreg a).val.setWidth 32
    (m = 0 → exec (.bruv a off) s = .next (s.ends (.move (s.curPc + 1)))) ∧
    (m ≠ 0 → m = s.me.em &&& s.me.gangLanes s.curGang →
      exec (.bruv a off) s = .next (s.ends (.move (s.curPc + off.signExtend 53)))) ∧
    (m ≠ 0 → m ≠ s.me.em &&& s.me.gangLanes s.curGang → s.trappable →
      ∃ t, exec (.bruv a off) s = .next t ∧ TookTrap s t 5 8 31 0 s.curPc)

/-- R126, R127, R135, R91: `EXIT` ends the gang's slices at the end of its packet, `YIELD` marks the skein, `REGION` ends the
region, `NOP` does nothing. -/
def Claim.ExitYieldRegionNop : Prop :=
  (∀ s : State, exec .exit s = .next ((s.setMe { s.me with exitSlot := s.cur.slot }).ends .exit)) ∧
  (∀ s : State, exec .yield s = .next (s.setMe { s.me with yielded := true })) ∧
  (∀ s : State, exec .region s = .next (s.setCur { s.cur with region := true })) ∧
  (∀ s : State, exec .nop s = .next s) ∧
  (∀ (k : Skein) (g sl : Nat), sl < 8 → (k.cursor g).ctl = some .exit →
    let k' := k.endPacket g
    (k'.exited.getLsbD sl = (k.exited.getLsbD sl || (k.gangMask g).getLsbD sl)) ∧
    ((k.gangMask g).getLsbD sl = true → k'.pcOf sl = k.pcOf sl ∧ k'.gangOf sl = sl))

/-- R74, R122, R69, R22, R73: a packet ends once its last word has issued, and its control word takes effect then: none lets the
whole gang go on at the packet after, within the clause or at the next one; a move takes it to the target.  Every other gang
stays.  A packet that ends a region starts the next one there, and with it every result already issued is visible. -/
def Claim.PacketsEnd : Prop :=
  (∀ (rft : State → State) (s : State), s.hasSkein s.curKey = true →
    let k := s.me.endPacket s.curGang
    let t := s.packetDone rft
    (s.cur.todo ≠ [] → t = s) ∧
    (s.cur.todo = [] → s.cur.ctl = some .endTrap → t = rft s) ∧
    (s.cur.todo = [] → s.cur.ctl ≠ some .endTrap →
      (k.regionCount = s.me.regionCount → t.me = k) ∧
      (k.regionCount ≠ s.me.regionCount → { k.flush with oplog := t.me.oplog } = t.me) ∧
      (∀ n, n ≠ s.curKey → t.skein n = s.skein n) ∧ { t with skeins := s.skeins, ops := s.ops } = s)) ∧
  (∀ (k : Skein) (g sl : Nat) (c : Option Ctl) (tgt : Pc), (k.cursor g).ctl = c → sl < 8 →
    (c = none ∧ tgt = k.pcOf g + 1) ∨ c = some (.move tgt) →
    let k' := k.endPacket g
    (k'.pcOf sl = if (k.gangMask g).getLsbD sl then tgt else k.pcOf sl) ∧ k'.gangOf sl = k.gangOf sl ∧
    k'.exited = k.exited ∧ (∀ j, j ≠ g → k'.cursor j = k.cursor j) ∧
    (k'.cursor g = if c = none ∧ 1 < (k.cursor g).packets.length
      then { k.cursor g with
        packets := (k.cursor g).packets.tail, first := false, slot := 0, region := false, passed := false }
      else Cursor.empty) ∧
    (if (k.cursor g).region then k'.regionPc = tgt ∧ k'.regionCount = k.regionCount + 1
      else k'.regionPc = k.regionPc ∧ k'.regionCount = k.regionCount) ∧
    { k' with
      pc := k.pc
      gangs := k.gangs
      retired := k.retired
      regionPc := k.regionPc
      regionCount := k.regionCount
      regionRec := k.regionRec } = k)

/-- R122, R123, R126, R127, R135, R74, R22: the control words by which the whole gang goes on, moves or ends, and what the end
of their packet does. -/
def Obligations.ControlWordsMoveTheGang : Prop :=
  Claim.UniformTransfers ∧ Claim.BruvAgreesOrDiverges ∧ Claim.ExitYieldRegionNop ∧ Claim.PacketsEnd

/-- R124, R128, R132: `BRS` takes the slices with an eligible lane whose bit is 1, `SPLIT` those of its mask; a gang that agrees
moves whole, one that does not is parted, or inside an open meld raises PATTERN with code 4. -/
def Claim.PartingWords : Prop :=
  ∀ (i : Instr) (a : SReg) (s : State) (taken : BitVec 8) (tgt : Pc), s.settled [a] → s.clean [a] →
    ((∃ off, i = .brs a off ∧ tgt = s.curPc + off.signExtend 53 ∧ ∀ sl, sl < 8 → (taken.getLsbD sl = true ↔
        ∃ l, l / 4 = sl ∧ (s.sreg a).val.getLsbD l = true ∧ s.me.em.getLsbD l = true)) ∨
      (i = .split a ∧ tgt = s.curPc + 1 ∧ taken = (s.sreg a).val.setWidth 8)) →
    let all := s.me.gangMask s.curGang
    (all &&& taken = 0 → exec i s = .next (s.ends (.move (s.curPc + 1)))) ∧
    (all &&& taken ≠ 0 → all &&& taken = all → exec i s = .next (s.ends (.move tgt))) ∧
    (all &&& taken ≠ 0 → all &&& taken ≠ all → s.me.meldOpen = false → exec i s = .next (s.ends (.part taken tgt))) ∧
    (all &&& taken ≠ 0 → all &&& taken ≠ all → s.me.meldOpen = true → s.trappable →
      ∃ t, exec i s = .next t ∧ TookTrap s t 6 4 31 0 s.curPc)

/-- R14, R124, R128, R22: a parting, which comes at the end of its packet, leaves the gang's slices in two gangs, each under its
lowest slice, those taken at the target and the others at the packet after; every other slice stays, and no register changes.  A
region that the packet ends starts where the lowest slice goes. -/
def Claim.PartedGangs : Prop :=
  ∀ (k k' : Skein) (g : Nat) (taken : BitVec 8) (tgt next : Pc) (sl : Nat), sl < 8 →
    (k' = k.partGang g taken tgt next ∨
      (k' = k.endPacket g ∧ (k.cursor g).ctl = some (.part taken tgt) ∧ next = k.pcOf g + 1)) →
    let a := k.gangMask g &&& taken
    let b := k.gangMask g &&& ~~~taken
    (k'.pcOf sl = if a.getLsbD sl then tgt else if b.getLsbD sl then next else k.pcOf sl) ∧
    (k'.gangOf sl = if a.getLsbD sl then leadOf a else if b.getLsbD sl then leadOf b else k.gangOf sl) ∧
    (a ≠ 0 → k'.cursor (leadOf a) = Cursor.empty) ∧ (b ≠ 0 → k'.cursor (leadOf b) = Cursor.empty) ∧
    k'.v = k.v ∧ k'.s = k.s ∧ k'.exited = k.exited ∧
    (k' = k.endPacket g → (k.cursor g).ctl = some (.part taken tgt) → (k.cursor g).region = true →
      k'.regionCount = k.regionCount + 1 ∧
      k'.regionPc = if taken.getLsbD (leadOf (k.gangMask g)) then tgt else k.pcOf g + 1)

/-- R129: `REGANG` from a gang with a slice outside the mask raises DIVERGE; a gang that holds every slice of the mask that has
not exited goes on; any other waits at the end of its packet.  Once every slice of the mask that has not exited waits at a `REGANG` of the
same packet with the same mask, or is of the gang that ends its packet there,
  they go on as one gang at the packet after; until then
the gang stands waiting, and no other gang changes. -/
def Claim.RegangWord : Prop :=
  (∀ (k : Skein) (g : Nat) (m : BitVec 8), (k.cursor g).ctl = some (.regang m) →
    let set := m &&& ~~~k.exited
    let at_ := (k.pcOf g, m)
    let all := set ≠ 0 ∧ ∀ sl, sl < 8 → (set.getLsbD sl = true ↔
      k.inGang g sl = true ∨ ∃ q ∈ k.gangs, q.1 ≠ g ∧ q.2.arrivedAt = some at_ ∧ k.inGang q.1 sl = true)
    let k' := k.endPacket g
    (all → k'.cursor (leadOf set) = Cursor.empty ∧ (∀ q ∈ k'.gangs, q.2.arrivedAt ≠ some at_) ∧
      ∀ sl, sl < 8 → k'.pcOf sl = (if set.getLsbD sl then k.pcOf g + 1 else k.pcOf sl) ∧
        k'.gangOf sl = (if set.getLsbD sl then leadOf set else k.gangOf sl)) ∧
    (¬ all → (k'.cursor g).wait = some .regang ∧ (k'.cursor g).arrivedAt = some at_ ∧ k'.pc = k.pc ∧ k'.gangmap = k.gangmap ∧
      ∀ j, j ≠ g → k'.cursor j = k.cursor j) ∧
    k'.v = k.v ∧ k'.s = k.s ∧ k'.exited = k.exited) ∧
  ∀ (a : SReg) (s : State), s.settled [a] → s.clean [a] →
    let m : BitVec 8 := (s.sreg a).val.setWidth 8
    let all := s.me.gangMask s.curGang
    (all &&& ~~~m ≠ 0 → s.trappable → ∃ t, exec (.regang a) s = .next t ∧ TookTrap s t 5 8 31 0 s.curPc) ∧
    (all &&& ~~~m = 0 → m &&& ~~~s.me.exited = all → exec (.regang a) s = .next (s.ends (.move (s.curPc + 1)))) ∧
    (all &&& ~~~m = 0 → m &&& ~~~s.me.exited ≠ all → exec (.regang a) s = .next (s.ends (.regang m)))

/-- R122: a poisoned condition or target of any control word raises POISON with the scalar's code and accession index. -/
def Claim.PoisonedConditionsTrap : Prop :=
  ∀ (i : Instr) (a : SReg) (off : BitVec 15) (s : State),
    i ∈ [Instr.bruZ a off, .bruNz a off, .bruNeg a off, .bruNneg a off, .bruv a off, .brs a off, .brzm a off, .jmpi a, .split a,
      .regang a] ∨ (i = .ret ∧ a = regLr) →
    s.settled [a] → (s.sreg a).poison = true → s.trappable →
    ∃ t addr, exec i s = .next t ∧
      TookTrap s t 2 ((s.sreg a).val.extractLsb' 24 8).toNat ((s.sreg a).val.extractLsb' 19 5).toNat addr s.curPc

/-- R14, R124, R128, R129, R122: the words that part and join gangs, and the poisoned condition of any control word. -/
def Obligations.GangsPartAndJoin : Prop :=
  Claim.PartingWords ∧ Claim.PartedGangs ∧ Claim.RegangWord ∧ Claim.PoisonedConditionsTrap

/-- R132, R133: `MELD` makes its four checks in order; where all pass, `pm` takes [31:0] of `sa` two issue cycles later, and
words of later issue cycles are translated by the patterns of `sa`+1 and `sa`+2. -/
def Claim.MeldChecksInOrder : Prop :=
  ∀ (a : SReg) (s : State), s.settled [a, a + 1, a + 2] → s.mayCommit →
    let big := fun r : SReg => 5 < (s.sreg r).val.toNat / 2 ^ 60
    (s.me.meldOpen = true → s.trappable → ∃ t, exec (.meld a) s = .next t ∧ TookTrap s t 6 1 31 0 s.curPc) ∧
    (s.me.meldOpen = false → s.me.gangMask s.curGang ≠ 0xFF → s.trappable →
      ∃ t, exec (.meld a) s = .next t ∧ TookTrap s t 6 2 31 0 s.curPc) ∧
    (∀ tok, s.me.meldOpen = false → s.me.gangMask s.curGang = 0xFF → s.trappable →
      firstScalar [s.sreg a, s.sreg (a + 1), s.sreg (a + 2)] = some tok →
      ∃ t addr, exec (.meld a) s = .next t ∧
        TookTrap s t 2 (tok.extractLsb' 24 8).toNat (tok.extractLsb' 19 5).toNat addr s.curPc) ∧
    (s.me.meldOpen = false → s.me.gangMask s.curGang = 0xFF → s.clean [a, a + 1, a + 2] → big (a + 1) ∨ big (a + 2) →
      s.trappable → ∃ t, exec (.meld a) s = .next t ∧ TookTrap s t 6 3 31 0 s.curPc) ∧
    (s.me.meldOpen = false → s.me.gangMask s.curGang = 0xFF → s.clean [a, a + 1, a + 2] →
      ¬ big (a + 1) → ¬ big (a + 2) →
      exec (.meld a) s = .next (((s.pend 2 (.scalar 61 ⟨(s.sreg a).val, false, none⟩ none)).pend 1
        (.pattern true (s.sreg (a + 1)).val (s.sreg (a + 2)).val)).commit))

/-- R133, R134, R34: `MELDX` clears the open bit and both patterns for words of later issue cycles, and where no region is open it
changes neither; each ends the region (R136).  `VDROP` drops each register that it names, or inside a meld both of its
translations, which are then zero without poison or tag.  While the bit is 1 a field's register is the one that the
lowest-numbered matching pair of the lane's pattern gives, of at most five pairs, else itself (R26). -/
def Claim.MeldxAndVdrop : Prop :=
  (∀ s : State, s.mayCommit →
    exec .meldx s = .next (if s.me.meldOpen then (s.pend 1 (.pattern false 0 0)).commit else s.commit)) ∧
  (∀ (a b e d : VReg) (s : State), ∃ rs : List Nat,
    exec (.vdrop a b e d) s = .next (s.pendAll 1 (rs.map .drop)) ∧
    ∀ n, n ∈ rs ↔ ∃ r ∈ [a, b, e, d],
      if s.me.meldOpen then n = patFind s.me.patA r.toNat ∨ n = patFind s.me.patB r.toNat else n = r.toNat) ∧
  (∀ (k : Skein) (o : Bool) (pa pb : Dword),
    k.apply (.pattern o pa pb) = { k with meldOpen := o, patA := pa, patB := pb }) ∧
  (∀ (k : Skein) (r n : Nat), (k.apply (.drop r)).lane n = (if n / 32 = r then Lane.zero else k.lane n) ∧
    Tab.find? n (k.apply (.drop r)).vtag = (if n = r then none else Tab.find? n k.vtag)) ∧
  (∀ (k : Skein) (n l : Nat), k.meldOpen = false → k.trans n l = n) ∧
  (∀ (k : Skein) (n l : Nat), k.meldOpen = true →
    let p := if k.pm.getLsbD l then k.patB else k.patA
    let count := min (p.extractLsb' 60 4).toNat 5
    let hit := fun i => (p.extractLsb' (12 * i + 6) 6).toNat = n
    (∀ i, i < count → hit i → (∀ j, j < i → ¬ hit j) → k.trans n l = (p.extractLsb' (12 * i) 6).toNat) ∧
    ((∀ i, i < count → ¬ hit i) → k.trans n l = n))

/-- R132 to R134: how a melded region opens and closes. -/
def Obligations.MeldedRegions : Prop :=
  Claim.MeldChecksInOrder ∧ Claim.MeldxAndVdrop

/-- R115, R139, R141, R142, R146: `TRAP` raises TRAP with its code; `CHK` raises CHK with the code and accession index of its
scalar's token, or of the lowest active poisoned lane's, and else does nothing; `DBRK` does nothing without a debugger or
an active lane, and else stops the skein. -/
def Claim.ChecksAndTraps : Prop :=
  decodeWord 0x34002A02 0 = some (false, .trap 0x2A) ∧ decodeWord 0x34024000 0 = some (false, .chk 9) ∧
  (∀ (code : BitVec 12) (s : State), s.trappable →
    ∃ t, exec (.trap code) s = .next t ∧ TookTrap s t 4 code.toNat 31 0 s.curPc) ∧
  (∀ (a : VReg) (s : State), (∀ l ∈ s.lanes, (s.vlane a l).poison = false) → exec (.chk a) s = .next s) ∧
  (∀ (a : VReg) (s : State) (l : Nat), s.trappable → l ∈ s.lanes → (s.vlane a l).poison = true →
    (∀ j ∈ s.lanes, j < l → (s.vlane a j).poison = false) →
    ∃ t addr, exec (.chk a) s = .next t ∧
      TookTrap s t 3 ((s.vlane a l).val.extractLsb' 24 8).toNat ((s.vlane a l).val.extractLsb' 19 5).toNat addr s.curPc) ∧
  (∀ (b : SReg) (s : State), s.settled [b] → s.clean [b] → exec (.chkScalar b) s = .next s) ∧
  (∀ (b : SReg) (s : State), s.trappable → s.settled [b] → (s.sreg b).poison = true →
    ∃ t addr, exec (.chkScalar b) s = .next t ∧
      TookTrap s t 3 ((s.sreg b).val.extractLsb' 24 8).toNat ((s.sreg b).val.extractLsb' 19 5).toNat addr s.curPc) ∧
  (∀ s : State, (s.debugOn s.curKey = false ∨ s.lanes = []) → exec .dbrk s = .next s) ∧
  (∀ s : State, s.hasSkein s.curKey = true → s.debugOn s.curKey = true → s.lanes ≠ [] →
    ∃ t, exec .dbrk s = .next t ∧ t.me.stopped = true ∧ t.cur.stop = true ∧ t.me.v = s.me.v ∧ t.me.s = s.me.s ∧
      t.me.pc = s.me.pc ∧ t.mem = s.mem ∧ t.vit.out.length = s.vit.out.length + 1)

/-- R18, R121: a poisoned value for `em` or `pm`, of whatever word has it as its scalar result,
  raises POISON with that value's code
and index, and the register keeps its value; a poisoned operand of `SPUT` raises POISON and leaves the status word.  In the trap
skein a poisoned scalar that `XREAD` reads for `em` or `pm` ends it (R143), the register unchanged. -/
def Claim.PoisonNeverReachesMasks : Prop :=
  (∀ (i : Instr) (d : SReg) (srcs : List SReg) (s : State) (tok : Dword), ScalarResultOf i d srcs →
    (d = regEm ∨ d = regPm) → s.settled (d :: srcs) → s.trappable → firstScalar (srcs.map s.sreg) = some tok →
    ∃ t addr, exec i s = .next t ∧
      TookTrap s t 2 (tok.extractLsb' 24 8).toNat (tok.extractLsb' 19 5).toNat addr s.curPc) ∧
  (∀ (i : Instr) (d : SReg) (a : VReg) (b : VSrc) (s : State) (tok : Word),
    ((∃ k, i = .vcmp k d a b) ∨ (∃ k, i = .vcmpu k d a b) ∨ ∃ k, i = .vfcmp k d a b) →
    (d = regEm ∨ d = regPm) → s.settled (d :: scalarsOf b) → s.trappable →
    firstLane (s.lanes.flatMap fun l => [s.vlane a l, s.vsrc b l]) = some tok →
    ∃ t addr, exec i s = .next t ∧
      TookTrap s t 2 (tok.extractLsb' 24 8).toNat (tok.extractLsb' 19 5).toNat addr s.curPc) ∧
  (∀ (a : SReg) (s : State), s.settled [a] → s.trappable → (s.sreg a).poison = true →
    ∃ t addr, exec (.sput a) s = .next t ∧
      TookTrap s t 2 ((s.sreg a).val.extractLsb' 24 8).toNat ((s.sreg a).val.extractLsb' 19 5).toNat addr s.curPc) ∧
  (∀ (x a n : SReg) (s : State) (k : Nat), (x = regEm ∨ x = regPm) → s.settled [a, x] → s.curSlot = 64 →
    s.hasSkein s.curKey = true → s.me.halted = false → s.target? (s.sreg a).val = some k → k ≠ s.curKey →
    ((s.skein k).sreg n).poison = true → (s.context s.myCtx).life ≠ .restoring →
    ∃ t, exec (.xread x a (.s n)) s = .next t ∧ t.myCore.trapDead = true ∧ t.me.halted = true ∧
      t.me.sreg x = s.me.flush.sreg x)

/-- R139, R141, R142, R18: the words that check and trap, and poison that would reach a mask. -/
def Obligations.ChecksTrapsAndMasks : Prop :=
  Claim.ChecksAndTraps ∧ Claim.PoisonNeverReachesMasks

/-- R330, R143, R149: a trap with no TRAPBASE ends the launch ABORTED; the trap skein starts at the oldest queued trap, or after a
trap in it at the oldest of a save or a restore, with its cause, packet and address in the core's registers, every register at its
start value and its slices at TRAPBASE, the trap of a save once every skein of its panel is halted; with nothing to serve nothing
changes.  The end of the packet of an `RFT` leaves the queue as it is and ends the trap skein; skeins that it did not resume stay
halted. -/
def Obligations.TrapsAreServed : Prop :=
  (∀ (code : BitVec 12) (s : State), s.hasSkein s.curKey = true → s.me.halted = false → s.curSlot < 64 →
    s.myLaunch.trapbase = none →
    s.myLaunch.life = .running →
    ∃ t, exec (.trap code) s = .next t ∧ (t.launch s.myPanel.launch).status = .aborted ∧
      ((t.launch s.myPanel.launch).life = .ended ∨ (t.launch s.myPanel.launch).life = .recording)) ∧
  (∀ (core : Nat) (s : State), (s.core core).trapDead = false →
    (s.core core).serving ≠ none ∨ (s.core core).trapQ = [] → exec (.trapSkeinStart core) s = .next s) ∧
  (∀ (core : Nat) (s : State) (r : TrapRec),
    (if (s.core core).trapDead then (s.core core).trapQ.find? TrapRec.names = some r
      else (s.core core).serving = none ∧ (s.core core).trapQ.head? = some r) →
    (r.names = true → s.savingPanel r.panel = true → ∀ k ∈ s.panelSkeins r.panel, (s.skein k).halted = true) →
    (s.skein (skKey core 64)).logged (fun _ => true) = false →
    ∃ t, exec (.trapSkeinStart core) s = .next t ∧
      t.core core = { s.core core with
        trapQ := (s.core core).trapQ.erase r, serving := some r, trapDead := false, cause := r.cause, trapPc := r.pc,
          trapAddr := r.addr } ∧
      t.skein (skKey core 64) = Skein.start core 64 r.panel r.skein ((s.launch (s.panel r.panel).launch).trapbase.getD 0) ∧
      (∀ n, n ≠ skKey core 64 → t.skein n = s.skein n) ∧ t.mem = s.mem) ∧
  (∀ s : State, s.cur.todo = [] → s.cur.ctl = some .endTrap → (∀ r, s.myCore.serving = some r → r.names = false) →
    let t := s.packetDone State.returnTrap
    t.hasSkein (skKey s.curCore 64) = false ∧ t.myCore = { s.myCore with serving := none, trapDead := false } ∧
    (∀ n, n ≠ skKey s.curCore 64 → t.skein n = s.skein n) ∧ t.mem = s.mem)

/-! ### Memory words -/

/-- R177, R185, R186, R187, R278: a load of any form whose active lanes pass their checks counts on its flag and is in flight: it
has still to read each active lane at its address, for the registers of that lane,
  and no byte of memory changes.  In deterministic
mode it has read at issue: the bytes of the scratchpad, or those that the skein has staged in the quantum,
  else those at the home. -/
def Claim.LoadsGoInFlight : Prop :=
  ∀ q ∈ loadForms, ∀ (z : Size) (d : VReg) (b : SReg) (o : Off) (fs : Bool) (s : State) (x : Nat → Xlat),
    let i := q.1 z d b o fs
    let f := q.2
    let n := sizeBytes z
    let pad := if f.sp = .pad then some s.me.panel else none
    let lane := fun (l : Nat) => (⟨l, (x l).pa, pathOf f.byp (x l) == .home, s.targets d n l⟩ : LoadLane)
    let value := fun (l : Nat) => leNat ((List.range n).map fun k => match pad with
      | some p => (s.panel p).scratch.read ((x l).pa + k)
      | none => (s.stagedByte s.curKey ((x l).pa + k)).getD (s.mem.homeByte ((x l).pa + k)))
    s.settled [b] → s.countable fs → s.mayAccess false → (s.loadKey i f n b o).bind s.lookup = none →
    s.laneReaches f.sp needR n b o x →
    (f.sp = .pad ∨ ∀ l ∈ s.lanes, s.badAccess s.curCore (s.fusedOf s.who) (pathOf f.byp (x l)) (x l).pa = false ∧
      s.mem.tagFails (x l) = false ∧
      s.me.logged (fun e => e.write && e.lines.contains (s.placeOf s.who f.sp n (s.laneAddr b o n l) / 256)) = false) →
    ∃ t id r, exec i s = .next t ∧ t.op id = some (s.wordOp (s.flagOf fs) (.load r)) ∧
      r.pad = pad ∧ r.size = n ∧ r.acq = f.acq ∧
      (s.dmode s.who = false → r.todo = s.lanes.map lane ∧ r.got = []) ∧
      (s.dmode s.who = true → r.todo = [] ∧ r.got = s.lanes.flatMap fun l =>
        (s.targets d n l).map fun w => (w.1, ⟨BitVec.ofNat 32 (value l / 2 ^ w.2), false⟩)) ∧
      MemWord s t (s.me.incFlag (s.flagOf fs)) ∧ SameBytes s t

/-- R84, R185, R265, R186, R85: at `LOAD_COMPLETE` a load reads the lanes that it has not read, little-endian, the bytes that its
core has buffered first, then those of the scratchpad, the home or the core's L1, where they stand there; its values reach their
registers but where a later write has won, and its flag falls.  An acquiring load then finds no sector in its L1. -/
def Claim.LoadsReadAndComplete : Prop :=
  ∀ (s : State) (id : Nat) (o : Op) (r : LoadReq) (k : Skein),
    s.op id = some o → o.kind = .load r → o.entry = none → Tab.find? o.sk s.skeins = some k → s.dmode o.who = false →
    s.unread [o.core] id = (if r.todo = [] then [] else [id]) →
    (∀ l ∈ r.todo, l.pa % 64 + r.size ≤ 64 ∧ (r.pad = none → s.near o l)) →
    let f := s.fusedOf o.who
    let byte := fun (l : LoadLane) (a : Nat) => match r.pad with
      | some p => (s.panel p).scratch.read a
      | none => (s.bufferedByte f o.core a).getD
          (if l.home || isFoyer a then s.mem.homeByte a else (s.core (l1Home f o.core a)).l1Byte a)
    let value := fun (l : LoadLane) => leNat ((List.range r.size).map fun n => byte l (l.pa + n))
    let ws := r.got ++ r.todo.flatMap fun l =>
      l.keys.map fun w => (w.1, (⟨BitVec.ofNat 32 (value l / 2 ^ w.2), false⟩ : Lane))
    ∃ t, exec (.loadComplete id) s = .next t ∧ t.op id = none ∧
      (∀ n, (t.skein o.sk).lane n = match (ws.reverse.find? fun w => w.1 == n) with
        | some w => if n ∈ o.lost then k.lane n else w.2
        | none => k.lane n) ∧
      (∀ n, (t.skein o.sk).flag n = if o.flag = some n then k.flag n - 1 else k.flag n) ∧
      (t.skein o.sk).s = k.s ∧ (∀ a, t.mem.homeByte a = s.mem.homeByte a) ∧
      (r.acq ≠ none → ∀ c ∈ quadOf f o.core, ∀ sec, (t.core c).l1Has sec = false)

/-- R29, R32, R185: a speculative scratchpad load never faults: a lane outside the allotment takes a token of code 3, a
misaligned one of code 4, in each register of its result, with the index of the lowest free accession record. -/
def Claim.SpeculativeLanesTakeTokens : Prop :=
  ∀ (z : Size) (d : VReg) (b : SReg) (o : Off) (fs : Bool) (s : State),
    let n := sizeBytes z
    s.settled [b] → s.countable fs → s.mayAccess false →
    (s.loadKey (.ldpSpec z d b o fs) ⟨.pad, true, false, none⟩ n b o).bind s.lookup = none →
    (∀ l ∈ s.lanes, s.addrToken b (offVec o) l = none) →
    (∀ l ∈ s.lanes, s.laneAddr b o n l % n ≠ 0 ∨ s.myPanel.scratchUnits * 4096 < s.laneAddr b o n l + n) →
    ∃ t id r, exec (.ldpSpec z d b o fs) s = .next t ∧
      t.op id = some (s.wordOp (s.flagOf fs) (.load r)) ∧ r.todo = [] ∧ SameBytes s t ∧
      ∀ l ∈ s.lanes, ∀ w ∈ s.targets d n l,
        (w.1, ⟨token (if s.laneAddr b o n l % n ≠ 0 then 4 else 3) s.me.freeAccn, true⟩) ∈ r.got

/-- R185 to R187, R29, R84: loads whose lanes pass their checks, their reading and completion, and speculative ones whose lanes
do not. -/
def Obligations.LoadsIssue : Prop :=
  Claim.LoadsGoInFlight ∧ Claim.LoadsReadAndComplete ∧ Claim.SpeculativeLanesTakeTokens

/-- R182, R329, R383: a load or store with a lane that fails a check which the operand log does not hold raises FAULT with the
code and address of the lowest such lane, its slices at the packet after, and nothing of it is performed. -/
def Claim.AccessFaults : Prop :=
  ∀ (z : Size) (d : VReg) (b : SReg) (o : Off) (fs : Bool) (s : State) (l c : Nat) (store : Bool),
    let n := sizeBytes z
    let chk := fun j => s.checkLane s.who .glob (if store then needW else needR) n false (s.laneAddr b o n j)
    s.settled [b] → s.countable fs → s.mayAccess store → s.trappable →
    (∀ j ∈ s.lanes, s.addrToken b (offVec o) j = none) →
    (store = true → ∀ j ∈ s.lanes, s.dataToken d (z == .d) j = none) →
    (store = false → (s.loadKey (.ld z d b o fs) ⟨.glob, false, false, none⟩ n b o).bind s.lookup = none) → s.noBad →
    l ∈ s.lanes → chk l = .error c → c ≠ 1 → c ≠ 5 → c ≠ 6 → c < 4096 →
    (∀ j ∈ s.lanes, j < l → ∀ e, chk j = .error e → e = 1 ∨ e = 6) →
    ∃ t, exec (if store then .st z d b o fs else .ld z d b o fs) s = .next t ∧
      TookTrap s t 8 c 31 (BitVec.ofNat 64 (s.laneAddr b o n l)) (s.curPc + 1)

/-- R24, R183, R332, R334: a load whose lanes fail only for a page that is not placed, or that migrates, stands in the lowest free
entry of the operand log with the code and page of its lowest such lane, and its flag rises; nothing is read. -/
def Claim.PageFaultsAreLogged : Prop :=
  ∀ (z : Size) (d : VReg) (b : SReg) (o : Off) (fs : Bool) (s : State) (l c m : Nat),
    let n := sizeBytes z
    let chk := fun j => s.checkLane s.who .glob needR n false (s.laneAddr b o n j)
    s.settled [b] → s.countable fs → s.mayAccess false → s.hasSkein s.curKey = true →
    (∀ j ∈ s.lanes, s.addrToken b (offVec o) j = none) →
    (s.loadKey (.ld z d b o fs) ⟨.glob, false, false, none⟩ n b o).bind s.lookup = none → s.noBad →
    (∀ j ∈ s.lanes, ∀ e, chk j = .error e → e = 1 ∨ e = 6) →
    l ∈ s.lanes → chk l = .error c → (∀ j ∈ s.lanes, j < l → ∃ y, chk j = .ok y) →
    m < 4 → (Tab.get LogEntry.free s.me.oplog m).valid = false →
    (∀ j, j < m → (Tab.get LogEntry.free s.me.oplog j).valid = true) →
    ∃ t, exec (.ld z d b o fs) s = .next t ∧
      (let e := Tab.get LogEntry.free t.me.oplog m
       e.valid = true ∧ e.cont = false ∧ e.code.toNat = c ∧ e.pc = s.curPc ∧ e.instr = .ld z d b o fs ∧
         e.page = BitVec.ofNat 64 (s.laneAddr b o n l / 4096 * 4096) ∧
         ∀ j, j < 32 → e.mask.getLsbD j = decide (j ∈ s.lanes)) ∧
      (∀ j, t.me.flag j = if s.flagOf fs = some j then s.me.flag j + 1 else s.me.flag j) ∧
      t.me.v = s.me.v ∧ t.me.s = s.me.s ∧ (∀ k, k ≠ s.curKey → t.skein k = s.skein k) ∧
      ∀ pa, t.mem.homeByte pa = s.mem.homeByte pa

/-- R182, R183: an access that fails a check, and one that meets a page fault. -/
def Obligations.AccessesFault : Prop :=
  Claim.AccessFaults ∧ Claim.PageFaultsAreLogged

/-- R177, R188, R265, R285: a store whose active lanes pass their checks counts on its flag, and its core then finds each
stored byte, the highest-numbered lane's where lanes overlap, and every other byte as before; one with a release first
drains what the core has buffered, and ends the region. -/
def Claim.StoresReachTheirBytes : Prop :=
  ∀ q ∈ storeForms, ∀ (z : Size) (d : VReg) (b : SReg) (o : Off) (fs : Bool) (s : State) (x : Nat → Xlat),
    let n := sizeBytes z
    let pad := q.2.1
    let sp : Space := if pad then .pad else .glob
    let f := s.fusedOf s.who
    let bs := s.lanes.flatMap fun l =>
      (List.range n).map fun k => ((x l).pa + k, BitVec.ofNat 8 ((s.dataOf d (z == .d) l).toNat / 256 ^ k))
    let r := match q.2.2 with | some sc => s.release s.curCore sc | none => s
    s.settled [b] → s.countable fs → s.mayAccess true → (q.2.2 ≠ none → s.mayCommit ∧ s.mayRelease) →
    r.laneReaches sp needW n b o x → (pad = true ∨ ∀ l ∈ s.lanes, r.writable (x l)) →
    (∀ l ∈ s.lanes, s.dataToken d (z == .d) l = none) → s.dmode s.who = false → s.memWf → s.l2Clean →
    s.scbWf f s.curCore → r.unread (quadOf f s.curCore) r.nextId = [] →
    ∃ t id, exec (q.1 z d b o fs) s = .next t ∧ t.op id = some (s.wordOp (s.flagOf fs) .store) ∧
      MemWord s t ((if q.2.2 = none then s.me else s.commit.me).incFlag (s.flagOf fs)) ∧
      (∀ pa, t.coreByte f s.curCore pa = if pad then s.coreByte f s.curCore pa
        else match bs.reverse.find? (fun w => w.1 == pa) with | some w => w.2 | none => s.coreByte f s.curCore pa) ∧
      (∀ p off, (t.panel p).scratch.read off = if pad = true ∧ p = s.me.panel
        then match bs.reverse.find? (fun w => w.1 == off) with | some w => w.2 | none => (s.panel p).scratch.read off
        else (s.panel p).scratch.read off) ∧
      ∀ a, t.mem.host.read a = s.mem.host.read a

/-- R277, R278: in deterministic mode a global store changes no byte of memory: it stages its bytes to the quantum's commit. -/
def Claim.DeterministicStoresAreStaged : Prop :=
  ∀ (z : Size) (d : VReg) (b : SReg) (o : Off) (fs : Bool) (s : State) (x : Nat → Xlat),
    let n := sizeBytes z
    s.settled [b] → s.countable fs → s.mayAccess true → s.laneReaches .glob needW n b o x →
    (∀ l ∈ s.lanes, s.writable (x l)) → (∀ l ∈ s.lanes, s.dataToken d (z == .d) l = none) → s.dmode s.who = true →
    ∃ t id o', exec (.st z d b o fs) s = .next t ∧ SameBytes s t ∧ (∀ c, (t.core c).scb = (s.core c).scb) ∧
      t.op id = some o' ∧ o'.sk = s.curKey ∧ o'.staged = true ∧
      o'.kind = .write (s.lanes.flatMap fun l => (List.range n).map fun k =>
        ((x l).pa + k, BitVec.ofNat 8 ((s.dataOf d (z == .d) l).toNat / 256 ^ k)))

/-- R188, R277: stores, outside and in deterministic mode. -/
def Obligations.StoresPerform : Prop :=
  Claim.StoresReachTheirBytes ∧ Claim.DeterministicStoresAreStaged

/-- R189, R190: an atomic whose active lanes pass their checks ends the region, counts on its flag and is in flight with its
lanes' addresses; it writes no byte before `ATOMIC_PERFORMED`. -/
def Claim.AtomicsGoInFlight : Prop :=
  ∀ (op : AtomOp) (wide : Bool) (d : VReg) (b : SReg) (o : VReg) (fs pad red : Bool) (s : State) (x : Nat → Xlat),
    let i : Instr := if pad then .atomp op wide d b o fs else if red then .red op wide d b o fs else .atom op wide d b o fs
    let n := atomBytes wide
    (pad = true → red = false) → s.curSlot ≤ 64 → s.settled [b] → s.countable fs → s.mayCommit → s.mayAccess true →
    (∀ l ∈ s.lanes, s.addrToken b (some o) l = none ∧ s.atomToken op wide d l = none ∧
      s.checkLane s.who (if pad then .pad else .glob) needRW n false (s.laneAddr b (.vec o) n l) = .ok (x l) ∧
      (pad = true ∨ (s.badAccess s.curCore (s.fusedOf s.who) .home (x l).pa = false ∧ s.mem.tagFails (x l) = false))) →
    ∃ t id o' ls, exec i s = .next t ∧ t.op id = some o' ∧ o'.sk = s.curKey ∧
      o'.kind = .atomic op wide red (if pad then some s.me.panel else none) ls ∧
      ls.map AtomLane.lane = s.lanes ∧ (∀ a ∈ ls, a.addr = (x a.lane).pa) ∧
      MemWord s t (s.commit.me.incFlag (s.flagOf fs)) ∧ ∀ p off, (t.panel p).scratch.read off = (s.panel p).scratch.read off

/-- R189, Table of R189's operations: at `ATOMIC_PERFORMED` an atomic of one lane on a scratchpad gives its lane the old value,
but where a later write has won (R85), and writes the new one there, and only there; its flag falls. -/
def Claim.AtomicPerformedOnce : Prop :=
  ∀ (s : State) (id : Nat) (o : Op) (op : AtomOp) (p : Nat) (a : AtomLane) (k : Skein),
    s.op id = some o → o.kind = .atomic op false false (some p) [a] → o.staged = false → s.oldestUpdate id o = true →
    o.entry = none → Tab.find? o.sk s.skeins = some k → a.hi = none → s.memWf →
    let old := leNat ((s.panel p).scratch.readN a.addr 4)
    let new := match op with
      | .add => (old + a.x.toNat) % 2 ^ 32
      | .and => old &&& a.x.toNat
      | .or => old ||| a.x.toNat
      | .xor => old ^^^ a.x.toNat
      | .xchg => a.x.toNat
      | .cas => if old = a.x.toNat then a.x2.toNat else old
      | .minu => min old a.x.toNat
      | .maxu => max old a.x.toNat
      | _ => atomNew op false old a.x.toNat a.x2.toNat
    ∃ t, exec (.atomicPerformed id) s = .next t ∧ t.op id = none ∧
      (∀ off, (t.panel p).scratch.read off = if a.addr ≤ off ∧ off < a.addr + 4
        then BitVec.ofNat 8 (new / 256 ^ (off - a.addr)) else (s.panel p).scratch.read off) ∧
      (∀ q, q ≠ p → t.panel q = s.panel q) ∧ t.mem = s.mem ∧
      (t.skein o.sk).lane a.lo = (if a.lo ∈ o.lost then k.lane a.lo else ⟨BitVec.ofNat 32 old, false⟩) ∧
      (∀ n, n ≠ a.lo → (t.skein o.sk).lane n = k.lane n) ∧
      ∀ n, (t.skein o.sk).flag n = if o.flag = some n then k.flag n - 1 else k.flag n

/-- R189, R190: atomics at issue, and when they are performed. -/
def Obligations.AtomicsPerform : Prop :=
  Claim.AtomicsGoInFlight ∧ Claim.AtomicPerformedOnce

/-! ### Bounded words and their protocol -/

/-- R191, R193: `REDBV` is untracked and ends the region, `LDTOL` counts on its flag; both go on where each active lane passes
its checks and no earlier addition of the skein to the sectors read is still to be accepted.  Neither writes memory. -/
def Claim.BoundedWordsGoOn : Prop :=
  (∀ (d : VReg) (b : SReg) (o : VReg) (s : State) (x : Nat → Xlat),
    s.curSlot ≤ 64 → s.settled [b] → s.mayCommit → s.mayAccess true →
    (∀ l ∈ s.lanes, s.addrToken b (some o) l = none ∧ s.dataToken d false l = none ∧
      s.checkLane s.who .glob needRW 4 true (s.laneAddr b (.vec o) 4 l) = .ok (x l) ∧ isFoyer (x l).pa = false ∧
      s.badAccess s.curCore (s.fusedOf s.who) .home (x l).pa = false ∧ s.mem.tagFails (x l) = false) →
    (∀ q ∈ s.ops, ∀ as, q.2.kind = .redbv as → q.2.entry = none ∧ q.2.flag = none) →
    ∃ t, exec (.redbv d b o) s = .next t ∧ MemWord s t s.commit.me ∧ SameBytes s t ∧ t.me.f = s.me.f) ∧
  (∀ (k : BitVec 6) (d : VReg) (b : SReg) (o : VReg) (fs : Bool) (s : State) (x : Nat → Xlat),
    s.curSlot ≤ 64 → s.settled [b, b + 1] → s.clean [b + 1] → s.countable fs → s.mayAccess false →
    (∀ l ∈ s.lanes, s.addrToken b (some o) l = none ∧
      s.checkLane s.who .glob needR 4 true (s.laneAddr b (.vec o) 4 l) = .ok (x l) ∧
      s.badAccess s.curCore (s.fusedOf s.who) .home (x l).pa = false ∧ s.mem.tagFails (x l) = false ∧
      s.me.logged (fun e => e.write && e.lines.contains (s.laneAddr b (.vec o) 4 l / 256)) = false ∧
      ∀ q ∈ s.ops, q.2.core = s.curCore → q.2.touches none (x l).pa 4 = false) →
    s.addsPending s.curKey (s.lanes.map fun l => (x l).pa / 64) = false →
    ∃ t, exec (.ldtol k d b o fs) s = .next t ∧ MemWord s t (s.me.incFlag (s.flagOf fs)) ∧ SameBytes s t)

/-- R290: a message of the bounded protocol waits behind an earlier one of its sector between the same core and the home, and a
request or an `LDTOL` while the home is at work on an earlier one; where a message may not arrive nothing changes. -/
def Claim.BoundedMessagesKeepTheirOrder : Prop :=
  (∀ (i : Nat → Instr) (id : Nat) (s : State) (m : BMsg),
    i ∈ [Instr.holdingGrant, .passThroughAdd, .baste, .basteAck, .boundedDrain, .drainAck, .unpick, .unpickAnswer] →
    Tab.find? id s.mem.msgs = some m → s.firstB id m = false → exec (i id) s = .next s) ∧
  (∀ (i : Nat → Instr) (id : Nat) (s : State) (m : BMsg), i ∈ [Instr.holdingRequest, .ldtolRequest] →
    Tab.find? id s.mem.msgs = some m → (s.home m.sector 0).busy = true ∨ s.firstB id m = false → exec (i id) s = .next s)

/-- R291, R292: a holding request that finds room in the directory and no holder of the sector is granted the whole ease; one that
finds a holder is granted the remainder where twice that is no less than the largest share, and else has the holder basted; a full
holder list refuses it. -/
def Claim.HoldingRequestsAreAnswered : Prop :=
  ∀ (id : Nat) (s : State) (sec core seq : Nat) (ease : Word),
    Tab.find? id s.mem.msgs = some ⟨sec, core, seq, .request ease⟩ → s.firstB id ⟨sec, core, seq, .request ease⟩ = true →
    (s.home sec 0).busy = false →
    let h := s.home sec ease
    ∃ t, exec (.holdingRequest id) s = .next t ∧ SameBytes s t ∧
      (16 ≤ h.holders.length → Tab.find? s.nextId t.mem.msgs = some ⟨sec, core, seq, .refuse⟩) ∧
      (h.holders = [] → s.directoryFull sec = false →
        Tab.find? s.nextId t.mem.msgs = some ⟨sec, core, seq, .grant ease⟩ ∧
        (t.home sec 0).holders = [(core, ease)] ∧ (t.home sec 0).rest = 0) ∧
      (∀ v share, h.holders = [(v, share)] → ltF (addRne h.rest h.rest) share = false →
        Tab.find? s.nextId t.mem.msgs = some ⟨sec, core, seq, .grant h.rest⟩ ∧
        (t.home sec 0).holders = [(v, share), (core, h.rest)] ∧ (t.home sec 0).rest = 0) ∧
      (∀ v share, h.holders = [(v, share)] → ltF (addRne h.rest h.rest) share = true →
        Tab.find? s.nextId t.mem.msgs = some ⟨sec, v, seq, .baste⟩ ∧
        (t.home sec 0).holders = [(v, share)] ∧ (t.home sec 0).basted = some (v, core, seq))

/-- R191, R193, R290 to R292: the bounded words at issue, the order of the protocol's messages, and the answer to a request. -/
def Obligations.BoundedWordsAndTheirOrder : Prop :=
  Claim.BoundedWordsGoOn ∧ Claim.BoundedMessagesKeepTheirOrder ∧ Claim.HoldingRequestsAreAnswered

/-- R291, R292: a grant makes the sector withheld at the core with the granted share; a baste halves a share and is acknowledged;
the freed half goes to the core that asked; a drain is added at the home and acknowledged; an unpick ends the holding. -/
def Obligations.BoundedMessagesAct : Prop :=
  (∀ (id : Nat) (s : State) (sec core seq : Nat) (share : Word),
    let m : BMsg := ⟨sec, core, seq, .grant share⟩
    Tab.find? id s.mem.msgs = some m → s.firstB id m = true → s.waitingAdds core = [] → (s.launch seq).live = true →
    ∃ t, exec (.holdingGrant id) s = .next t ∧
      Tab.find? sec (t.core core).withheld = some ⟨[], 0, share, false, seq, []⟩ ∧ (t.core core).l1Has sec = false ∧
      SameBytes s t) ∧
  (∀ (id : Nat) (s : State) (sec core seq : Nat) (h : Withheld),
    let m : BMsg := ⟨sec, core, seq, .baste⟩
    Tab.find? id s.mem.msgs = some m → s.firstB id m = true → Tab.find? sec (s.core core).withheld = some h →
    ltF (halfRz h.share) h.mag = false →
    ∃ t, exec (.baste id) s = .next t ∧ Tab.find? sec (t.core core).withheld = some { h with share := halfRz h.share } ∧
      Tab.find? s.nextId t.mem.msgs = some ⟨sec, core, seq, .basteAck⟩ ∧ SameBytes s t) ∧
  (∀ (id : Nat) (s : State) (sec core seq victim asker launch : Nat) (share : Word) (hs : List (Nat × Word)) (h : HomeSector),
    let m : BMsg := ⟨sec, core, seq, .basteAck⟩
    Tab.find? id s.mem.msgs = some m → s.firstB id m = true → Tab.find? sec s.mem.homes = some h →
    h.basted = some (victim, asker, launch) → h.holders = (victim, share) :: hs → (∀ q ∈ hs, q.1 ≠ victim) →
    ∃ t, exec (.basteAck id) s = .next t ∧
      (t.home sec 0).holders = (victim, halfRz share) :: hs ++ [(asker, subRz share (halfRz share))] ∧
      Tab.find? s.nextId t.mem.msgs = some ⟨sec, asker, launch, .grant (subRz share (halfRz share))⟩) ∧
  (∀ (id : Nat) (s : State) (sec core seq pa : Nat) (a : Word),
    let m : BMsg := ⟨sec, core, seq, .drain [(pa, a)] false none⟩
    Tab.find? id s.mem.msgs = some m → s.firstB id m = true → isFoyer pa = false → pa % 4 = 0 →
    s.memWf → s.l2Clean →
    ∃ t, exec (.boundedDrain id) s = .next t ∧
      BitVec.ofNat 32 (t.mem.homeNat pa 4) = addRne (BitVec.ofNat 32 (s.mem.homeNat pa 4)) a ∧
      (∀ x, (x < pa ∨ pa + 4 ≤ x) → t.mem.homeByte x = s.mem.homeByte x) ∧
      ∃ n, Tab.find? n t.mem.msgs = some ⟨sec, core, seq, .drainAck⟩) ∧
  (∀ (id : Nat) (s : State) (sec core seq : Nat) (h : Withheld),
    let m : BMsg := ⟨sec, core, seq, .drainAck⟩
    Tab.find? id s.mem.msgs = some m → s.firstB id m = true → Tab.find? sec (s.core core).withheld = some h →
    s.waitingAdds core = [] →
    ∃ t, exec (.drainAck id) s = .next t ∧ Tab.find? sec (t.core core).withheld = some { h with draining := false } ∧
      SameBytes s t) ∧
  (∀ (id : Nat) (s : State) (sec core seq : Nat) (h : Withheld),
    let m : BMsg := ⟨sec, core, seq, .unpick⟩
    Tab.find? id s.mem.msgs = some m → s.firstB id m = true → Tab.find? sec (s.core core).withheld = some h →
    ∃ t, exec (.unpick id) s = .next t ∧ Tab.find? sec (t.core core).withheld = none ∧
      Tab.find? s.nextId t.mem.msgs = some ⟨sec, core, seq, .answer h.sums⟩ ∧ SameBytes s t) ∧
  (∀ (id : Nat) (s : State) (sec core seq : Nat) (h : HomeSector),
    let m : BMsg := ⟨sec, core, seq, .answer []⟩
    Tab.find? id s.mem.msgs = some m → s.firstB id m = true → Tab.find? sec s.mem.homes = some h → h.asked = none →
    ∃ t, exec (.unpickAnswer id) s = .next t ∧ (t.home sec 0).waiting = h.waiting.filter (· != core) ∧
      (∀ q ∈ (t.home sec 0).holders, q ∈ h.holders) ∧ SameBytes s t) ∧
  (∀ (id : Nat) (s : State) (sec core seq op elem key : Nat) (o : Op) (eps : Word) (keys : List Nat)
      (got : List (Nat × Lane)),
    let m : BMsg := ⟨sec, core, seq, .ldtol op elem key⟩
    Tab.find? id s.mem.msgs = some m → s.firstB id m = true → (s.home sec 0).busy = false → (s.home sec 0).holders = [] →
    s.op op = some o → o.kind = .ldtol eps keys got →
    ∃ t o', exec (.ldtolRequest id) s = .next t ∧ t.op op = some o' ∧ SameBytes s t ∧
      (let v := got ++ [(key, ⟨BitVec.ofNat 32 (s.mem.homeNat elem 4), false⟩)]
       o'.kind = if v.length = keys.length then .result true v 0 none else .ldtol eps keys v)) ∧
  (∀ (id : Nat) (s : State) (sec core seq pa op lane : Nat) (a : Word),
    let m : BMsg := ⟨sec, core, seq, .pass pa a op lane⟩
    Tab.find? id s.mem.msgs = some m → s.firstB id m = true → isFoyer pa = false → pa % 4 = 0 →
    s.memWf → s.l2Clean →
    ∃ t, exec (.passThroughAdd id) s = .next t ∧
      BitVec.ofNat 32 (t.mem.homeNat pa 4) = addRne (BitVec.ofNat 32 (s.mem.homeNat pa 4)) a ∧
      ∀ x, (x < pa ∨ pa + 4 ≤ x) → t.mem.homeByte x = s.mem.homeByte x)

/-! ### Fences, the walker, barriers and monitors -/

/-- R194, R264, R268, R269: a fence with a release beyond the core drains what the core has buffered, so that every byte stands at
its home; one with an acquire invalidates the L1; at a scope beyond the die the die of the core has then applied what every die
had; each ends the region, and no byte that the core's loads find changes. -/
def Claim.FencesOrder : Prop :=
  ∀ (sem : Sem) (sc : Scope) (s : State), s.curSlot ≤ 64 → s.mayCommit → s.mayAccess true → s.memWf → s.l2Clean →
    s.scbWf (s.fusedOf s.who) s.curCore → (sem ≠ .acq → s.mayRelease) →
    (sem = .acq → s.ops.any (fun q => q.2.isRead s.curKey || q.2.walksFor s.curKey) = false) →
    let f := s.fusedOf s.who
    ∃ t, exec (.fence sem sc) s = .next t ∧ MemWord s t s.commit.me ∧
      (∀ pa, t.coreByte f s.curCore pa = s.coreByte f s.curCore pa) ∧
      (sem ≠ .acq → sc ≠ .core → (t.core s.curCore).scb = [] ∧
        ∀ pa, t.mem.homeByte pa = (s.myCore.scbByte pa).getD (s.mem.homeByte pa)) ∧
      (sem ≠ .rel → ∀ c ∈ quadOf f s.curCore, ∀ sec, (t.core c).l1Has sec = false) ∧
      (sc = .pkg ∨ sc = .pod → ∀ d k, d < 4 → k < 4 → s.mem.clock d k ≤ t.mem.clock (coreDie s.curCore) k)

/-- R195, R196: `CFLUSH` and `CINV` put a walker operation over the range in flight and end the region; `PREF` changes nothing. -/
def Claim.WalkerWords : Prop :=
  (∀ (inv mem : Bool) (a b x : SReg) (s : State), s.curSlot ≤ 64 → s.settled [a, b, x] → s.clean [a, b, x] →
    s.mayCommit → s.mayAccess true → (s.sreg b).val.toNat < 2 ^ 32 → (s.sreg x).val = 0 →
    ∃ t id o, exec (if inv then .cinv mem a b x else .cflush mem a b x) s = .next t ∧ MemWord s t s.commit.me ∧
      SameBytes s t ∧ t.op id = some o ∧ o.sk = s.curKey ∧ o.staged = s.dmode s.who ∧
      o.kind = .walker inv mem (s.sreg a).val.toNat (s.sreg b).val.toNat none (s.ctxOf s.who)) ∧
  (∀ (l2 : Bool) (a : SReg) (b : VReg) (s : State), s.settled [a] → s.mayAccess false → exec (.pref l2 a b) s = .next s)

/-- R195: at `WALKER_COMPLETE` an L1 flush drains the buffered sectors of its lines, an L1 invalidation drops them; an L2 flush
writes the dirty sectors of its lines back, so that the HBM holds what each byte read as, and leaves the sectors clean; an L2
invalidation writes them back and leaves no copy of them in any L2.  None changes what a byte reads as; the operation ends. -/
def Claim.WalkerCompletes : Prop :=
  ∀ (s : State) (id : Nat) (o : Op) (inv mem : Bool) (base len ctx : Nat),
    s.op id = some o → o.kind = .walker inv mem base len none ctx → o.staged = false → s.memWf →
    s.scbWf (s.fusedOf o.who) o.core → s.l2Clean →
    let f := s.fusedOf o.who
    ∃ t, exec (.walkerComplete id) s = .next t ∧ t.op id = none ∧
      (∀ pa, t.coreByte f o.core pa = s.coreByte f o.core pa) ∧
      (∀ l ∈ s.rangeLines o.core ctx base len,
        (inv = false → mem = false → ∀ e ∈ (t.core o.core).scb, e.sector / 4 ≠ l) ∧
        (inv = true → mem = false → ∀ n, n < 4 → (t.core o.core).l1Has (4 * l + n) = false) ∧
        (mem = true → isFoyer (256 * l) = false → ∀ n, n < 256 → t.mem.hbm.read (256 * l + n) = s.mem.homeByte (256 * l + n)) ∧
        (mem = true → inv = false → ∀ n y, n < 4 → Tab.find? (4 * l + n) t.mem.l2 = some y → y.dirty = false) ∧
        (mem = true → inv = true → ∀ n die, n < 4 → die < 4 → Tab.find? (4 * l + n) t.mem.l2 = none ∧
          Tab.find? (guestKey die (4 * l + n)) t.mem.guest = none))

/-- R194 to R196: fences, the cache walker and prefetch. -/
def Obligations.FencesAndTheWalker : Prop :=
  Claim.FencesOrder ∧ Claim.WalkerWords ∧ Claim.WalkerCompletes

/-- R197, R198, R199, R200: a barrier word on a scratchpad object of its own panel ends the region and puts its update in flight;
nothing of the object changes before `BARRIER_OBJECT_UPDATE`. -/
def Claim.BarrierWordsSendUpdates : Prop :=
  ∀ (a x : SReg) (s : State) (i : Instr) (u : ObjUpd),
    (i = .bari .core a x ∧ u = .init ((s.sreg x).val.setWidth 32)) ∨ (i = .bara .core a ∧ u = .arrive) ∨
      (i = .bexp .core a x ∧ u = .expect ((s.sreg x).val.setWidth 32)) ∨ (i = .bar .core a ∧ u = .arriveWait) →
    s.curSlot ≤ 64 → s.settled [a, x] → s.clean [a, x] → s.mayCommit → s.mayAccess true → s.mayRelease → s.me.bar = none →
    s.sig = .done → s.me.gangMask s.curGang = s.me.liveMask →
    (let v := (s.sreg a).val.toNat
     v / 2 ^ 62 = 1 ∧ v / 2 ^ 20 % 2 ^ 42 = 0 ∧ v % 16 = 0 ∧ v % 2 ^ 20 + 16 ≤ s.myPanel.scratchUnits * 4096) →
    ∃ t id o, exec i s = .next t ∧ t.op id = some o ∧ o.sk = s.curKey ∧ o.core = s.curCore ∧
      o.kind = .barrier u (.pad s.me.panel ((s.sreg a).val.toNat % 2 ^ 20)) .core (s.sreg a).val ∧
      t.cur.region = true ∧ (∀ p off, (t.panel p).scratch.read off = (s.panel p).scratch.read off) ∧
      t.me.v = s.me.v ∧ t.me.s = s.me.s ∧ t.me.f = s.me.f ∧
      t.sig = if u = .arriveWait then .held .barrier else .done

/-- R199, Table 6.3, Table 1.5: at `BARRIER_OBJECT_UPDATE` an object in a scratchpad takes the update at once: `BARI` sets it,
an arrival and the two pending-byte updates count, and a phase completes when as many have arrived as are expected and no
byte is pending. -/
def Claim.BarrierUpdates : Prop :=
  ∀ (s : State) (id : Nat) (o : Op) (u : ObjUpd) (p off : Nat) (va : Dword),
    s.op id = some o → o.kind = .barrier u (.pad p off) .core va → o.staged = false → s.oldestUpdate id o = true → s.memWf →
    u ≠ .arriveWait →
    let w := fun (t : State) (n : Nat) => BitVec.ofNat 32 (leNat ((t.panel p).scratch.readN (off + 4 * n) 4))
    ((w s 3).extractLsb' 29 3 = 0 ∨ ∃ n, u = .init n) →
    ∃ t, exec (.barrierObjectUpdate id) s = .next t ∧ t.op id = none ∧ t.mem = s.mem ∧
      (∀ q, q ≠ p → t.panel q = s.panel q) ∧
      (∀ y, (y < off ∨ off + 16 ≤ y) → (t.panel p).scratch.read y = (s.panel p).scratch.read y) ∧
      (let arrived := if u = .arrive then w s 1 + 1 else w s 1
       let pending := match u with | .expect n => w s 2 + n | .subtract n => w s 2 - n | _ => w s 2
       match u with
       | .init n => w t 0 = n ∧ w t 1 = 0 ∧ w t 2 = 0 ∧ w t 3 = 0
       | _ =>
         if (w s 0).toNat ≤ arrived.toNat ∧ pending = 0 then
           w t 0 = w s 0 ∧ w t 1 = arrived - w s 0 ∧ w t 2 = 0 ∧ (w t 3).setWidth 24 = (w s 3).setWidth 24 + (1 : BitVec 24)
         else w t 0 = w s 0 ∧ w t 1 = arrived ∧ w t 2 = pending ∧ w t 3 = w s 3)

/-- R197 to R200: the barrier words, and their updates when they are performed. -/
def Obligations.BarriersCount : Prop :=
  Claim.BarrierWordsSendUpdates ∧ Claim.BarrierUpdates

/-- R200, R202: `BARW` goes on with an acquire once the object's phase differs from its operand, and waits while it is equal;
`WAITM` goes on once the watched word differs, and else waits on its line; at `WAITM_WAKE` a gang whose line has been
written looks again. -/
def Obligations.WaitsOnMemory : Prop :=
  (∀ (a x : SReg) (s : State), s.curSlot ≤ 64 → s.settled [a, x] → s.clean [a, x] → s.mayCommit → s.mayAccess false →
    s.ops.any (fun q => q.2.isRead s.curKey) = false →
    (let v := (s.sreg a).val.toNat
     v / 2 ^ 62 = 1 ∧ v / 2 ^ 20 % 2 ^ 42 = 0 ∧ v % 16 = 0 ∧ v % 2 ^ 20 + 16 ≤ s.myPanel.scratchUnits * 4096) →
    (∀ q ∈ s.ops, q.2.core = s.curCore → q.2.touches (some s.me.panel) ((s.sreg a).val.toNat % 2 ^ 20) 16 = false) →
    let w := BitVec.ofNat 32 (leNat (s.myPanel.scratch.readN ((s.sreg a).val.toNat % 2 ^ 20 + 12) 4))
    w.extractLsb' 29 3 = 0 →
    (w.setWidth 24 = ((s.sreg x).val.setWidth 24 : BitVec 24) → exec (.barw .core a x) s = .next (s.hold .barrier)) ∧
    (w.setWidth 24 ≠ ((s.sreg x).val.setWidth 24 : BitVec 24) →
      ∃ t, exec (.barw .core a x) s = .next t ∧ MemWord s t s.commit.me ∧ SameBytes s t ∧
        ∀ sec, (t.core s.curCore).l1Has sec = false)) ∧
  (∀ (a x : SReg) (s : State), s.curSlot ≤ 64 → s.settled [a, x] → s.clean [a, x] → s.mayAccess false →
    s.me.monitor = none →
    (let v := (s.sreg a).val.toNat
     v / 2 ^ 62 = 1 ∧ v / 2 ^ 20 % 2 ^ 42 = 0 ∧ v % 8 = 0 ∧ v % 2 ^ 20 + 8 ≤ s.myPanel.scratchUnits * 4096) →
    (∀ q ∈ s.ops, q.2.core = s.curCore → q.2.touches (some s.me.panel) ((s.sreg a).val.toNat % 2 ^ 20) 8 = false) →
    let off := (s.sreg a).val.toNat % 2 ^ 20
    (leNat (s.myPanel.scratch.readN off 8) ≠ (s.sreg x).val.toNat →
      ∃ t, exec (.waitm a x) s = .next t ∧ MemWord s t s.me ∧ SameBytes s t) ∧
    (leNat (s.myPanel.scratch.readN off 8) = (s.sreg x).val.toNat →
      exec (.waitm a x) s = .next (s.hold (.monitor (some s.me.panel) (off / 256))))) ∧
  (∀ (sk : Nat) (s : State) (k : Skein), Tab.find? sk s.skeins = some k →
    ∃ t, exec (.waitmWake sk) s = .next t ∧ (∀ n, n ≠ sk → t.skein n = s.skein n) ∧ t.mem = s.mem ∧
      ∀ g c pad line, Tab.find? g k.gangs = some c → c.wait = some (.monitor pad line) → c.woken = true →
        ((t.skein sk).cursor g).wait = none)

/-! ### Words and clauses -/

/-- R68, R86, R88: a well-formed instruction that has words decodes from them to itself, with its chain bit, whatever stands in
the slot after a word without a literal. -/
def Obligations.EncodedWordsDecode : Prop :=
  ∀ (c : Bool) (i : Instr) (l : Word), WellFormed i = true → encode c i ≠ [] →
    decodeWord ((encode c i).headD 0) ((encode c i).getD 1 l) = some (c && decide (major i ≠ 0x1F), i)

/-- R68, R88, R113: a word that decodes is the word of its instruction, with its literal slot where it has one: no bit of it is
passed over, and the instruction is within its limits. -/
def Obligations.DecodedWordsEncode : Prop :=
  ∀ (w l : Word) (c : Bool) (i : Instr), decodeWord w l = some (c, i) →
    WellFormed i = true ∧ (encode c i = [w] ∨ encode c i = [w, l])

/-- Tables 3.7, 3.14, 3.17, the worked encodings: words written out from the spec's layout decode to what they stand for. -/
def Obligations.WordsDecode : Prop :=
  decodeWord 0x04708304 0 = some (false, .smulhu 7 2 3) ∧
  decodeWord 0x0851400C 0 = some (false, .saddI 5 5 (.short 12)) ∧
  decodeWord 0x08510200 0x1234 = some (false, .saddI 5 4 (.lit 0x1234)) ∧
  decodeWord 0x1C90C42B 0 = some (false, .vaddmin 9 3 4 10) ∧
  decodeWord 0x389106C4 0 = some (false, .ldSpec .w 9 4 (.vec 6) false) ∧
  decodeWord 0x3C32104C 0 = some (false, .stRelDie .w 3 8 (.imm 16) false) ∧
  decodeWord 0x5402_8B30 0 = some (false, .cpy .g2p 10 11 12) ∧
  decodeWord 0x64020000 0 = some (false, .sysr 1 .trapcause) ∧
  decodeWord 0x64020006 0 = none ∧
  decodeWord 0x7C003FC4 0 = some (false, .clauseHeader 0 15 15 1 0)

/-- R10, R69 to R71, R75, R76, R115, R131, R323: an issue act of a gang that may issue, none of whose results is due and no
breakpoint of which fires, runs the word that its bytes decode to.  A gang between clauses fetches the packets at its PC; a fetched
clause runs its header; a word that stands alone in its group runs in its turn from the state before the group, and, done, it ends
an issue cycle and, where the packet is at its end, the packet; held, it stays; trapping,
  it leaves the trap's state.  A gang whose
turn it is not changes nothing. -/
def Obligations.StepRunsTheDecodedWord : Prop :=
  ∀ (s : State) (core slot g : Nat) (rest : List Act), s.sched = .issue core slot g :: rest → slot ≤ 64 →
    let k := skKey core slot
    let u := { s.pass with sched := rest }.modSkein k fun x => { x with servedAt := Tab.put g s.pass.tick x.servedAt }
    let v := { u with curCore := core, curSlot := slot, curGang := g }
    let n := { v with groupId := v.nextId }
    let rs := u.rivals exec k
    let turn := u.gangFirst exec k g = false ∧ (rs = [] ∨ u.chosen (k :: rs) = some k)
    { s.pass with sched := rest }.mayIssue k g = true → (u.skein k).due = false →
    u.breakDue k g = none → u.vit.stepping = none →
    (∀ (a0 as : List Nat), v.cur.phase = .empty →
      v.fetchAddrs core v.myCtx 12 (12 * v.curPc.toNat) = .ok a0 →
      let h := BitVec.ofNat 32 (leNat ((v.readCode core a0).2.take 4))
      v.fetchAddrs core v.myCtx (12 * clauseLen h) (12 * v.curPc.toNat) = .ok as →
      v.codeMoving ((as.map (· / 64)).eraseDups) = false →
      let r := v.readCode core as
      let ps := packetsOf (clauseLen h) r.2
      isHeader h = true → (ps.headD []).headD 0 = h →
      step s = .next { r.1.setCur { Cursor.empty with
        phase := .fetched
        packets := ps
        first := true
        passed := v.cur.passed } with sig := .done } ∧
      ((∃ a ∈ as, Tab.find? (a / 64) (v.core core).icache = none) → r.2 = as.map r.1.mem.homeByte)) ∧
    (∀ (c : Bool) (i : Instr) (t : State), v.cur.phase = .fetched →
      decodeWord ((v.cur.packets.headD []).headD 0) 0 = some (c, i) → exec i { v with sig := .done } = .next t →
      t.vit.stepping = none → step s = .next t) ∧
    (∀ (a b : Word) (i : Instr) (t : State), v.cur.phase = .running →
      (v.cur.first = true ∧ v.cur.slot ≤ 1 ∧ (∃ h, v.cur.packets.headD [] = [h, a, b]) ∨
        v.cur.first = false ∧ v.cur.slot = 0 ∧ ∃ x, v.cur.packets.headD [] = [a, b, x]) →
      decodeWord a b = some (false, i) →
      let w : PWord := ⟨if v.cur.first then 1 else 0, false, i⟩
      exec i (n.atWord w) = .next t →
      (∀ e, t.sig = .held e → t.vit.stepping = none → step s = .next (t.setCur { t.cur with slot := v.cur.slot })) ∧
      (t.sig = .trapped → turn → step s = .next (t.served k rs)) ∧
      (t.sig = .trapped ∨ t.sig = .done ∨ t.sig = .faulted → ¬ turn → step s = .next u) ∧
      (t.sig = .done → turn → ∀ y, exec i ((n.setMe { n.me with yielded := false }).atWord w) = .next y → y.sig = .done →
        let z := (y.resolveGroup [w.slot]).groupIssued [w]
        z.cur.stop = false → step s = .next ({ z.packetDone State.returnTrap with sig := .done }.served k rs)) ∧
      (t.sig = .faulted → turn → ∀ y, exec i ((n.setMe { n.me with yielded := false }).atWord w) = .next y →
        y.sig = .faulted → y.hasSkein y.curKey = true → step s = .next ((y.settleSkein y.curKey true).served k rs)))

/-- R71, R113: at its header a clause whose words all stand in order spends its gap once, and begins once every flag
of its wait mask reads 0; one with an offending word raises ILLEGAL with every slice at its first packet and the trap at the
word. -/
def Claim.ClausesBeginInOrder : Prop :=
  (∀ (wait : BitVec 12) (setA setB len : BitVec 4) (gap : BitVec 2) (s : State),
    let i : Instr := .clauseHeader wait setA setB len gap
    let bad := clauseBad s.decCtx 0 (s.cur.packets.take (len.toNat + 1))
    let cyc := s.me.cycle + if s.cur.gapDone then 0 else gap.toNat
    (bad = none → (∀ n, n < 12 → wait.getLsbD n = true → s.me.flag n = 0) →
      ∃ t, exec i s = .next t ∧ t.sig = .done ∧
        t.cur = { s.cur with phase := .running, setA := setA, setB := setB, slot := 1, wait := none, gapDone := true } ∧
        { t.me with gangs := s.me.gangs } = { s.me with cycle := cyc } ∧ ∀ n, n ≠ s.curKey → t.skein n = s.skein n) ∧
    (∀ n, bad = none → n < 12 → wait.getLsbD n = true → s.me.flag n ≠ 0 →
      ∃ t, exec i s = .next t ∧ t.sig = .held (.flags wait) ∧ t.cur.phase = s.cur.phase ∧ t.cur.gapDone = true ∧
        t.me.cycle = cyc) ∧
    (∀ p n, bad = some (p, n) → s.trappable →
      ∃ t r, exec i s = .next t ∧ t.me.halted = true ∧
        (∀ sl, sl < 8 → t.me.pcOf sl = if s.me.live sl then s.curPc else s.me.pcOf sl) ∧
        t.myCore = { s.myCore with trapQ := s.myCore.trapQ ++ [r] } ∧ (r.cause.extractLsb' 0 4).toNat = 1 ∧
        r.pc.extractLsb' 0 53 = s.curPc + BitVec.ofNat 53 p ∧ (r.pc.extractLsb' 53 2).toNat = n % 4))

/-- R79, R81, R34, R21, R17, R18, R133, R134, R85: a result is due as many issue cycles after its word as its latency says, behind
the results that are due no later, but a drop before those of its own cycle.  At `FIXED_RESULT_VISIBLE` the results of a skein that
are due become visible in their order, and nothing else changes but that a write may win over an outstanding word.  Lanes take their
values, and their registers the lineage of the result; a scalar takes its value, but `zero` discards it, and `em` and `pm` keep
bits [31:0] and no poison; sticky flags are ORed into bits [12:8] of the status word; a written status word keeps its reserved bits
0; the pattern table is replaced; a dropped register is zero. -/
def Claim.ResultsBecomeVisible : Prop :=
  (∀ (k : Skein) (slot lat : Nat) (e : Effect), ∃ l r,
    let v := k.cycle + lat
    let drop := ∃ n, e = .drop n
    k.pending = l ++ r ∧ k.pend slot lat e = { k with pending := l ++ ⟨v, k.cycle, slot, e⟩ :: r } ∧
    (∀ q ∈ l, q.vis ≤ v ∧ (drop → q.vis < v)) ∧ ∀ q, r.head? = some q → v < q.vis ∨ (drop ∧ v = q.vis)) ∧
  (∀ (sk : Nat) (s : State) (x : Skein), Tab.find? sk s.skeins = some x →
    let due := x.pending.takeWhile fun p => decide (p.vis ≤ x.cycle)
    ∃ t, exec (.fixedResultVisible sk) s = .next t ∧
      { t.skein sk with oplog := x.oplog } =
        { due.foldl (fun y p => y.apply p.eff) x with pending := x.pending.drop due.length } ∧
      (∀ n, Tab.get LogEntry.free (t.skein sk).oplog n =
        { Tab.get LogEntry.free x.oplog n with lost := (Tab.get LogEntry.free (t.skein sk).oplog n).lost }) ∧
      (∀ id, t.op id = (s.op id).map fun o => { o with lost := ((t.op id).getD o).lost }) ∧
      (∀ n, n ≠ sk → t.skein n = s.skein n) ∧ { t with skeins := s.skeins, ops := s.ops } = s) ∧
  (∀ (sk : Nat) (s : State), Tab.find? sk s.skeins = none → exec (.fixedResultVisible sk) s = .next s) ∧
  (∀ (k : Skein) (ws : List (Nat × Lane)) (tag : Option Nat),
    let y := k.apply (.vec ws tag)
    (∀ n, y.lane n = match ws.reverse.find? (fun w => w.1 == n) with | some w => w.2 | none => k.lane n) ∧
    (∀ r, Tab.find? r y.vtag = if ∃ w ∈ ws, w.1 / 32 = r then tag else Tab.find? r k.vtag) ∧
    { y with v := k.v, vtag := k.vtag } = k) ∧
  (∀ (k : Skein) (d : SReg) (v : Scalar) (tag : Option Nat),
    let y := k.apply (.scalar d.toNat v tag)
    (d = regZero → y = k) ∧
    (d ≠ regZero → y.sreg d = (if d = regEm ∨ d = regPm then ⟨v.val &&& 0xFFFFFFFF, false, none⟩ else v) ∧
      Tab.find? d.toNat y.stag = tag) ∧
    (∀ r, r ≠ d → y.sreg r = k.sreg r ∧ Tab.find? r.toNat y.stag = Tab.find? r.toNat k.stag) ∧
    { y with s := k.s, stag := k.stag } = k) ∧
  (∀ (k : Skein) (fl : FpFlags), k.apply (.sticky fl) = { k with status := k.status ||| (fl.setWidth 64 <<< 8) }) ∧
  (∀ (k : Skein) (w : Dword), k.apply (.status w) = { k with status := w &&& 0x1F0F }) ∧
  (∀ (k : Skein) (o : Bool) (a b : Dword),
    k.apply (.pattern o a b) = { k with meldOpen := o, patA := a, patB := b }) ∧
  (∀ (k : Skein) (r n : Nat), (k.apply (.drop r)).lane n = (if n / 32 = r then ⟨0, false⟩ else k.lane n) ∧
    Tab.find? n (k.apply (.drop r)).vtag = (if n = r then none else Tab.find? n k.vtag) ∧
    { k.apply (.drop r) with v := k.v, vtag := k.vtag } = k)

/-- R71, R113, R79, R81, R21: how a clause begins, and how the results of fixed latency become visible. -/
def Obligations.ClausesBeginInOrder : Prop :=
  Claim.ClausesBeginInOrder ∧ Claim.ResultsBecomeVisible

/-! ### The whole machine -/

/-- R3, R263: every step keeps every memory of the machine in its canonical form: the HBM, the foyer, the host's memory and
every scratchpad. -/
def Obligations.MemoryStaysCanonical : Prop := ∀ s t : State, s.memWf → step s = .next t → t.memWf

/-- R18, R17, Table 1.3: every step keeps `em` and `pm` at 32 bits, with neither poison nor a future, and the reserved bits of
every status word at 0, in every skein. -/
def Obligations.MasksAndStatusStayLegal : Prop := ∀ s t : State, s.masksOk → step s = .next t → t.masksOk

/-- R353, R307, Table 1.2, R14, R22, R23: after power-on nothing is launched, the device status is 0,
  the next error record and the
next launch have number 1, and both invariants hold; a skein starts as one gang at its entry packet, `em` with every lane,
every other register 0, no flag raised, no region counted, and batch 1 open. -/
def Obligations.ResetAndStart : Prop :=
  (State.reset.memWf ∧ State.reset.masksOk ∧ State.reset.skeins = [] ∧ State.reset.launches = [] ∧ State.reset.ops = [] ∧
    State.reset.host.status = 0 ∧ State.reset.host.errseq = 1 ∧ State.reset.host.nextSeq = 1) ∧
  ∀ (core slot panel idx : Nat) (entry : Pc),
    let k := Skein.start core slot panel idx entry
    k.em = 0xFFFFFFFF ∧ (∀ r, r ≠ regEm → k.sreg r = ⟨0, false, none⟩) ∧ (∀ n, k.lane n = ⟨0, false⟩) ∧
      (∀ n, k.flag n = 0) ∧ (∀ sl, sl < 8 → k.pcOf sl = entry ∧ k.gangOf sl = 0 ∧ k.live sl = true) ∧ k.gangMask 0 = 0xFF ∧
      k.status = 0 ∧ k.regionPc = entry ∧ k.regionCount = 0 ∧ k.meldOpen = false ∧ k.openBatch.num = 1 ∧ k.batches = []

/-! ### Copies, batches and spools -/

/-- R203, R204, R205, R208: a copy whose ends are aligned, whose length is a multiple of 16 below 2^32 and whose scratchpad ends
lie in the allotment joins the open batch, ends the region and is in flight with its object; `CPY.spl` takes the next slot in
the order of claims; a gather is in flight with source and destination of each active lane. -/
def Claim.CopyWordsJoinTheBatch : Prop :=
  ∀ (s : State), s.curSlot ≤ 64 → s.mayCommit → s.mayAccess true →
    let top := s.myPanel.scratchUnits * 4096
    let joined := fun (ds : List (Nat × Nat)) => { s.commit.me with
      openBatch := { s.me.openBatch with copies := s.me.openBatch.copies + 1, dests := s.me.openBatch.dests ++ ds } }
    let object := fun (x : SReg) (obj : Option Ptr) => (obj = none ∧ (s.sreg x).val = 0) ∨
      ∃ off, obj = some (.pad s.me.panel off) ∧ (s.sreg x).val = BitVec.ofNat 64 (2 ^ 62 + off) ∧ off < 2 ^ 20 ∧
        off % 16 = 0 ∧ off + 16 ≤ top
    let num := s.me.openBatch.num
    (∀ (q : CopyDir) (a b x : SReg) (obj : Option Ptr), s.settled [a, b, x, x + 1] → s.clean [a, b, x, x + 1] →
      object (x + 1) obj →
      let va := (s.sreg a).val.toNat
      let vb := (s.sreg b).val.toNat
      let n := (s.sreg x).val.toNat
      va % 16 = 0 → vb % 16 = 0 → n % 16 = 0 → n < 2 ^ 32 →
      (q = .g2p ∨ q = .p2p → va + n ≤ top) → (q = .p2g ∨ q = .p2p → vb + n ≤ top) →
      let dst : CopyEnd := if q = .g2p ∨ q = .p2p then .pad va else .glob va
      let src : CopyEnd := if q = .p2g ∨ q = .p2p then .pad vb else .glob vb
      ∃ t, exec (.cpy q a b x) s = .next t ∧ Issued s t (joined (if q = .g2p ∨ q = .p2p then [] else [(va, n)]))
        (some { s.wordOp none (.copy dst src n n obj num none none false) with staged := s.dmode s.who })) ∧
    (∀ (p : BitVec 3) (b x : SReg) (obj : Option Ptr), s.settled [b, x, x + 1] → s.clean [b, x, x + 1] → object (x + 1) obj →
      let y := s.myPanel.spool p.toNat
      let vb := (s.sreg b).val.toNat
      let n := (s.sreg x).val.toNat
      y.count ≠ 0 → vb % 16 = 0 → n % 16 = 0 → n < 2 ^ 32 → n ≤ y.size →
      ∃ t u, exec (.cpySpl p b x) s = .next t ∧
        t = u.setSpool s.me.panel p.toNat { y with nextClaim := y.nextClaim + 1, claims := y.claims ++ [(y.nextClaim, false)] } ∧
        Issued s u (joined []) (some { s.wordOp none (.copy (.pad (y.base + y.size * (y.nextClaim % y.count))) (.glob vb) n n obj
          num (some (p.toNat, y.nextClaim)) none false) with staged := s.dmode s.who })) ∧
    (∀ (e : Size) (a b : SReg) (x : VReg), s.settled [a, b] → s.clean [a, b] →
      let n := sizeBytes e
      let va := (s.sreg a).val.toNat
      va + 32 * n ≤ top →
      (∀ l ∈ s.lanes, s.addrToken b (some x) l = none ∧ canonical (s.laneAddr b (.vec x) n l) = true ∧
        s.laneAddr b (.vec x) n l % n = 0) →
      ∃ t, exec (.cpyg e a b x) s = .next t ∧ Issued s t (joined []) (some { s.wordOp none (.gather n
        (s.lanes.map fun l => (s.laneAddr b (.vec x) n l, va + l * n)) num none false) with staged := s.dmode s.who }))

/-- R203, R205: at `COPY_COMPLETE` a scratchpad copy between ranges that do not overlap has every byte at its destination and no
other byte changed, and its batch has one copy less; at `COPY_FAULT` a copy whose source page fails a check that asks nothing
of the driver ends, and its batch has failed with the first failure's code and address. -/
def Claim.CopiesComplete : Prop :=
  (∀ (s : State) (id : Nat) (o : Op) (k : Skein) (d a len full : Nat) (b : BitVec 32),
    s.op id = some o → o.kind = .copy (.pad d) (.pad a) len full none b none none false → o.staged = false →
    Tab.find? o.sk s.skeins = some k → d % 16 = 0 → a % 16 = 0 → (d + len ≤ a ∨ a + len ≤ d) → s.memWf →
    ∃ t, exec (.copyComplete id) s = .next t ∧ t.op id = none ∧ t.mem = s.mem ∧
      (∀ off, (t.panel o.panel).scratch.read off = if d ≤ off ∧ off < d + len
        then (s.panel o.panel).scratch.read (a + (off - d)) else (s.panel o.panel).scratch.read off) ∧
      (∀ p, p ≠ o.panel → t.panel p = s.panel p) ∧
      (t.skein o.sk).batches = k.batches.map (fun x => if x.num = b then { x with copies := x.copies - 1 } else x) ∧
      (t.skein o.sk).openBatch = (if k.openBatch.num = b then { k.openBatch with copies := k.openBatch.copies - 1 }
        else k.openBatch)) ∧
  (∀ (s : State) (id : Nat) (o : Op) (k : Skein) (dst : CopyEnd) (va len full c : Nat) (b : BitVec 32),
    s.op id = some o → o.kind = .copy dst (.glob va) len full none b none none false → o.staged = false → o.started = true →
    len ≠ 0 → s.translateAt o.core (s.ctxOf o.who) va needR = .error c → c ≠ 1 → c ≠ 6 → Tab.find? o.sk s.skeins = some k →
    let f := fun (x : Batch) => if x.num = b then (if x.failed then { x with copies := x.copies - 1 }
      else { x with copies := x.copies - 1, failed := true, code := BitVec.ofNat 8 c, addr := BitVec.ofNat 64 va }) else x
    exec (.copyFault id) s =
      .next ((s.delOp id).setSkein o.sk { k with openBatch := f k.openBatch, batches := k.batches.map f }))

/-- R203 to R205, R208: copies at issue, and when they complete or fail. -/
def Obligations.CopiesIssueAndComplete : Prop :=
  Claim.CopyWordsJoinTheBatch ∧ Claim.CopiesComplete

/-- R23, R205, R206: `SEAL` seals the open batch, opens the next number, which skips 0, and gives the sealed number; with eight
outstanding, the oldest incomplete, it waits.  `WAITB` of a number that is not outstanding does nothing; else it waits until
its batch and every older one have ended, retires them with the L1 lines that they wrote, and raises FAULT for the first
of them that failed. -/
def Claim.BatchesAreSealedAndAwaited : Prop :=
  (∀ (d : SReg) (s : State), s.settled [d] → s.mayCommit → s.mayAccess false →
    (s.me.batches.length < 8 → ∃ t, exec (.seal d) s = .next t ∧ OnlySkein s t
      (({ s.commit.me with
        batches := s.me.batches ++ [s.me.openBatch]
        openBatch := ⟨if s.me.openBatch.num + 1 = 0 then 1 else s.me.openBatch.num + 1, 0, false, 0, 0,
          []⟩ } : Skein).pend s.cur.slot 2
        (.scalar d.toNat ⟨s.me.openBatch.num.setWidth 64, false, none⟩ none))) ∧
    (∀ b bs, s.me.batches = b :: bs → 7 ≤ bs.length → b.copies ≠ 0 → exec (.seal d) s = .next (s.hold .batch))) ∧
  (∀ (a : SReg) (s : State), s.curSlot ≤ 64 → s.settled [a] → s.clean [a] → s.mayAccess false →
    let w : BitVec 32 := (s.sreg a).val.setWidth 32
    ((∀ b ∈ s.me.batches, b.num ≠ w) → exec (.waitb a) s = .next s) ∧
    (∀ l1 b l2, s.me.batches = l1 ++ b :: l2 → (∀ c ∈ l1, c.num ≠ w) → b.num = w →
      ((∃ c ∈ l1 ++ [b], c.copies ≠ 0) → exec (.waitb a) s = .next (s.hold .batch)) ∧
      ((∀ c ∈ l1 ++ [b], c.copies = 0 ∧ c.failed = false) →
        ∃ t, exec (.waitb a) s = .next t ∧ t.me = { s.me with batches := l2 } ∧ (∀ n, n ≠ s.curKey → t.skein n = s.skein n) ∧
          { t with skeins := s.skeins, cores := s.cores } = s ∧
          ∀ c ∈ l1 ++ [b], ∀ r ∈ c.dests, ∀ l ∈ s.rangeLines s.curCore (s.ctxOf s.who) r.1 r.2, ∀ n, n < 4 →
            (t.core s.curCore).l1Has (4 * l + n) = false) ∧
      (∀ m1 f m2, l1 ++ [b] = m1 ++ f :: m2 → (∀ c ∈ l1 ++ [b], c.copies = 0 ∧ c.dests = []) → (∀ c ∈ m1, c.failed = false) →
        f.failed = true → s.trappable →
        ∃ t, exec (.waitb a) s = .next t ∧ TookTrap s t 8 f.code.toNat 31 f.addr (s.curPc + 1))))

/-- R207, R209: `SPLCFG` configures a spool with every slot free once no copy to it is outstanding; `SPLGET` gives the offset of
the oldest filled slot and waits where none is filled; `SPLREL` frees the oldest slot taken; both raise FAULT with code 2 on
a spool that is not configured. -/
def Claim.SpoolsFillAndEmpty : Prop :=
  (∀ (p : BitVec 3) (a : SReg) (s : State), s.settled [a, a + 1] → s.clean [a, a + 1] → s.mayCommit → s.mayAccess false →
    (∀ q ∈ s.ops, q.2.isSpool s.me.panel p.toNat = false) →
    let v := (s.sreg a).val.toNat
    let base := (s.sreg (a + 1)).val.toNat % 2 ^ 20
    let size := v / 2 ^ 16 % 2 ^ 16
    let count := v / 2 ^ 32 % 2 ^ 7
    v / 2 ^ 39 = 0 → v % 2 ^ 16 = 0 → count ≤ 64 → (count ≠ 0 → size ≠ 0) → base % 16 = 0 → size % 16 = 0 →
    (count ≠ 0 → base + size * count ≤ s.myPanel.scratchUnits * 4096) →
    exec (.splcfg p a) s =
      .next (s.commit.setSpool s.me.panel p.toNat ⟨base, size, count, count, 0, 0, 0, [], []⟩)) ∧
  (∀ (p : BitVec 3) (d : SReg) (s : State), s.settled [d] → s.mayCommit → s.mayAccess false →
    let y := s.myPanel.spool p.toNat
    let off := y.base + y.size * (y.nextTake % y.count)
    (y.count ≠ 0 → y.filled = 0 → exec (.splget p d) s = .next (s.hold (.spool p.toNat))) ∧
    (y.count ≠ 0 → y.filled ≠ 0 → exec (.splget p d) s = .next ((s.commit.setSpool s.me.panel p.toNat
      { y with filled := y.filled - 1, nextTake := y.nextTake + 1, held := y.held ++ [off] }).pend 2
      (.scalar d.toNat ⟨BitVec.ofNat 64 off, false, none⟩ none))) ∧
    (y.count = 0 → s.trappable → ∃ t, exec (.splget p d) s = .next t ∧ TookTrap s t 8 2 31 0 (s.curPc + 1))) ∧
  (∀ (p : BitVec 3) (s : State), s.mayCommit → s.mayAccess false →
    let y := s.myPanel.spool p.toNat
    (∀ o os, y.count ≠ 0 → y.held = o :: os →
      exec (.splrel p) s = .next (s.commit.setSpool s.me.panel p.toNat { y with held := os, free := y.free + 1 })) ∧
    (y.count = 0 → s.trappable → ∃ t, exec (.splrel p) s = .next t ∧ TookTrap s t 8 2 31 0 (s.curPc + 1)))

/-- R205 to R207, R209: the batches of copies, and the spools. -/
def Obligations.BatchesAndSpools : Prop :=
  Claim.BatchesAreSealedAndAwaited ∧ Claim.SpoolsFillAndEmpty

/-! ### The engine queue and its futures -/

/-- R212, R213, R218, R223, R224, R226, R229: an engine word whose queue has room ends the region and enters the queue with its
operands as they read at issue; `MMAT` makes its destination pending on its handle for words of later issue cycles, `MLOAD`
and a register `MDRAIN` count on their flag; with the queue full it waits. -/
def Obligations.EngineWordsEnterTheQueue : Prop :=
  ∀ s : State,
    let room := 4096 * s.myPanel.scratchUnits
    (∀ (i : Instr) (pair : Bool) (d : SReg) (acc : BitVec 2) (a b : MatSrc) (da db kk : SReg),
      i = (if pair then .mmatPair d acc a b da db kk else .mmatS d acc a b da db kk) →
      let rs := matScalars a ++ matScalars b ++ [da, db, kk]
      let k := (s.sreg kk).val.toNat
      s.settled (d :: rs) → s.clean rs →
      (s.mayQueue → ∃ t, exec i s = .next t ∧ Queued s t
        (s.commit.sent 1 (.scalar d.toNat ⟨0, false, some s.nextId⟩ none))
        (s.wordOp none (.mmat ⟨s.me.panel, acc.toNat, pair, s.matOperand a (s.sreg da).val (if pair then 128 else 64) k,
          s.matOperand b (s.sreg db).val 64 k, k, false, 0, 0, false,
          decide ((s.context s.myCtx).life = .saving)⟩))) ∧
      (s.mayCommit → 16 ≤ s.myCore.queue.length → exec i s = .next (s.hold .queueFull))) ∧
    (∀ acc : BitVec 2, s.mayQueue →
      ∃ t, exec (.mzero acc) s = .next t ∧ Queued s t s.commit.me (s.wordOp none (.mzero s.me.panel acc.toNat))) ∧
    (∀ (acc : BitVec 2) (v : VReg) (fs : Bool), s.countable fs → s.mayQueue →
      ∃ t, exec (.mload acc (.regs v) fs) s = .next t ∧ Queued s t (s.commit.me.incFlag (s.flagOf fs))
        (s.wordOp (s.flagOf fs) (.mload s.me.panel acc.toNat
          (some ((List.range 64).map fun j => s.readKey (s.me.key (v.toNat + j / 32) (j % 32)))) 0 0))) ∧
    (∀ (acc : BitVec 2) (x : SReg) (fs : Bool), s.settled [x] → s.clean [x] → s.countable fs → s.mayQueue →
      let v := (s.sreg x).val.toNat
      let base := v % 2 ^ 20
      let pitch := v / 2 ^ 20 % 2 ^ 16
      let rows := if s.paired s.me.panel acc.toNat then 128 else 64
      v / 2 ^ 36 = 0 → base % 16 = 0 → pitch % 16 = 0 → base + (rows - 1) * pitch + 256 ≤ room →
      ∃ t, exec (.mload acc (.pad x) fs) s = .next t ∧ Queued s t (s.commit.me.incFlag (s.flagOf fs))
        (s.wordOp (s.flagOf fs) (.mload s.me.panel acc.toNat none base pitch))) ∧
    (∀ (f : DrainFmt) (acc : BitVec 2) (d sc sp : BitVec 6) (fs : Bool), s.countable fs → s.mayQueue →
      ∃ t, exec (.mdrain f .regs acc d sc sp fs) s = .next t ∧ Queued s t (s.commit.me.incFlag (s.flagOf fs))
        (s.wordOp (s.flagOf fs) (.mdrain s.me.panel acc.toNat f .regs 0 0 0 (s.regKeys d.toNat f.bits)
          (if drainScale f = 0 then [] else s.regKeys sc.toNat 1) [])))

/-- R225, R227: a memory `MDRAIN` of an accumulator that no queued operation acts on, without poison and with its ranges in
order, writes every row and scale, ORs the rows' flags into Q, and stands in the queue until its completion; only the bytes
of its rows and scales change. -/
def Obligations.MemoryDrainsWriteTheirRows : Prop :=
  ∀ (f : DrainFmt) (acc : BitVec 2) (d sc sp : BitVec 6) (fs pad : Bool) (s : State) (ws : List (Nat × Byte)),
    let p := s.me.panel
    let rows := if s.paired p acc.toNat then 128 else 64
    let vd := (s.sreg d).val.toNat
    let vs := if drainScale f = 0 then 0 else (s.sreg sc).val.toNat
    let pitch := (s.sreg sp).val.toNat
    let rs := s.drainRows p acc.toNat f 0 rows
    let bs := drainBytes f vd vs pitch rs
    let top := s.myPanel.scratchUnits * 4096
    let z := s.fusedOf s.who
    let ts := s.drainXlat s.who (bs.map Prod.fst)
    let o := s.wordOp (s.flagOf fs) (.mdrain p acc.toNat f (if pad then .pad else .glob) vd vs pitch [] [] [])
    s.curSlot ≤ 64 → s.settled [d, sc, sp] → s.clean [d, sc, sp] → s.countable fs → s.mayQueue → s.mayAccess true →
    s.accBusy s.curCore p acc.toNat = false → (∀ r ∈ rs, ∀ b ∈ r.bytes ++ r.scales, b.2 = false) →
    vd % 16 = 0 → vs % max 1 (drainScale f) = 0 → drainRow f ≤ pitch → pitch % 16 = 0 → pitch < 2 ^ 32 →
    s.memWf → s.l2Clean → s.scbWf z s.curCore → s.unread (quadOf z s.curCore) (s.nextId + 1) = [] →
    (∀ q ∈ s.ops, q.2.core = s.curCore → ∀ w ∈ ws, q.2.touches (if pad then some p else none) w.1 1 = false) →
    (if pad then vd + (rows - 1) * pitch + drainRow f ≤ top ∧
      (drainScale f ≠ 0 → vs + 2 * rows * drainScale f ≤ top) ∧ ws = bs
      else s.dmode s.who = false ∧ failed ts = [] ∧ ws = ((passed ts).map fun t => t.2.2.pa).zip (bs.map Prod.snd)) →
    ∃ t, exec (.mdrain f (if pad then .pad else .glob) acc d sc sp fs) s = .next t ∧
      t.op s.nextId = some { o with started := true } ∧
      t.me.plain = (s.commit.me.incFlag (s.flagOf fs)).plain ∧
      (∀ x, ((t.panel p).acc x).elem = ((s.panel p).acc x).elem) ∧
      ((t.panel p).acc acc.toNat).q = rs.foldl (fun q r => q ||| r.flags) ((s.panel p).acc acc.toNat).q ∧
      (∀ x off, (t.panel x).scratch.read off = if pad = true ∧ x = p
        then match ws.reverse.find? (fun w => w.1 == off) with | some w => w.2 | none => (s.panel p).scratch.read off
        else (s.panel x).scratch.read off) ∧
      ∀ pa, t.coreByte z s.curCore pa = if pad then s.coreByte z s.curCore pa
        else match ws.reverse.find? (fun w => w.1 == pa) with | some w => w.2 | none => s.coreByte z s.curCore pa

/-- R212, R223, R224, R226: at its turn `MZERO` makes every element 0 and the cursor 0 and ends; `MLOAD` writes its row to every
row, or its scratchpad rows; a register `MDRAIN` takes the band at the cursor, moves the cursor on and ORs the flags into
Q, and delivers the band at its completion.  Where an older operation on the accumulator is in the queue nothing changes. -/
def Claim.EngineOperationsStart : Prop :=
  ∀ (s : State) (id : Nat) (o : Op), s.op id = some o → o.started = false →
    (s.turn id o = false → exec (.engineOpStart id) s = .next s) ∧
    (∀ p a, s.turn id o = true → o.kind = .mzero p a →
      ∃ t, exec (.engineOpStart id) s = .next t ∧ t.op id = none ∧ (t.panel p).acc a = ⟨[], ((s.panel p).acc a).q, 0⟩ ∧
        (∀ x, x ≠ a → (t.panel p).acc x = (s.panel p).acc x) ∧ (s.paired p a = true → (t.panel p).lent.elem = []) ∧
        (t.core o.core).queue = (s.core o.core).queue.filter (· != id) ∧ t.skeins = s.skeins ∧ t.mem = s.mem) ∧
    (∀ p a regs base pitch, s.turn id o = true → o.kind = .mload p a regs base pitch → (∀ ls ∈ regs, ls.length = 64) →
      ∃ t, exec (.engineOpStart id) s = .next t ∧ t.op id = some { o with started := true } ∧
        (∀ i j, i < 64 → j < 64 → ((t.panel p).acc a).dense.getD (64 * i + j) Lane.zero = match regs with
          | some ls => ls.getD j Lane.zero
          | none => ⟨BitVec.ofNat 32 (leNat ((s.panel p).scratch.readN (base + i * pitch + 4 * j) 4)), false⟩) ∧
        ((t.panel p).acc a).band = 0 ∧ ((t.panel p).acc a).q = ((s.panel p).acc a).q ∧
        (∀ x, x ≠ a → (t.panel p).acc x = (s.panel p).acc x) ∧ t.skeins = s.skeins ∧ t.mem = s.mem) ∧
    (∀ p a f dst sc pitch keys scKeys got, s.turn id o = true → o.kind = .mdrain p a f .regs dst sc pitch keys scKeys got →
      let bands := if s.paired p a then 8 else 4
      let n := ((s.panel p).acc a).band.toNat % bands
      let rs := s.drainRows p a f (16 * n) 16
      let ws := streamLanes (rs.flatMap DrainRow.bytes) keys ++ streamLanes (rs.flatMap DrainRow.scales) scKeys
      ∃ t, exec (.engineOpStart id) s = .next t ∧
        t.op id = some { o with started := true, kind := .mdrain p a f .regs dst sc pitch keys scKeys ws } ∧
        ((t.panel p).acc a).elem = ((s.panel p).acc a).elem ∧
        ((t.panel p).acc a).band.toNat = (n + 1) % bands ∧
        ((t.panel p).acc a).q = rs.foldl (fun q r => q ||| r.flags) ((s.panel p).acc a).q ∧
        (∀ x, x ≠ a → (t.panel p).acc x = (s.panel p).acc x) ∧ t.skeins = s.skeins ∧ t.mem = s.mem)

/-- R84, R85, R224, R226, R227: an `MLOAD` or `MDRAIN` that has been performed leaves the queue at its completion, and its flag
falls; what a drain has taken to the registers stands there then, but where a later write has won.  Before that nothing
changes. -/
def Claim.EngineCompletions : Prop :=
  ∀ (s : State) (id : Nat) (o : Op) (k : Skein) (i : Instr) (got : List (Nat × Lane)), s.op id = some o →
    Tab.find? o.sk s.skeins = some k → o.entry = none →
    ((∃ p a r b q, o.kind = .mload p a r b q) ∧ got = [] ∧ i = .mloadComplete id ∨
      (∃ p a f g d sc q ks sks, o.kind = .mdrain p a f g d sc q ks sks got) ∧ i = .mdrainComplete id) →
    (o.started = false → exec i s = .next s) ∧
    (o.started = true → ∃ t, exec i s = .next t ∧ t.op id = none ∧
      (t.core o.core).queue = (s.core o.core).queue.filter (· != id) ∧
      (∀ n, (t.skein o.sk).flag n = if o.flag = some n then k.flag n - 1 else k.flag n) ∧
      (∀ n, (t.skein o.sk).lane n = match got.reverse.find? (fun w => w.1 == n && !o.lost.contains n) with
        | some w => w.2 | none => k.lane n) ∧
      { t.skein o.sk with f := k.f, v := k.v, vtag := k.vtag } = k ∧ (∀ n, n ≠ o.sk → t.skein n = s.skein n) ∧ t.mem = s.mem ∧
        t.panels = s.panels)

/-- R212, R223, R224, R226: operations on an accumulator at their turn, and at their completion. -/
def Obligations.EngineOperationsRun : Prop :=
  Claim.EngineOperationsStart ∧ Claim.EngineCompletions

/-- R218 to R220, Table 7.5: at its turn an `MMAT` outside its limits ends with the status and detail of R219,
  and any other begins,
reading and clearing Q; at an interruptible point a cancelled one ends CANCELLED with its progress, a stopped one stands,
and another takes its next 16 steps; at its completion the last steps are taken and the handle holds OK, or CANCELLED
where it is cancelled and its last step ends at a boundary, with the flags read and every step counted. -/
def Obligations.MmatRunsInSteps : Prop :=
  ∀ (s : State) (id : Nat) (o : Op) (m : Mmat), s.op id = some o → o.kind = .mmat m → s.turn id o = true →
    let pan := s.panel m.panel
    let els := s.accElems m.panel m.acc m.pair
    (∀ st det, m.begun = false → m.stop = false → m.refusal (pan.scratchUnits * 4096) = some (st, det) →
      ∃ t, exec (.mmatBegin id) s = .next t ∧ Resolved s t id o.core (statusWord st det 0 0) ∧ t.panels = s.panels ∧
        t.mem = s.mem) ∧
    (m.begun = false → m.stop = false → m.refusal (pan.scratchUnits * 4096) = none →
      ∃ t, exec (.mmatBegin id) s = .next t ∧
        t.op id = some { o with kind := .mmat { m with begun := true, qread := (pan.acc m.acc).q } } ∧
        (t.panel m.panel).acc m.acc = { pan.acc m.acc with q := 0 } ∧ t.skeins = s.skeins ∧ t.mem = s.mem) ∧
    (m.begun = true → m.cancel = true → ∃ t, exec (.mmatInterruptiblePoint id) s = .next t ∧
      Resolved s t id o.core (statusWord 1 0 m.qread.toNat m.steps) ∧ t.panels = s.panels ∧ t.mem = s.mem) ∧
    (m.begun = true → m.cancel = false → (m.stop = true ∨ m.total ≤ m.steps + 16) →
      exec (.mmatInterruptiblePoint id) s = .next s) ∧
    (m.begun = true → m.cancel = false → m.stop = false → m.steps + 16 < m.total →
      ∃ t, exec (.mmatInterruptiblePoint id) s = .next t ∧
        t.op id = some { o with kind := .mmat { m with steps := m.steps + 16 } } ∧
        t.accElems m.panel m.acc m.pair = m.run (m.view pan) 16 m.steps els ∧
        (∀ n r, let x := Tab.get Scalar.zero (s.skein n).s r
          Tab.get Scalar.zero (t.skein n).s r = if x.pend = some id then { x with val := handleWord 0 (m.steps + 16) } else x) ∧
        t.mem = s.mem) ∧
    (m.begun = true → m.stop = false → m.total ≤ m.steps + 16 →
      ∃ t, exec (.mmatComplete id) s = .next t ∧ Resolved s t id o.core (statusWord
        (if m.cancel = true ∧ m.total ≠ 0 ∧ m.total % 16 = 0 then 1 else 0) 0 m.qread.toNat m.total) ∧
        t.accElems m.panel m.acc m.pair = m.run (m.view pan) (m.total - m.steps) m.steps els ∧ t.mem = s.mem)

/-- R19, R228, R229, Table 7.5: `FWAIT` waits while its scalar is pending and else does nothing; `FTEST` gives 0 for a pending
scalar and 1 for another; `FCANCEL` ends an `MMAT` that has not begun as CANCELLED, marks one that has, leaves every other
operation alone, and raises POISON on a poisoned scalar.  A completed handle holds its status, detail,
  flags and progress in the fields of Table 7.5. -/
def Obligations.FuturesAreTested : Prop :=
  (∀ (a : SReg) (s : State), ((s.sreg a).pend = none → exec (.fwait a) s = .next s) ∧
    ((s.sreg a).pend ≠ none → exec (.fwait a) s = .next (s.hold (.future a)))) ∧
  (∀ (d a : SReg) (s : State), s.settled [d] → exec (.ftest d a) s =
    .next (s.pend 2 (.scalar d.toNat ⟨if (s.sreg a).pend = none then 1 else 0, false, none⟩ none))) ∧
  (∀ (a : SReg) (s : State), s.mayCommit → (s.sreg a).poison = true → s.trappable →
    ∃ t addr, exec (.fcancel a) s = .next t ∧
      TookTrap s t 2 ((s.sreg a).val.extractLsb' 24 8).toNat ((s.sreg a).val.extractLsb' 19 5).toNat addr s.curPc) ∧
  (∀ (a : SReg) (s : State), s.mayCommit → (s.sreg a).poison = false →
    ((s.sreg a).pend = none → exec (.fcancel a) s = .next s.commit) ∧
    (∀ id o, (s.sreg a).pend = some id → s.op id = some o →
      ((∀ m, o.kind ≠ .mmat m) → exec (.fcancel a) s = .next s.commit) ∧
      (∀ m, o.kind = .mmat m → m.begun = true →
        exec (.fcancel a) s = .next (s.commit.setOp id { o with kind := .mmat { m with cancel := true } })) ∧
      (∀ m, o.kind = .mmat m → m.begun = false →
        ∃ t, exec (.fcancel a) s = .next t ∧ Resolved s t id o.core (statusWord 1 0 0 0) ∧ t.mem = s.mem))) ∧
  (∀ st det fl pr, st < 256 → det < 256 → fl < 32 → pr < 2 ^ 32 →
    let w := statusWord st det fl pr
    w.getLsbD 63 = true ∧ (w.extractLsb' 48 8).toNat = st ∧ (w.extractLsb' 40 8).toNat = det ∧
      (w.extractLsb' 32 5).toNat = fl ∧ (w.extractLsb' 0 32).toNat = pr)

/-! ### Collectives and the seal engine -/

/-- R231, R233, R213, R234, R277: `COLL` releases, so that every byte of the core stands at its home, and enters the queue with
its parameters and its count among the participant's collectives of its tag; `CSEAL` and `COPEN` enter the queue with
theirs.  The destination of each is pending on its handle, which names its kind. -/
def Obligations.CollectiveAndSealWordsEnterTheQueue : Prop :=
  (∀ (kind : CollKind) (rop : CollOp) (scope : CollScope) (d a : SReg) (s : State),
    s.settled [d, a, a + 1, a + 2, a + 3] → s.clean [a, a + 1, a + 2, a + 3] → s.mayQueue → s.mayAccess true →
    s.mayRelease → s.memWf → s.l2Clean → s.scbWf (s.fusedOf s.who) s.curCore →
    let c := s.collReq kind rop scope a
    ∃ t id o, exec (.coll kind rop scope d a) s = .next t ∧ t.op id = some o ∧ o.kind = .coll c ∧ o.sk = s.curKey ∧
      o.core = s.curCore ∧ o.staged = s.dmode s.who ∧ t.myCore.queue = s.myCore.queue ++ [id] ∧
      t.me.plain = (s.commit.sent 1 (.scalar d.toNat ⟨0x1000000000000000, false, some id⟩ none)).plain ∧
      Tab.get 0 t.collRounds (collKey c.tag s.me.panel s.me.idx) = c.round + 1 ∧
      t.myCore.scb = [] ∧ ∀ pa, t.mem.homeByte pa = (s.myCore.scbByte pa).getD (s.mem.homeByte pa)) ∧
  (∀ (i : Instr) (d a : SReg) (w : Dword) (f : SealReq → OpKind) (s : State),
    (i = .cseal d a ∧ w = 0x2000000000000000 ∧ f = OpKind.cseal) ∨
      (i = .copen d a ∧ w = 0x3000000000000000 ∧ f = OpKind.copen) →
    s.settled [d, a, a + 1, a + 2, a + 3] → s.clean [a, a + 1, a + 2, a + 3] →
    (s.mayQueue → ∃ t, exec i s = .next t ∧ Queued s t
      (s.commit.sent 1 (.scalar d.toNat ⟨w, false, some s.nextId⟩ none)) (s.wordOp none (f (s.sealReq a)))) ∧
    (s.mayCommit → 16 ≤ s.myCore.queue.length → exec i s = .next (s.hold .queueFull)))

/-- R231, R233, R276, R278, R369: at `COLL_COMPLETE` a collective with a parameter outside Table 7.6 ends in BADOP, one whose
participants disagree in MISMATCH for each of them and for those still to come, and one that some participant has still to
issue, or that reduced service holds, stands; a collective of one package whose participants have all issued and agree gives
every participant the result of all send buffers, and the status OK, and changes no other byte.  In deterministic mode
neither handles nor bytes change: what it has come to waits for a commit. -/
def Obligations.CollectivesComplete : Prop :=
  ∀ (s : State) (id : Nat) (o : Op) (c : CollReq), s.op id = some o → o.kind = .coll c → o.staged = false → c.out = none →
    let ctx := s.ctxOf o.who
    let g := s.collGroup o c
    let held := decide (c.scope ≠ .die) && s.host.status.getLsbD 3
    let left := s.collLeft ctx c.tag c.round
    let fails := left.isSome || s.collLost ctx c || collDisagrees g (s.remoteSends c)
    let eager := ∀ q ∈ g, s.dmode q.2.1.who = false
    let ended := fun (t : State) (w : Dword) => ∀ q ∈ g, t.op q.1 = none ∧
      ∀ n r, (Tab.get Scalar.zero (s.skein n).s r).pend = some q.1 → Tab.get Scalar.zero (t.skein n).s r = ⟨w, false, none⟩
    (held = true → exec (.collComplete id) s = .next s) ∧
    (held = false → c.bad = true → s.dmode o.who = false → ∃ t det, exec (.collComplete id) s = .next t ∧
      Resolved s t id o.core (statusWord 2 det 0 0) ∧ t.mem.homeByte = s.mem.homeByte) ∧
    (held = false → c.bad = false → fails = true → eager →
      ∃ t, exec (.collComplete id) s = .next t ∧ ended t (statusWord 5 0 0 0) ∧ t.mem.homeByte = s.mem.homeByte ∧
        (∀ n, left = some n → t.collLeft ctx c.tag c.round = if n ≤ g.length then none else some (n - g.length))) ∧
    (held = false → c.bad = false → fails = false → g.length + (s.remoteSends c).length < c.n →
      exec (.collComplete id) s = .next s) ∧
    (∀ (src dst : Nat → List Nat), held = false → c.bad = false → fails = false → c.scope ≠ .pod → g.length = c.n →
      s.memWf → s.l2Clean → ((List.range c.n).flatMap dst).Nodup →
      (∀ q ∈ g, failed (s.collSends q.2.1.who q.2.2) = [] ∧
        (passed (s.collSends q.2.1.who q.2.2)).map (fun x => x.2.2.pa) = src q.2.2.part ∧
        failed (s.collRecvs q.2.1.who q.2.2) = [] ∧
        (passed (s.collRecvs q.2.1.who q.2.2)).map (fun x => x.2.2.pa) = dst q.2.2.part) →
      let all := (List.range c.n).map fun p => (src p).map s.mem.homeByte
      (eager → ∃ t, exec (.collComplete id) s = .next t ∧ ended t (statusWord 0 0 0 0) ∧
        (∀ q ∈ g, ∀ i, i < (dst q.2.2.part).length → t.mem.homeByte ((dst q.2.2.part).getD i 0) =
          (q.2.2.result (s.dmode o.who) s.tick all).getD i 0) ∧
        ∀ pa, (∀ p, p < c.n → pa ∉ dst p) → t.mem.homeByte pa = s.mem.homeByte pa) ∧
      ((∀ q ∈ g, s.dmode q.2.1.who = true) → (g.map Prod.fst).Nodup → ∃ t, exec (.collComplete id) s = .next t ∧
        t.skeins = s.skeins ∧ t.mem.homeByte = s.mem.homeByte ∧
        ∀ q ∈ g, t.op q.1 = some { q.2.1 with kind := .coll { q.2.2 with out := some (statusWord 0 0 0 0,
          (dst q.2.2.part).zip (q.2.2.result true s.tick all)) } }))

/-- R235, R236: at `CSEAL_COMPLETE` a context that the world of the core does not own ends in DENIED, parameters outside Table
7.7 or a target that is not halted in BADOP; else, once the copies of its target have ended, the image of Table 7.10 stands
at its addresses and at no other, under the counter, which segment 0 has moved on, and the handle holds OK with the length
of the payload. -/
def Obligations.SealsComplete : Prop :=
  ∀ (s : State) (id : Nat) (o : Op) (r : SealReq), s.op id = some o → o.kind = .cseal r →
    (s.context (s.ctxOf o.who)).life ≠ .saving →
    let c := s.context r.ctx
    let counter := if r.seg = 0 then c.counter + 1 else c.counter
    let text := s.payload r
    let image := sealImage (s.ctxKey r.ctx) r counter.toNat (s.core o.core).world text
    (s.ownsContext o.core r.ctx = false ∨ r.seg = 0 ∧ c.counter = 0xFFFFFFFF →
      ∃ t, exec (.csealComplete id) s = .next t ∧ Resolved s t id o.core (statusWord 8 0 0 0) ∧ t.mem = s.mem ∧
        t.contexts = s.contexts) ∧
    (s.ownsContext o.core r.ctx = true → (r.seg = 0 → c.counter ≠ 0xFFFFFFFF) → r.bad = true ∨ s.targetHalted r = false →
      ∃ t det, exec (.csealComplete id) s = .next t ∧ Resolved s t id o.core (statusWord 2 det 0 0) ∧ t.mem = s.mem ∧
        t.contexts = s.contexts) ∧
    (s.ownsContext o.core r.ctx = true → (r.seg = 0 → c.counter ≠ 0xFFFFFFFF) → r.bad = false → s.targetHalted r = true →
      s.sealWaits r = true → exec (.csealComplete id) s = .next s) ∧
    (∀ as : List Nat, s.ownsContext o.core r.ctx = true → (r.seg = 0 → c.counter ≠ 0xFFFFFFFF) → r.bad = false →
      s.targetHalted r = true → s.sealWaits r = false → s.withdrawFor r = some s → as.length = image.length → as.Nodup →
      s.memWf → s.l2Clean → failed (s.imageWrites o r.image image.length) = [] →
      (passed (s.imageWrites o r.image image.length)).map (fun x => x.2.2.pa) = as →
      ∃ t, exec (.csealComplete id) s = .next t ∧ Resolved s t id o.core (statusWord 0 0 0 text.length) ∧
        (∀ n, n < image.length → t.mem.homeByte (as.getD n 0) = image.getD n 0) ∧
        (∀ pa, pa ∉ as → t.mem.homeByte pa = s.mem.homeByte pa) ∧
        t.context r.ctx = { c with counter := counter } ∧ t.panels = s.panels)

/-- R235, R237: `COPEN` of an image that was sealed for its context, segment and target under the present counter puts the
payload that was sealed in place of the target's state, and holds OK; a header that differs ends in BADOP, an older counter in
STALE, and a changed byte of the payload in TAG unless its tag is the same, each with nothing of the target changed.  What a
register segment, and a scratchpad segment, had held is what it then holds. -/
def Obligations.OpensRestoreWhatWasSealed : Prop :=
  (∀ (s : State) (id : Nat) (o : Op) (r : SealReq) (h cipher text : List Byte),
    s.op id = some o → o.kind = .copen r → s.ownsContext o.core r.ctx = true → r.bad = false → s.targetHalted r = true →
    s.readImage o r.image 64 = .ok h →
    let n := s.segLength r (fieldOf h 20 4)
    let key := s.ctxKey r.ctx
    let world := (s.core o.core).world
    let counter := (s.context r.ctx).counter.toNat
    s.readImage o (r.image + 64) n = .ok cipher →
    (text.length = n → h ++ cipher = sealImage key r counter world text →
      exec (.copenComplete id) s = .next ((s.loadSegment r text).endHandle id o (statusWord 0 0 0 n))) ∧
    (h.take 32 ≠ sealAad r (fieldOf h 12 4) n world →
      ∃ t, exec (.copenComplete id) s = .next t ∧ Resolved s t id o.core (statusWord 2 6 0 0) ∧ t.panels = s.panels ∧
        t.mem = s.mem) ∧
    (h.take 32 = sealAad r (fieldOf h 12 4) n world → (∀ b ∈ h.drop 48, b = 0) → fieldOf h 12 4 ≠ counter →
      ∃ t, exec (.copenComplete id) s = .next t ∧ Resolved s t id o.core (statusWord 6 0 0 0) ∧ t.panels = s.panels ∧
        t.mem = s.mem) ∧
    (h.take 32 = sealAad r counter n world → (∀ b ∈ h.drop 48, b = 0) → fieldOf h 12 4 = counter →
      gcmTag key (sealNonce r.ctx counter r.seg) (sealAad r counter n world) cipher ≠ (h.drop 32).take 16 →
      ∃ t, exec (.copenComplete id) s = .next t ∧ Resolved s t id o.core (statusWord 7 0 0 n) ∧ t.panels = s.panels ∧
        t.mem = s.mem)) ∧
  (∀ (s u : State) (r : SealReq) (k : Nat), r.kind = 0 → u.skeinOf r.panel r.skein = some k →
    s.skeinOf r.panel r.skein = some k → ∀ x, x < 2048 →
      ((u.loadSegment r (s.payload r)).skein k).lane x = (s.skein k).lane x) ∧
  (∀ (s u : State) (r : SealReq), r.kind = 2 → u.memWf → ∀ off,
    ((u.loadSegment r (s.payload r)).panel r.panel).scratch.read off =
      if r.off ≤ off ∧ off < r.off + r.len then (s.panel r.panel).scratch.read off
      else (u.panel r.panel).scratch.read off)

/-! ### The trap skein's words, and how skeins halt and end -/

/-- R145, R353, Table 13.2: a system register reads what the core holds,
  two cycles later; `tscratch` takes a value; `haltreq` asks
every named skein of the panel to halt and waits while one has not; `errpost` writes a record of class 0x0E with its value
as the detail.  Each write ends the region. -/
def Claim.SystemRegistersReadAndWrite : Prop :=
  (∀ x : SReg, ScalarConst (.sysr x .trapcause) x (fun s => s.myCore.cause) ∧
    ScalarConst (.sysr x .trappc) x (fun s => s.myCore.trapPc.setWidth 64) ∧
    ScalarConst (.sysr x .trapaddr) x (fun s => s.myCore.trapAddr) ∧
    ScalarConst (.sysr x .trapbase) x (fun s => (s.myLaunch.trapbase.getD 0).setWidth 64) ∧
    ScalarConst (.sysr x .halted) x (fun s => BitVec.ofNat 64 s.haltedMask) ∧
    ScalarConst (.sysr x .trapq) x (fun s => BitVec.ofNat 64 s.myCore.trapQ.length) ∧
    ∀ n, ScalarConst (.sysr x (.tscratch n)) x (fun s => Tab.get 0 s.myCore.tscratch n.toNat)) ∧
  (∀ (x : SReg) (s : State), s.settled [x] → s.clean [x] → s.mayCommit →
    let v := (s.sreg x).val
    let named := fun (k : Skein) => k.panel = s.me.panel ∧ k.slot ≠ 64 ∧ v.getLsbD k.idx = true ∧ k.halted = false ∧
      k.exiting = false
    (∀ n, exec (.sysw (.tscratch n) x) s =
      .next (s.commit.setCore s.curCore { s.myCore with tscratch := Tab.put n.toNat v s.myCore.tscratch })) ∧
    ((∀ q ∈ s.skeins, ¬ named q.2) → exec (.sysw .haltreq x) s = .next s.commit) ∧
    ((∃ q ∈ s.skeins, named q.2) → ∃ t, exec (.sysw .haltreq x) s = .next t ∧ t.sig = .held .haltreq ∧
      ∀ n k, Tab.find? n s.skeins = some k → ((t.skein n).haltReq = true ↔ k.haltReq = true ∨ named k)) ∧
    (s.canRecord → s.myCtx < 2 ^ 32 → ∃ t, exec (.sysw .errpost x) s = .next t ∧ t.me = s.commit.me ∧
      Recorded s t 0x0E 0 s.curCore s.myPanel.launch ∧
      ((s.context s.myCtx).world = 0 → leNat (t.mem.host.readN (s.host.errRing.slot 64 + 32) 8) = v.toNat)))

/-- R144, R147, Table 4.7: `XREAD` gives what its selector names of a halted skein of the trapped panel, poison with it,
  a register's
lanes to the lanes active in the trap skein; of any other skein it gives 0.  `XWRITE` changes what its selector names of such a skein, a scalar
keeping its future, `em` and `pm` their 32 bits, and of any other skein nothing. -/
def Claim.TargetsAreReadAndWritten : Prop :=
  (∀ (sel : XSel) (f : Skein → Dword),
    (∃ n, sel = .f n ∧ f = fun k => BitVec.ofNat 64 (k.flag n.val)) ∨ (∃ n, sel = .pc n ∧
      f = fun k => (k.pcOf n.toNat).setWidth 64) ∨
      (sel, f) ∈ [(XSel.gangmap, fun k : Skein => k.gangmap.setWidth 64), (.exited, fun k => k.exited.setWidth 64),
        (.patternA, fun k => k.patA), (.patternB, fun k => k.patB), (.meldopen, fun k => if k.meldOpen then 1 else 0),
        (.regionPc, fun k => k.regionPc.setWidth 64), (.regionCount, fun k => k.regionCount.setWidth 64),
        (.status, fun k => k.status), (.stop, Skein.stopWord), (.batchstate, Skein.batchWord)] ∨
      (∃ i w, sel = .accession i w ∧ f = fun k => Tab.get 0 k.accession (4 * i.toNat + w.toNat)) →
    ∀ x a : SReg, GivesScalar (.xread x a sel) 2 x [a, x]
      (fun s => ⟨match s.target? (s.sreg a).val with | some k => f (s.skein k) | none => 0, false, none⟩) fun _ => 0) ∧
  (∀ x a n : SReg, GivesScalar (.xread x a (.s n)) 2 x [a, x]
    (fun s => match s.target? (s.sreg a).val with
      | some k => { (s.skein k).sreg n with pend := none }
      | none => ⟨0, false, none⟩) fun _ => 0) ∧
  (∀ (x n : BitVec 6) (a : SReg), GivesLanes (.xread x a (.v n)) 2 [a]
    (fun s => s.each x fun l => match s.target? (s.sreg a).val with
      | some k => (s.skein k).lane (laneKey n.toNat l)
      | none => ⟨0, false⟩) fun _ => 0) ∧
  (∀ (s : State) (v : Dword), (∀ k, s.target? v = some k → v.toNat < 32 ∧ (s.skein k).halted = true) ∧
    ((∀ q ∈ s.skeins, q.2.panel ≠ s.me.panel ∨ q.2.idx ≠ v.toNat ∨ q.2.slot = 64) → s.target? v = none)) ∧
  (∀ (x : BitVec 6) (a : SReg) (s : State), s.settled [a, x] → s.mayCommit →
    (s.target? (s.sreg a).val = none → ∀ sel, exec (.xwrite sel a x) s = .next s.commit) ∧
    ∀ k, s.target? (s.sreg a).val = some k →
      let old := s.skein k
      let v := (s.sreg x).val
      let only := fun (t : State) => ∀ m, m ≠ k → m ≠ s.curKey → t.skein m = s.skein m
      (∀ n, ∃ t, exec (.xwrite (.v n) a x) s = .next t ∧ only t ∧ ∀ j l, l < 32 →
        (t.skein k).lane (laneKey j l) = if j = n.toNat ∧ l ∈ s.lanes then s.vlane x l else old.lane (laneKey j l)) ∧
      (∀ n : SReg, ∃ t, exec (.xwrite (.s n) a x) s = .next t ∧ only t ∧ ∀ r : SReg, (t.skein k).sreg r =
        if r = n ∧ n ≠ regZero then
          (if n = regEm ∨ n = regPm then ⟨v &&& 0xFFFFFFFF, false, none⟩ else { s.sreg x with pend := (old.sreg n).pend })
        else old.sreg r) ∧
      (∃ t, exec (.xwrite .status a x) s = .next t ∧ only t ∧ (t.skein k).status = v &&& 0x1F0F) ∧
      (∃ t, exec (.xwrite .patternA a x) s = .next t ∧ only t ∧ (t.skein k).patA = v) ∧
      (∃ t, exec (.xwrite .patternB a x) s = .next t ∧ only t ∧ (t.skein k).patB = v) ∧
      (∃ t, exec (.xwrite .meldopen a x) s = .next t ∧ only t ∧ (t.skein k).meldOpen = v.getLsbD 0) ∧
      (∃ t, exec (.xwrite .regionPc a x) s = .next t ∧ only t ∧ (t.skein k).regionPc = v.setWidth 53 ∧
        (t.skein k).regionRec = ⟨0, 0, 0⟩) ∧
      (∃ t, exec (.xwrite .regionCount a x) s = .next t ∧ only t ∧ (t.skein k).regionCount = v.setWidth 32))

/-- R144, R145, R147: system registers, and the state of a halted skein. -/
def Obligations.TrapSkeinWords : Prop :=
  Claim.SystemRegistersReadAndWrite ∧ Claim.TargetsAreReadAndWritten

/-- R148, R73, R230, R330: `XRESUME` lets a halted skein of the trapped panel go on with every slice that has not exited in one
gang at the given packet, or at its region's entry within the clause recorded there; its queued traps are discarded, and a
scalar that is pending on nothing takes a token with code 0x09.  Of any other skein it changes nothing. -/
def Claim.HaltedSkeinsResume : Prop :=
  ∀ (i : Instr) (a x : SReg) (s : State), i = .xresumePc a x ∨ i = .xresumeEntry a → s.settled [a, x] → s.mayCommit →
    (s.target? (s.sreg a).val = none → exec i s = .next s.commit) ∧
    ∀ k, s.target? (s.sreg a).val = some k →
      let old := s.skein k
      let at_ := if i = .xresumePc a x then (s.sreg x).val.setWidth 53 else old.regionPc
      let rec_ : ClauseRec := if i = .xresumePc a x then ⟨0, 0, 0⟩ else old.regionRec
      ∃ t, exec i s = .next t ∧ (t.skein k).halted = false ∧ (t.skein k).trapped = false ∧
        ((s.context (s.launch (s.panel old.panel).launch).block.context).life ≠ .saving → (t.skein k).haltReq = false) ∧
        (∀ sl, sl < 8 → (t.skein k).pcOf sl = if old.live sl then at_ else old.pcOf sl) ∧
        (∀ sl, sl < 8 → old.live sl = true → (t.skein k).gangOf sl = leadOf old.liveMask) ∧
        (t.skein k).exited = old.exited ∧
        (old.liveMask ≠ 0 → (t.skein k).gangs = [(leadOf old.liveMask, if rec_.left = 0 then Cursor.empty
          else { Cursor.empty with phase := .resume rec_.left, setA := rec_.setA, setB := rec_.setB })]) ∧
        (∀ r : SReg, r ≠ regZero → (t.skein k).sreg r = match (old.sreg r).pend with
          | some id => if (s.op id).isSome then old.sreg r else ⟨0x09F80000, true, none⟩
          | none => old.sreg r) ∧
        (∀ key, (t.skein k).lane key = old.lane key) ∧
        (∀ q ∈ (t.core (k / 65)).trapQ, q.names = true ∨ q.panel ≠ old.panel ∨ q.skein ≠ old.idx) ∧
        ∀ m, m ≠ k → m ≠ s.curKey → t.skein m = s.skein m

/-- R145, R126, R205, R337, R340, R346, R347: a skein that was asked to halt does so at a packet boundary, with a HALT trap of
code 0, or for a save with none, at the region entry where the debugger has stopped it within a packet; one whose last
slices have exited is gone once all it has in flight has ended, and with the last of a panel the panel gives up its place,
but a failed batch raises its FAULT first; the trap skein that exits leaves its core, and no panel.  A breakpoint stops its
gang before the packet issues, with every result that has issued visible, and a second one of the skein without a report. -/
def Claim.SkeinsHaltAndEnd : Prop :=
  (∀ (sk : Nat) (s : State) (k : Skein), Tab.find? sk s.skeins = some k → k.haltReq = true → k.halted = false →
    let stands := fun (save : Bool) => k.leaders.all fun g => (k.cursor g).between || (k.cursor g).wait.isSome ||
      (save && (k.cursor g).stop)
    let stopped := fun (t : State) => (t.skein sk).halted = true ∧ (t.skein sk).gangs = [] ∧ (t.skein sk).haltReq = false ∧
      ∀ m, m ≠ sk → t.skein m = s.skein m
    (stands (s.savingPanel k.panel) = false → exec (.skeinHalt sk) s = .next s) ∧
    (stands false = true → s.savingPanel k.panel = false → sk % 65 ≠ 64 →
      (s.launch (s.panel k.panel).launch).trapbase.isSome = true →
      ∃ t r, exec (.skeinHalt sk) s = .next t ∧ stopped t ∧ (∀ sl, sl < 8 → (t.skein sk).pcOf sl = k.pcOf sl) ∧
        t.core (sk / 65) = { s.core (sk / 65) with trapQ := (s.core (sk / 65)).trapQ ++ [r] } ∧
        (r.cause.extractLsb' 0 4).toNat = 9 ∧ (r.cause.extractLsb' 16 12).toNat = 0 ∧ r.addr = 0 ∧ r.panel = k.panel ∧
        r.skein = k.idx) ∧
    (stands true = true → s.savingPanel k.panel = true →
      ∃ t, exec (.skeinHalt sk) s = .next t ∧ stopped t ∧ t.cores = s.cores ∧
        ∀ sl, sl < 8 → (t.skein sk).pcOf sl = if stands false = false ∧ k.live sl = true then k.regionPc else k.pcOf sl)) ∧
  (∀ (sk : Nat) (s : State) (k : Skein), Tab.find? sk s.skeins = some k → k.exiting = true → k.halted = false →
    (s.endDue sk = false → exec (.skeinEnd sk) s = .next s) ∧
    (s.quiet sk = true → sk % 65 ≠ 64 → s.trapFor k.panel = false → s.endDue sk = true) ∧
    (s.endDue sk = true → (∀ b ∈ k.batches ++ [k.openBatch], b.failed = false) →
      let left := (s.panel k.panel).skeinsLeft.filter (· != k.idx)
      ∃ t, exec (.skeinEnd sk) s = .next t ∧ t.mem = s.mem ∧
        (sk % 65 = 64 → t.hasSkein (skKey k.core 64) = false ∧ (t.core k.core).serving = none ∧ t.panels = s.panels) ∧
        (sk % 65 ≠ 64 → t.hasSkein sk = false ∧
          (left ≠ [] → t.panel k.panel = { s.panel k.panel with skeinsLeft := left } ∧ ∀ m, m ≠ sk → t.skein m = s.skein m) ∧
          (left = [] → (t.panel k.panel).life = .ended ∧ (t.panel k.panel).slots = [] ∧ (t.panel k.panel).accs = [] ∧
            (t.panel k.panel).spools = []))) ∧
    (∀ l b l', s.endDue sk = true → k.batches ++ [k.openBatch] = l ++ b :: l' → (∀ c ∈ l, c.failed = false) →
      b.failed = true → sk % 65 ≠ 64 → (s.launch (s.panel k.panel).launch).trapbase.isSome = true →
      ∃ t r, exec (.skeinEnd sk) s = .next t ∧ (t.skein sk).halted = true ∧
        t.core (sk / 65) = { s.core (sk / 65) with trapQ := (s.core (sk / 65)).trapQ ++ [r] } ∧
        (r.cause.extractLsb' 0 4).toNat = 8 ∧ (r.cause.extractLsb' 16 12).toNat = b.code.toNat ∧ r.addr = b.addr)) ∧
  (∀ (sk gang : Nat) (s : State) (k : Skein), Tab.find? sk s.skeins = some k →
    let brk := fun (n : Nat) => (Tab.get 0 (s.core (sk / 65)).brk n : Dword)
    let hit := fun n => (brk n).getLsbD 63 = true ∧ (brk n).extractLsb' 0 53 = k.pcOf gang
    (∀ n, n < 4 → hit n → (∀ j, j < n → ¬ hit j) → (k.cursor gang).phase = .running → (k.cursor gang).between = true →
      (k.cursor gang).passed = false → k.activeLanes gang ≠ [] → (s.launch (s.panel k.panel).launch).attached = true →
      (s.core (sk / 65)).debugReg.getLsbD 0 = true →
      ∃ t, exec (.breakpointFire sk gang) s = .next t ∧
        ((t.skein sk).cursor gang).stop = true ∧ ((t.skein sk).cursor gang).passed = true ∧ (t.skein sk).pc = k.pc ∧
        (k.stopped = false → (t.skein sk).stopped = true ∧ (t.skein sk).v = k.flush.v ∧ (t.skein sk).s = k.flush.s ∧
          (t.skein sk).status = k.flush.status ∧ (t.skein sk).pending = [] ∧ t.vit.sel = sk ∧
          t.vit.out.length = s.vit.out.length + 1 ∧
          ∀ m, m ≠ sk → t.skein m = if (s.core (sk / 65)).debugReg.getLsbD 1 = true ∧ s.hasSkein m = true ∧
            (s.skein m).panel = k.panel then { s.skein m with dbgHold := true } else s.skein m) ∧
        (k.stopped = true → s.steps sk gang = false → t.vit = s.vit ∧ ∀ m, m ≠ sk → t.skein m = s.skein m)) ∧
    ((∀ n, n < 4 → ¬ hit n) → exec (.breakpointFire sk gang) s = .next s))

/-- R148, R145, R126, R205, R346: how skeins halt, resume and end. -/
def Obligations.SkeinsHaltResumeAndEnd : Prop :=
  Claim.HaltedSkeinsResume ∧ Claim.SkeinsHaltAndEnd

/-! ### Translation, the driver's answers, and the memory's own events -/

/-- R301, R299, R302, R268, R288: a walk that ends changes no translation, and the core then holds the page, which a quad may
have held already; a table entry stands at its address once it is updated; a shootdown leaves no core and no quad with a
translation of the range and nothing buffered, and waits for what was translated under it and is still to be performed; a
guest update takes effect once none that happens before it is still on its way. -/
def Claim.TablesAndTranslationsChange : Prop :=
  (∀ (id : Nat) (s : State) (w : Walk), Tab.find? id s.walks = some w →
    (∀ t ∈ (s.core w.core).tlb, t.ctx ≠ w.ctx ∨ t.page ≠ w.page) →
    ((∀ t ∈ s.quadTlb w.core, t.ctx ≠ w.ctx ∨ t.page ≠ w.page) → w.page < 2 ^ 45 →
      ∃ t, exec (.walkComplete id) s = .next t ∧ Tab.find? id t.walks = none ∧ t.mem = s.mem ∧ t.skeins = s.skeins ∧
        (t.core w.core).tlb.length ≤ max 128 (s.core w.core).tlb.length ∧
        (t.quadTlb w.core).length ≤ max 4096 (s.quadTlb w.core).length ∧
        ∀ va n x, s.translateAt w.core w.ctx va n = .ok x → va % 2 ^ 57 / 4096 = w.page →
          (∃ y, t.translateAt w.core w.ctx va n = .ok y ∧ y.pa = x.pa) ∧
          (∃ e ∈ (t.core w.core).tlb, e.ctx = w.ctx ∧ e.page = w.page) ∧
          ∃ e ∈ t.quadTlb w.core, e.ctx = w.ctx ∧ e.page = w.page) ∧
    (∀ e l l', s.quadTlb w.core = l ++ e :: l' → e.ctx = w.ctx → e.page = w.page →
      (∀ t ∈ l, t.ctx ≠ w.ctx ∨ t.page ≠ w.page) →
      ∃ t, exec (.walkComplete id) s = .next t ∧ e ∈ (t.core w.core).tlb ∧ t.quadTlb w.core = s.quadTlb w.core)) ∧
  (∀ (pa : Nat) (entry : BitVec 64) (s : State), s.memWf → s.l2Clean → ∃ t, exec (.tableUpdate pa entry) s = .next t ∧
    t.mem.homeNat (pa / 8 * 8) 8 = entry.toNat ∧
    ∀ x, (x < pa / 8 * 8 ∨ pa / 8 * 8 + 8 ≤ x) → t.mem.homeByte x = s.mem.homeByte x) ∧
  (∀ (ctx lo hi : Nat) (s : State), (s.updatesOpen ctx lo hi = true → exec (.shootdown ctx lo hi) s = .next s) ∧
    (s.updatesOpen ctx lo hi = false → s.noUpdates → ∃ t, exec (.shootdown ctx lo hi) s = .next t ∧
      let apart := fun (e : TlbEntry) => e.ctx ≠ ctx ∨ e.page < lo / 4096 ∨ hi ≤ e.page * 4096
      ∀ c, (t.core c).scb = [] ∧ (∀ e, e ∈ (t.core c).tlb ↔ e ∈ (s.core c).tlb ∧ apart e) ∧
        ∀ e, e ∈ t.quadTlb c ↔ e ∈ s.quadTlb c ∧ apart e)) ∧
  (∀ (die n : Nat) (s : State) (u : GuestUpd), s.mem.updates.find? (fun u => u.die == die && u.id == n) = some u →
    (s.mem.mayApply u = false → exec (.guestUpdate die n) s = .next s) ∧
    (s.mem.mayApply u = true → ∃ t, exec (.guestUpdate die n) s = .next t ∧
      t.mem.updates = s.mem.updates.filter (fun v => v.id ≠ n) ∧
      Tab.find? (guestKey die u.sector) t.mem.guest = (Tab.find? (guestKey die u.sector) s.mem.guest).map (fun _ => u.data) ∧
      (∀ pa, t.mem.homeByte pa = s.mem.homeByte pa) ∧ t.cores = s.cores ∧ t.skeins = s.skeins))

/-- R285: the entries of a store-combining buffer drain to their homes oldest first, alone or with every older one at a timeout,
and no byte that the core's own loads find changes. -/
def Claim.BuffersDrainInOrder : Prop :=
  ∀ (core n : Nat) (fused : Bool) (s : State), s.memWf → s.l2Clean → s.scbWf fused core → core ∈ quadOf fused core →
    (∀ e es, (s.core core).scb = e :: es → ∃ t, exec (.scbEntryDrain core 0) s = .next t ∧ (t.core core).scb = es ∧
      (∀ b ∈ e.bytes, t.mem.homeByte (e.sector * 64 + b.1) = b.2) ∧ ∀ pa, t.coreByte fused core pa = s.coreByte fused core pa) ∧
    (n ≠ 0 → exec (.scbEntryDrain core n) s = .next s) ∧
    ∃ t, exec (.scbDrainTimeout core n) s = .next t ∧ (t.core core).scb = (s.core core).scb.drop (n + 1) ∧
      ∀ pa, t.coreByte fused core pa = s.coreByte fused core pa

/-- R299 to R302, R288, R285: the tables, the translations, the buffers. -/
def Obligations.TranslationsAndBuffers : Prop :=
  Claim.TablesAndTranslationsChange ∧ Claim.BuffersDrainInOrder

/-- R335, R332, R183, R205, R329: when the driver has placed a page, a store that waited for it writes its recorded data at the
lane's address, its entry is freed and its flag falls, and a copy that had asked goes on; when the driver refuses the page
the entry is freed and the store raises FAULT with the page's code, the lowest lane's address and its own packet. -/
def Obligations.DriverAnswersAreTaken : Prop :=
  ∀ (ctx page k n : Nat) (s : State) (x : Skein) (z : Size) (d : VReg) (b : SReg) (o : Off) (fs : Bool),
    (∀ (id : Nat) (q : Op) (dst src : CopyEnd) (len full : Nat) (obj : Option Ptr) (num : BitVec 32),
      s.entriesOf ctx page (page + 4096) = [] → s.op id = some q → s.ctxOf q.who = ctx →
      q.kind = .copy dst src len full obj num none (some page) false →
      (∃ t, exec (.faultResolutionPosted ctx page) s = .next t ∧ t.mem = s.mem ∧ t.skeins = s.skeins ∧
        t.op id = some { q with kind := .copy dst src len full obj num none none false }) ∧
      ∃ t, exec (.faultRefusalPosted ctx page) s = .next t ∧ t.mem = s.mem ∧ t.skeins = s.skeins ∧
        t.op id = some { q with kind := .copy dst src len full obj num none (some page) true }) ∧
    (s.entriesOf ctx page (page + 4096) = [(k, n)] → Tab.find? k s.skeins = some x →
      let e := Tab.get LogEntry.free x.oplog n
      let falls := fun (t : State) => (Tab.get LogEntry.free (t.skein k).oplog n).valid = false ∧
        ∀ j, (t.skein k).flag j = if e.flag.toNat = j ∧ j < 12 then x.flag j - 1 else x.flag j
      e.instr = .st z d b o fs →
      s.replaying k n = false →
      (∀ l y, e.lanes = [l] → s.checkLane (s.whoOf k) .glob needW (sizeBytes z) false (e.addr o (sizeBytes z) l) = .ok y →
        let z' := s.fusedOf (s.whoOf k)
        s.writable y → s.dmode (s.whoOf k) = false → s.memWf → s.l2Clean → s.scbWf z' (k / 65) →
        s.unread (quadOf z' (k / 65)) s.nextId = [] →
        ∃ t, exec (.faultResolutionPosted ctx page) s = .next t ∧ falls t ∧
          ∀ pa, t.coreByte z' (k / 65) pa = if y.pa ≤ pa ∧ pa < y.pa + sizeBytes z
            then BitVec.ofNat 8 ((e.data l).toNat / 256 ^ (pa - y.pa)) else s.coreByte z' (k / 65) pa) ∧
      (∀ l ls, e.lanes = l :: ls → x.halted = false → k % 65 ≠ 64 →
        (s.launch (s.panel x.panel).launch).trapbase.isSome = true →
        ∃ t r, exec (.faultRefusalPosted ctx page) s = .next t ∧ falls t ∧ (t.skein k).halted = true ∧
          t.core (k / 65) = { s.core (k / 65) with trapQ := (s.core (k / 65)).trapQ ++ [r] } ∧
          (r.cause.extractLsb' 0 4).toNat = 8 ∧ (r.cause.extractLsb' 16 12).toNat = e.code.toNat ∧
          r.addr = BitVec.ofNat 64 (e.addr o (sizeBytes z) l) ∧ r.pc.extractLsb' 0 53 = e.pc ∧ t.mem = s.mem))

/-- R304, R352, R359, Table 13.6: an engine that is told to go takes up the move that its registers name then, or refuses a
size that no move has, a page of a protected world and a page that another engine moves, or finds a fault where the page is
not so mapped; a busy one goes on.  A page that has come to a protected world by the end of its move is refused.  A page of 4
KiB that goes to the host has its bytes there, its entry names the host as owner and nothing else has changed in it, the
engine is done and vector 130 is signalled. -/
def Obligations.PagesMove : Prop :=
  ∀ (n : Nat) (s : State), n < 4 →
    let e := s.host.engine n
    let m := Tab.get MigEngine.zero s.host.moves n
    let status := fun (v : Nat) => s.setHost { s.host with mig := Tab.put n { e with status := v } s.host.mig }
    (e.status = 1 → exec (.migrationGo n) s = .next s) ∧ (e.status ≠ 1 → exec (.migrationComplete n) s = .next s) ∧
    (e.status ≠ 1 → e.size = 3 → exec (.migrationGo n) s = .next (status 3)) ∧
    (e.status ≠ 1 → e.size ≠ 3 → (∀ q ∈ s.host.moves, q.1 ≠ n → (s.host.engine q.1).status ≠ 1) →
      (s.moveEntries e = none → exec (.migrationGo n) s = .next (status 4)) ∧
      ∀ es, s.moveEntries e = some es →
        ((∃ x ∈ es, pteWorld x.2 ≠ 0) → exec (.migrationGo n) s = .next (status 3)) ∧
        ((∀ x ∈ es, pteWorld x.2 = 0) → exec (.migrationGo n) s =
          .next ((status 1).setHost { (status 1).host with moves := Tab.put n e s.host.moves }))) ∧
    (e.status = 1 → s.moveEntries m = none → exec (.migrationComplete n) s = .next (status 4)) ∧
    (∀ es, e.status = 1 → s.moveEntries m = some es → (∃ x ∈ es, pteWorld x.2 ≠ 0) →
      exec (.migrationComplete n) s = .next (status 3)) ∧
    (∀ es, e.status = 1 → m.dir = 1 → s.updatesOpen m.ctx m.start (m.start + m.bytes) = true → s.moveEntries m = some es →
      (∀ x ∈ es, pteWorld x.2 = 0) → exec (.migrationComplete n) s = .next s) ∧
    (∀ a p, e.status = 1 → m.dir = 1 → m.size = 0 → s.updatesOpen m.ctx m.start (m.start + 4096) = false →
      s.moveEntries m = some [(a, p)] → pteWorld p = 0 → pteOwner p = 0 → a % 8 = 0 → isFoyer a = false →
      (a + 8 ≤ pteFrame p ∨ pteFrame p + 4096 ≤ a) → s.mem.homeNat a 8 = p.toNat → s.memWf → s.l2Clean → s.noUpdates →
      (∀ q ∈ s.ops, ∀ r, q.2.kind ≠ .load r) → s.mem.msgs = [] → (∀ c, (s.core c).scb = [] ∧ (s.core c).withheld = []) →
      s.entriesOf m.ctx m.start (m.start + 4096) = [] → (s.host.msi 130).masked = false →
      ∃ t, exec (.migrationComplete n) s = .next t ∧ (t.host.engine n).status = 2 ∧
        (∀ i, i < 4096 → t.mem.host.read (m.hostpa + i) = s.mem.homeByte (pteFrame p + i)) ∧
        (let q := BitVec.ofNat 64 (t.mem.homeNat a 8)
         pteOwner q = 1 ∧ q &&& 0xCFFFFFFFFFFFFFFF = p &&& 0xCFFFFFFFFFFFFFFF) ∧
        (∀ pa, (pa < a ∨ a + 8 ≤ pa) → t.mem.homeByte pa = s.mem.homeByte pa) ∧
        t.host.sent = s.host.sent ++ [(130, (s.host.msi 130).data)])

/-- R305, R306, R352, R354, R355, R368: while the host is served it reads and writes the HBM of its BAR past every cache, and the
foyer at itself; a protected byte reads as ones, takes no write, and a record of class 0x0D is written.  While its link is
down, or after a failure in stage 1 of bring-up, nothing is served; an address beyond the BAR is not served. -/
def Claim.HostReachesMemory : Prop :=
  ∀ (a n : Nat) (bs : List Byte) (s : State),
    let prot := inLeaves s.protectedLeaves
    let served := fun (n : Nat) => a + n ≤ barBytes ∧ ∀ i, i < n → s.fenced (a + i) = false
    (s.host.linkUp = false ∨ s.host.status.getLsbD 1 = true →
      ∀ acc, exec (.hostMemoryAccess acc) s = .next s ∧ exec (.foyerHostAccess acc) s = .next s) ∧
    (s.host.linkUp = true → s.host.status.getLsbD 1 = false → s.memWf →
      (barBytes ≤ a → exec (.hostMemoryAccess (.write a bs)) s = .next s) ∧
      (served n → (∀ i, i < n → prot (a + i) = false) → exec (.hostMemoryAccess (.read a n)) s =
        .next (s.setHost { s.host with readBack := s.mem.hbm.readN a n })) ∧
      (served bs.length → (∀ i, i < bs.length → prot (a + i) = false) → ∃ t, exec (.hostMemoryAccess (.write a bs)) s = .next t ∧
        (∀ x, t.mem.hbm.read x = if a ≤ x ∧ x < a + bs.length then bs.getD (x - a) 0 else s.mem.hbm.read x) ∧
        t.mem.l2 = s.mem.l2 ∧ t.cores = s.cores ∧ t.host = s.host) ∧
      (∀ i, i < n → a + n ≤ barBytes → prot (a + i) = true → s.canRecord →
        ∃ t, exec (.hostMemoryAccess (.read a n)) s = .next t ∧ t.host.readBack.getD i 0 = 0xFF ∧ Recorded s t 0x0D 7 0 0) ∧
      (∀ i, i < bs.length → served bs.length → prot (a + i) = true → s.canRecord →
        ∃ t, exec (.hostMemoryAccess (.write a bs)) s = .next t ∧ t.mem.hbm.read (a + i) = s.mem.hbm.read (a + i) ∧
          Recorded s t 0x0D 7 0 0) ∧
      (a + n ≤ 65536 → ∃ t, exec (.foyerHostAccess (.read a n)) s = .next t ∧ t.host.readBack = s.mem.foyer.readN a n ∧
        t.mem = s.mem) ∧
      (a + bs.length ≤ 65536 → ∃ t, exec (.foyerHostAccess (.write a bs)) s = .next t ∧
        (∀ x, t.mem.foyer.read x = if a ≤ x ∧ x < a + bs.length then bs.getD (x - a) 0 else s.mem.foyer.read x) ∧
        t.mem.hbm = s.mem.hbm))

/-- R297, R298, R353: the scrub leaves a clean sector alone, marks an uncorrectable one and records it, and counts a corrected
error against its row; a pseudo-channel that fails goes to the die's reserve while there is some, and is then one whose
accesses fault.  Each is recorded.  How much reserve there is, and the threshold of a row, stay open (log 22). -/
def Claim.MemoryErrorsAreRecorded : Prop :=
  (∀ (sector row : Nat) (s : State), exec (.patrolScrub sector .clean) s = .next s ∧
    (s.canRecord → ∃ t, exec (.patrolScrub sector .uncorrectable) s = .next t ∧ sector ∈ t.mem.bad ∧
      (∀ x, x ∈ t.mem.bad ↔ x = sector ∨ x ∈ s.mem.bad) ∧ t.mem.hbm = s.mem.hbm ∧
      Recorded s t 0x02 2 (pcUnit (sector * 64)) 0) ∧
    (s.canRecord → let key := rowKey (pcUnit (sector * 64)) row
      Tab.get 0 s.mem.corrected key + 1 ≤ Config.rowThreshold → ∃ t, exec (.patrolScrub sector (.corrected row)) s = .next t ∧
        Tab.get 0 t.mem.corrected key = Tab.get 0 s.mem.corrected key + 1 ∧ t.mem.hbm = s.mem.hbm ∧ t.mem.bad = s.mem.bad ∧
        t.mem.spared = s.mem.spared ∧ Recorded s t 0x01 2 (pcUnit (sector * 64)) 0)) ∧
  (∀ (die pc : Nat) (s : State), die < 4 → pc < 128 →
    let unit := die * 128 + pc
    (unit ∈ s.mem.retired → exec (.pseudoChannelFailure die pc) s = .next s) ∧
    (unit ∉ s.mem.retired → s.canRecord → ∃ t, exec (.pseudoChannelFailure die pc) s = .next t ∧ unit ∈ t.mem.retired ∧
      Recorded s t 0x04 2 unit 0 ∧
      if Tab.get 0 s.mem.reserve die < Config.reserveUnits die
      then Tab.get 0 t.mem.reserve die = Tab.get 0 s.mem.reserve die + 1 ∧ t.mem.failedPc = s.mem.failedPc
      else unit ∈ t.mem.failedPc ∧ ∀ sec, pcUnit (sec * 64) = unit → t.mem.isBad sec = true))

/-- R305, R306, R297, R298: the host's accesses, and errors of the memory. -/
def Obligations.HostAccessAndMemoryErrors : Prop :=
  Claim.HostReachesMemory ∧ Claim.MemoryErrorsAreRecorded

/-! ### Launches -/

/-- R357, R307, R310, R312, R313: a doorbell sets a queue's tail,
  and stops the queue with a record of class 0x0F where it runs past
the ring; enabling a queue that was disabled clears its stop.  The Registrar accepts the block at the head of the queue that
is next: it takes the next sequence number, and waits with its fields and regions, or ends REFUSED where a field is outside
its limits or its context is not one of its world; its TRAPBASE follows the code that the driver has placed. -/
def Claim.QueuesHandOverLaunches : Prop :=
  (∀ (q : Nat) (tail : BitVec 32) (s : State),
    let x := s.queue q
    let past := x.launch.entries < (tail - x.launch.head).toNat
    (128 ≤ q ∨ s.host.serves = false → exec (.doorbell q tail) s = .next s ∧ ∀ e, exec (.queueEnable q e) s = .next s) ∧
    (q < 128 → s.host.serves = true →
      (x.stopped = true ∨ ¬ past → exec (.doorbell q tail) s =
        .next (s.setQueue q { x with launch := { x.launch with tail := tail } })) ∧
      (x.stopped = false → past → s.canRecord → ∃ t, exec (.doorbell q tail) s = .next t ∧
        t.queue q = { x with launch := { x.launch with tail := tail }, stopped := true } ∧ Recorded s t 0x0F 5 q 0 ∧
        ∀ p, p ≠ q → t.queue p = s.queue p) ∧
      (x.enable = false → exec (.queueEnable q true) s = .next (s.setQueue q { x with enable := true, stopped := false })) ∧
      exec (.queueEnable q false) s = .next (s.setQueue q { x with enable := false }))) ∧
  (∀ (q : Nat) (s : State), (s.nextQueue ≠ some q → exec (.launchAccept q) s = .next s) ∧
    (s.nextQueue = some q →
      let x := s.queue q
      let b := parseBlock (s.headBlock q)
      let seq := s.host.nextSeq
      let known := ∃ c, Tab.find? b.context s.contexts = some c ∧ c.world = b.world
      let taken := fun (t : State) => t.host.nextSeq = seq + 1 ∧
        (t.queue q).launch = { x.launch with head := x.launch.head + 1 } ∧ (t.launch seq).queue = q ∧
        (t.launch seq).block = b ∧ t.panels = s.panels ∧ t.skeins = s.skeins
      (∀ rs, known → b.outside x.priority seq = false → s.blockRegions b = some rs →
        ∃ t, exec (.launchAccept q) s = .next t ∧ taken t ∧ (t.launch seq).life = .waiting ∧ (t.launch seq).regions = rs ∧
          ((s.imageAt b.code = none → (t.launch seq).trapbase = none) ∧
           ∀ i, s.imageAt b.code = some i → (t.launch seq).trapbase = if i.trap.length < 12 then none
             else some (BitVec.ofNat 53 (b.code / 12 + i.code.length / 12)))) ∧
      (3 < b.priority → b.outside x.priority seq = true) ∧
      (¬ known ∨ b.outside x.priority seq = true ∨ s.blockRegions b = none →
        ∃ t, exec (.launchAccept q) s = .next t ∧ taken t ∧ (t.launch seq).status = .refused ∧
          ((t.launch seq).life = .ended ∨ (t.launch seq).life = .recording))))

/-- R308, R321, R367: a waiting launch whose dependences have all ended runs, in deterministic mode with its grant of cores; one
with a dependence that did not end OK ends DEPFAIL; until then, and while its context is quarantined, it waits. -/
def Claim.LaunchesAreDispatched : Prop :=
  ∀ (seq : Nat) (s : State),
    let l := s.launch seq
    (l.life ≠ .waiting ∨ (s.context l.block.context).quarantined = true → exec (.launchDispatch seq) s = .next s) ∧
    (l.life = .waiting → (s.context l.block.context).quarantined = false →
      ((∃ d ∈ l.block.deps, d ≠ 0 ∧ (s.launch d).life = .ended ∧ (s.launch d).status ≠ .ok) →
        ∃ t, exec (.launchDispatch seq) s = .next t ∧ (t.launch seq).status = .depfail ∧
          ((t.launch seq).life = .ended ∨ (t.launch seq).life = .recording)) ∧
      ((∀ d ∈ l.block.deps, d ≠ 0 → (s.launch d).life = .ended → (s.launch d).status = .ok) →
        (s.depsMet seq = false → exec (.launchDispatch seq) s = .next s) ∧
        (s.depsMet seq = true → l.block.flags.getLsbD 1 = false →
          exec (.launchDispatch seq) s = .next (s.setLaunch seq { l with life := .running })) ∧
        (∀ cs, s.depsMet seq = true → l.block.flags.getLsbD 1 = true → s.host.status.getLsbD 0 = true →
          s.ctxOpen l.block.context = true → s.grantFor [] asLatched seq = some cs → (∀ c ∈ cs, s.wantedAbove seq c = false) →
          ∃ t, exec (.launchDispatch seq) s = .next t ∧ (t.launch seq).life = .running ∧ (t.launch seq).grant = cs)))

/-- R314, R315, R317, R14, R15: the next panel of a running launch goes to a core that is eligible and that no waiting launch of
higher priority wants: it takes its grid position, the lowest free skein slots and accumulators,
  the highest 4 KiB units that are lent, and each of
its skeins starts at the code's first packet.  On another core nothing is placed. -/
def Claim.PanelsArePlaced : Prop :=
  ∀ (seq core : Nat) (s : State),
    let l := s.launch seq
    let b := l.block
    let ok := s.eligible [] asLatched seq core && !s.wantedAbove seq core
    (l.life ≠ .running → exec (.panelPlace seq core) s = .next s) ∧
    (l.life = .running → (s.context b.context).life = .running → (s.context b.context).tierOne = false →
      b.flags.getLsbD 1 = false → b.flags.getLsbD 4 = false →
      (s.waiting seq = false ∨ ok = false → exec (.panelPlace seq core) s = .next s) ∧
      (s.waiting seq = true → ok = true → ∃ t, exec (.panelPlace seq core) s = .next t ∧
        (t.launch seq).placed = l.placed + 1 ∧
        (let p := t.panel s.nextId
         p.launch = seq ∧ p.core = core ∧ (p.x, p.y, p.z) = b.position l.placed ∧ p.life = .resident ∧
           p.scratchUnits = b.scratch ∧ p.scratch = [] ∧ p.accs = [] ∧ p.units = (s.lentUnits core).reverse.take b.scratch ∧
           p.slots = lowestFree b.skeins 64 (slotsUsed (s.panelsOn [] core)) ∧
           p.accBase = lowestFree b.acc 4 (s.accsUsed [] core) ∧ p.skeinsLeft = List.range b.skeins ∧
           ∀ i, i < b.skeins → t.skein (skKey core (p.slots.getD i 0)) =
             Skein.start core (p.slots.getD i 0) s.nextId i (BitVec.ofNat 53 (b.code / 12)))))

/-- R357, R307 to R317: from the doorbell to the placed panel. -/
def Obligations.LaunchesComeToRun : Prop :=
  Claim.QueuesHandOverLaunches ∧ Claim.LaunchesAreDispatched ∧ Claim.PanelsArePlaced

/-- R276, R277, R278, R233: a quantum is committed once every skein of its launch has ended it, and those that end with it have
ended: what is staged is performed in the order of core, panel, skein and issue, the count of quanta rises by one, and each
skein's count of packets starts again, with what its gangs waited on looked at afresh; a collective that has been resolved
delivers its bytes and its status then. -/
def Obligations.QuantaAreCommitted : Prop :=
  ∀ (seq : Nat) (s : State),
    let l := s.launch seq
    let ks := s.launchSkeins seq
    let ready := ∀ k ∈ ks, s.quantumEnded k l.block.qexp = true ∧ s.exitSettled k = true
    let order := s.commitOrder seq
    let bytes := order.flatMap fun id => match s.op id with
      | some o => (match o.kind with | .write bs => bs | _ => [])
      | none => []
    let after := fun (t : State) => (t.launch seq).quantum = l.quantum + 1 ∧ ∀ k ∈ ks, (t.skein k).retired = 0 ∧
      ∀ q ∈ (t.skein k).gangs, q.2.wait = none ∨ q.2.wait = some .regang
    l.life = .running → l.block.flags.getLsbD 1 = true → (s.context l.block.context).life = .running →
    (¬ ready → exec (.quantumCommit seq) s = .next s) ∧
    (ready → s.memWf → s.l2Clean →
      (∀ c, c < l.grant.length → l.block.total ≤ c + l.block.dcores * (s.logicalPanels seq c).length) →
      (order.Nodup → (∀ id ∈ order, ∃ o bs, s.op id = some o ∧ o.kind = .write bs ∧ o.staged = true) →
        (∀ q ∈ s.ops, q.2.launch = seq → (∀ c, q.2.kind ≠ .coll c) ∧ (q.2.staged = true → q.1 ∈ order)) →
        ∃ t, exec (.quantumCommit seq) s = .next t ∧ after t ∧ (∀ id ∈ order, t.op id = none) ∧
          ∀ pa, t.mem.homeByte pa = match bytes.reverse.find? (fun w => w.1 == pa) with
            | some w => w.2
            | none => s.mem.homeByte pa) ∧
      (∀ id o c st bs, s.ops.filter (fun q => q.2.launch == seq) = [(id, o)] → s.op id = some o → o.staged = false →
        o.kind = .coll c → c.out = some (st, bs) → (bs.map Prod.fst).Nodup →
        ∃ t, exec (.quantumCommit seq) s = .next t ∧ after t ∧ t.op id = none ∧
          (∀ n r, (Tab.get Scalar.zero (s.skein n).s r).pend = some id → Tab.get Scalar.zero (t.skein n).s r = ⟨st, false,
            none⟩) ∧
          ∀ pa, t.mem.homeByte pa = match bs.find? (fun w => w.1 == pa) with
            | some w => w.2
            | none => s.mem.homeByte pa))

/-- R326, R328, Table 11.5, R325, R344: a launch of which every panel has ended drains what its cores have buffered and withheld,
and ends OK; with room in its queue's ring its record of 128 bytes stands there.  An abort ends a launch ABORTED once the sums
withheld for it are drained, and the watchdog ends one WATCHDOG whose count has reached its limit in steps of 1,024 cycles. -/
def Obligations.LaunchesEnd : Prop :=
  ∀ (seq : Nat) (s : State),
    let l := s.launch seq
    let b := l.block
    let done := l.placed = b.total ∧ ∀ q ∈ s.panels, q.2.launch = seq → q.2.life = .ended
    let ended := fun (t : State) => (t.launch seq).life = .ended ∨ (t.launch seq).life = .recording
    (¬ done ∨ l.life ≠ .running → exec (.launchClose seq) s = .next s) ∧
    (done → l.life = .running → ∃ t, exec (.launchClose seq) s = .next t ∧ (t.launch seq).status = .ok ∧ ended t ∧
      (∀ q ∈ s.panels, q.2.launch = seq → (t.core q.2.core).scb = []) ∧
      (∀ c, ∀ h ∈ (t.core c).withheld, h.2.launch ≠ seq) ∧
      ((s.queue l.queue).prov.full = false → (s.context b.context).quarantined = false → s.memWf →
        (t.launch seq).life = .ended ∧
        (t.queue l.queue).prov = { (s.queue l.queue).prov with tail := (s.queue l.queue).prov.tail + 1 } ∧
        (let read := fun (off n : Nat) => leNat (t.mem.host.readN ((s.queue l.queue).prov.slot 128 + off) n)
         read 0 8 = seq % 2 ^ 64 ∧ read 8 1 = l.queue % 256 ∧ read 10 1 = b.qexp % 256 ∧ read 11 1 = b.world % 256 ∧
           read 12 4 = 0 ∧ read 16 8 = b.seed.toNat ∧ read 24 8 = b.ctrbase.toNat))) ∧
    (l.live = false → exec (.hostAbort seq) s = .next s) ∧
    (l.live = true → ∃ t, exec (.hostAbort seq) s = .next t ∧ (t.launch seq).status = .aborted ∧ ended t ∧
      (∀ q ∈ t.ops, q.2.launch ≠ seq) ∧ ∀ c, ∀ h ∈ (t.core c).withheld, h.2.launch ≠ seq) ∧
    (b.watchdog = 0 ∨ l.count / 1024 * 1024 < b.watchdog ∨ l.life ≠ .running →
      exec (.watchdogExpiry seq) s = .next s) ∧
    (b.watchdog ≠ 0 → b.watchdog ≤ l.count / 1024 * 1024 → l.life = .running →
      ∃ t, exec (.watchdogExpiry seq) s = .next t ∧ (t.launch seq).status = .watchdog ∧ ended t ∧
        (t.context b.context).life = .running)

/-- R309, R339 to R342, R380: a waiting launch that finds no room asks the contexts of lower priority to leave, as few as make
room; a context asked to leave enters tier two at its deadline, with every skein asked to halt, or tier three where a panel
has no TRAPBASE, or waits for a collective; tier three, at the other deadlines, ends its resident launches RESET and lets
the context run.  A restore that does not end in time leaves the context saved, with no core granted and no sum withheld. -/
def Obligations.ContextsArePreempted : Prop :=
  (∀ (seq : Nat) (s : State),
    (s.waiting seq = false ∨ s.leaving seq = true ∨ s.roomFor [] seq = true → exec (.preemptionRequest seq) s = .next s) ∧
    (s.waiting seq = true → s.leaving seq = false → s.roomFor [] seq = false →
      (s.roomFor (s.victimsFor seq) seq = false → (∀ vs, vs <+: s.victimsFor seq → s.roomFor vs seq = false) →
        exec (.preemptionRequest seq) s = .next s) ∧
      (∀ vs rest, s.victimsFor seq = vs ++ rest → s.roomFor vs seq = true →
        (∀ us, us <+: vs → us ≠ vs → s.roomFor us seq = false) →
        ∃ t, exec (.preemptionRequest seq) s = .next t ∧ (t.launch seq).victims = vs ∧
          (∀ v ∈ vs, v ≠ seq → (t.context (s.launch v).block.context).tierOne = true) ∧
          t.panels = s.panels ∧ t.skeins = s.skeins))) ∧
  (∀ (ctx : Nat) (s : State),
    let c := s.context ctx
    let reset := fun (t : State) => (t.context ctx).life = .running ∧ (t.context ctx).tierOne = false ∧
      ∀ q l, Tab.find? q s.launches = some l → l.block.context = ctx → l.life ≠ .ended → l.life ≠ .recording →
        s.launchPanels q ≠ [] → (t.launch q).status = .reset ∧ ∀ c, ∀ h ∈ (t.core c).withheld, h.2.launch ≠ q
    (c.tierOne = false ∨ c.life ≠ .running → exec (.tierOneDeadline ctx) s = .next s) ∧
    (c.tierOne = true → c.life = .running →
      (s.residentPanels ctx = [] → exec (.tierOneDeadline ctx) s = .next (s.setContext ctx { c with tierOne := false })) ∧
      ((∃ p ∈ s.residentPanels ctx, (s.launch (s.panel p).launch).trapbase = none) →
        ∃ t, exec (.tierOneDeadline ctx) s = .next t ∧ reset t) ∧
      (s.residentPanels ctx ≠ [] → (∀ p ∈ s.residentPanels ctx, (s.launch (s.panel p).launch).trapbase ≠ none) →
        (s.collOpen ctx = true → exec (.tierOneDeadline ctx) s = .next (s.setContext ctx { c with collWait := true })) ∧
        (s.collOpen ctx = false → ∃ t, exec (.tierOneDeadline ctx) s = .next t ∧
          t.context ctx = { c with life := .saving, trapsQueued := false } ∧
          (∀ k x, Tab.find? k s.skeins = some x → k ∈ s.ctxSkeins ctx → x.halted = false → (t.skein k).haltReq = true) ∧
          (∀ id o m, s.op id = some o → o.kind = .mmat m → s.ctxOf o.who = ctx →
            t.op id = some { o with kind := .mmat { m with stop := true } }) ∧ t.mem = s.mem))) ∧
    (c.collWait = false → exec (.collWaitDeadline ctx) s = .next s) ∧
    (c.collWait = true → ∃ t, exec (.collWaitDeadline ctx) s = .next t ∧ reset t) ∧
    (c.life ≠ .saving → exec (.tierTwoDeadline ctx) s = .next s) ∧
    (c.life = .saving → ∃ t, exec (.tierTwoDeadline ctx) s = .next t ∧ reset t) ∧
    (c.life ≠ .restoring ∨ c.trapsQueued = false → exec (.restoreTimeout ctx) s = .next s) ∧
    (c.life = .restoring → c.trapsQueued = true → ∃ t, exec (.restoreTimeout ctx) s = .next t ∧
      (t.context ctx).life = .saved ∧ (∀ p ∈ s.savedPanels ctx, (t.panel p).life = .saved) ∧
      ∀ q ∈ s.ctxLaunches ctx, (t.launch q).grant = [] ∧ ∀ n, ∀ h ∈ (t.core n).withheld, h.2.launch ≠ q))

/-- R348, R345, R320: the latch of a core changes only while it holds no panel, no skein, no trap in service, no queued operation
and no slot lent to its partner;
then every byte that it has buffered stands at its home, and the core is as bring-up leaves it, latched to the new world. -/
def Claim.LatchesClearTheirCores : Prop :=
  ∀ (core : Nat) (world : BitVec 8) (s : State),
    (s.mayLatch core = false ∨ 256 ≤ core → exec (.worldLatchChange core world) s = .next s) ∧
    (s.mayLatch core = true → core < 256 → (s.core core).withheld = [] → s.memWf → s.l2Clean → s.scbWf false core →
      ∃ t, exec (.worldLatchChange core world) s = .next t ∧
        t.core core = { Core.cleared world.toNat with unused := (s.core core).unused } ∧
        (∀ pa, t.mem.homeByte pa = s.coreByte false core pa) ∧ ∀ c, c ≠ core → t.core c = s.core c)

/-- R366: a core that is fenced ends the launches with a panel on it, or a slot lent by it, RESET,
  and is as bring-up leaves it, in its world; while its die
has a spare core the number stays in use, and else it is unused from then on. -/
def Claim.CoresAreFenced : Prop :=
  ∀ (core : Nat) (s : State),
    (256 ≤ core ∨ (s.core core).unused = true → exec (.coreFence core) s = .next s) ∧
    (core < 256 → (s.core core).unused = false → ∃ t, exec (.coreFence core) s = .next t ∧
      (∀ q l, Tab.find? q s.launches = some l → l.life ≠ .ended → l.life ≠ .recording →
        (∃ p ∈ s.panels, p.2.launch = q ∧ (p.2.core = core ∨ p.2.core = core ^^^ 1 ∧ p.2.lentOn.isSome = true) ∧
          p.2.life ≠ .ended ∧ p.2.life ≠ .saved) →
        (t.launch q).status = .reset) ∧
      (let n := s.sparesOf (coreDie core)
       t.core core = { Core.cleared (s.core core).world with unused := decide (n = 0) } ∧
         (n ≠ 0 → t.sparesOf (coreDie core) = n - 1) ∧ (n = 0 → t.sparesOf (coreDie core) = 0)))

/-- R345, R348, R366: how a core comes back cleared. -/
def Obligations.LatchesAndFences : Prop :=
  Claim.LatchesClearTheirCores ∧ Claim.CoresAreFenced

/-! ### The host interface -/

/-- R355 to R359, R378: a write of 8 bytes reaches the register at its offset: the rings' bases, sizes and heads, a queue's rings,
priority and enable, an engine's block, the mailbox; an offset that names no register, and every write while the host is
not served, changes nothing.  A read gives what the register holds, `go` as 0, and 0 where there is none. -/
def Claim.RegistersTakeWrites : Prop :=
  ∀ (v : BitVec 64) (s : State),
    (s.host.serves = false → ∀ off, exec (.registerWrite off v) s = .next s) ∧
    (s.host.linkUp = true →
      let reads := fun (off n : Nat) => s.hostRead off = s.setHost { s.host with readBack := leBytes 8 n }
      reads 0 s.host.status.toNat ∧ reads 0x80 s.host.overflow.toNat ∧ reads 0x9008 s.host.mailResp.toNat ∧
      (∀ off, 0x11000 ≤ off → reads off 0) ∧
      ∀ e, e < 4 → let x := s.host.engine e
        reads (0x8000 + 64 * e) x.va ∧ reads (0x8018 + 64 * e) (x.dir + x.size * 2 ^ 8 + x.status * 2 ^ 24)) ∧
    (s.host.serves = true → s.host.heldErr = [] → s.host.heldFault = [] → s.host.heldProv = [] →
      let n := v.toNat
      (∀ off, (off < 0x40 ∨ 0x80 ≤ off ∧ off < 0x1000 ∨ 0x5000 ≤ off ∧ off < 0x8000 ∨ 0x8100 ≤ off ∧ off < 0x9000 ∨
        0x11000 ≤ off) → exec (.registerWrite off v) s = .next s) ∧
      exec (.registerWrite 0x40 v) s = .next (s.setHost { s.host with
        errRing := { s.host.errRing with base := n / 64 * 64 } }) ∧
      exec (.registerWrite 0x48 v) s = .next (s.setHost { s.host with errRing := { s.host.errRing with log2 := n % 256 } }) ∧
      exec (.registerWrite 0x50 v) s = .next (s.setHost { s.host with
        errRing := { s.host.errRing with head := v.setWidth 32 } }) ∧
      exec (.registerWrite 0x60 v) s = .next (s.setHost { s.host with
        faultRing := { s.host.faultRing with base := n / 64 * 64 } }) ∧
      exec (.registerWrite 0x68 v) s = .next (s.setHost { s.host with
        faultRing := { s.host.faultRing with log2 := n % 256 } }) ∧
      exec (.registerWrite 0x70 v) s = .next (s.setHost { s.host with
        faultRing := { s.host.faultRing with head := v.setWidth 32 } }) ∧
      (∀ q, q < 128 →
        let x := s.queue q
        let at_ := fun (off : Nat) => exec (.registerWrite (0x1000 + 128 * q + off) v) s
        at_ 0 = .next (s.setQueue q { x with launch := { x.launch with base := n / 64 * 64 } }) ∧
        at_ 8 = .next (s.setQueue q { x with launch := { x.launch with log2 := n % 256 } }) ∧
        at_ 16 = exec (.doorbell q (v.extractLsb' 32 32)) s ∧
        at_ 32 = .next (s.setQueue q { x with prov := { x.prov with base := n / 64 * 64 } }) ∧
        at_ 40 = .next (s.setQueue q { x with prov := { x.prov with log2 := n % 256 } }) ∧
        at_ 48 = .next (s.setQueue q { x with prov := { x.prov with head := v.setWidth 32 } }) ∧
        (x.enable = false → at_ 64 = exec (.queueEnable q (decide ((v.extractLsb' 8 8).toNat ≠ 0)))
          (s.setQueue q { x with priority := n % 4 })) ∧
        (x.enable = true → at_ 64 = exec (.queueEnable q (decide ((v.extractLsb' 8 8).toNat ≠ 0))) (s.setQueue q x))) ∧
      (∀ e, e < 4 →
        let x := s.host.engine e
        let at_ := fun (off : Nat) => exec (.registerWrite (0x8000 + 64 * e + off) v) s
        at_ 0 = .next (s.setEngine e { x with va := n }) ∧ at_ 8 = .next (s.setEngine e { x with ctx := n % 2 ^ 32 }) ∧
        at_ 16 = .next (s.setEngine e { x with hostpa := n }) ∧
        let u := s.setEngine e { x with dir := n % 256, size := n / 256 % 256 }
        at_ 24 = if n / 2 ^ 16 % 256 = 1 then exec (.migrationGo e) u else .next u) ∧
      (s.host.creating = false →
        let ctx := n / 2 ^ 32
        (n % 256 = 2 → exec (.registerWrite 0x9000 v) s = exec (.contextDestroy ctx) s) ∧
        (n % 256 = 3 → exec (.registerWrite 0x9000 v) s = exec (.contextRestore ctx) s) ∧
        (n % 256 = 4 → exec (.registerWrite 0x9000 v) s = exec (.contextQuery ctx) s)))

/-- R356, R357, R358: when the host moves a ring's head on, a record that was held for want of room is written; when it unmasks a
vector, a message that was pending goes out once. -/
def Claim.HeldRecordsAndMessagesGoOut : Prop :=
  (∀ (head : BitVec 32) (s : State), s.host.serves = true →
    (s.host.heldErr = [] → s.host.heldFault = [] → s.host.heldProv = [] →
      exec (.ringHeadWrite .error head) s = .next (s.setHost { s.host with errRing := { s.host.errRing with head := head } }) ∧
      exec (.ringHeadWrite .pageFault head) s =
        .next (s.setHost { s.host with faultRing := { s.host.faultRing with head := head } }) ∧
      ∀ q, q < 128 → exec (.ringHeadWrite (.prov q) head) s =
        .next (s.setQueue q { s.queue q with prov := { (s.queue q).prov with head := head } })) ∧
    (∀ bs, s.host.heldErr = [⟨bs, none⟩] → s.host.heldFault = [] → s.host.heldProv = [] → s.memWf →
      ({ s.host.errRing with head := head } : Ring).full = false →
      ∃ t, exec (.ringHeadWrite .error head) s = .next t ∧ t.host.heldErr = [] ∧
        t.mem.host.readN (s.host.errRing.slot 64) bs.length = bs ∧
        t.host.errRing = { s.host.errRing with head := head, tail := s.host.errRing.tail + 1 })) ∧
  (∀ (vec : Nat) (s : State), s.host.serves = true →
    (160 ≤ vec → exec (.msixUnmask vec) s = .next s) ∧
    (vec < 160 →
      let e := s.host.msi vec
      (e.pending = false → exec (.msixUnmask vec) s =
        .next (s.setHost { s.host with msix := Tab.put vec { e with masked := false } s.host.msix })) ∧
      (e.pending = true → exec (.msixUnmask vec) s = .next (s.setHost { s.host with
        msix := Tab.put vec { e with masked := false, pending := false } s.host.msix
        sent := s.host.sent ++ [(vec, e.data)] }))))

/-- R355 to R359: register writes, rings and vectors. -/
def Obligations.RegistersAndRings : Prop :=
  Claim.RegistersTakeWrites ∧ Claim.HeldRecordsAndMessagesGoOut

/-- R360 to R362: a session begins with FINISH after KEY_EXCHANGE and ends with END_SESSION; an answer to GET_MEASUREMENTS
starts with the measurement; VERSION names 1.2 and 1.3, and a request of pre-shared keys is in error (their coding is the
family's, log 51); of the certificate chain at most 1,024 bytes come, and the 3,309 bytes of the co-signature only after an
answer that is signed; a key makes the link stream secure inside a session.  What else an answer holds stays open (log 10). -/
def Claim.SessionsAndKeys : Prop :=
  ∀ s : State,
    (s.host.serves = false → (∀ r, exec (.spdmRequest r) s = .next s) ∧ (∀ o n, exec (.mlDsaCertChain o n) s = .next s) ∧
      exec .mlDsaSignature s = .next s ∧ ∀ n k, exec (.ideKm n k) s = .next s) ∧
    (s.host.serves = true →
      (∃ t, exec (.spdmRequest .getVersion) s = .next t ∧ t.host.doe.getD 7 0 = 0x12 ∧ t.host.doe.getD 9 0 = 0x13) ∧
      (∃ t, exec (.spdmRequest (.other 0xE6)) s = .next t ∧ t.host.doe.getD 1 0 = 0x7F) ∧
      (∀ i sig, ∃ t tail, exec (.spdmRequest (.getMeasurements i sig)) s = .next t ∧
        t.host.doe = s.host.measure i ++ tail ∧ t.host.coSignDue = sig ∧ t.host.spdm = s.host.spdm) ∧
      (∃ t, exec (.spdmRequest .challenge) s = .next t ∧ t.host.coSignDue = true ∧ t.host.spdm = s.host.spdm) ∧
      (∃ t, exec (.spdmRequest .keyExchange) s = .next t ∧ t.host.kexDone = true ∧ t.host.coSignDue = true ∧
        t.host.spdm = s.host.spdm) ∧
      (s.host.kexDone = true → ∃ t, exec (.spdmRequest .finish) s = .next t ∧ t.host.spdm = true ∧
        t.host.kexDone = false ∧ t.host.coSignDue = false) ∧
      (s.host.kexDone = false → ∃ t, exec (.spdmRequest .finish) s = .next t ∧ t.host.spdm = s.host.spdm) ∧
      (∃ t, exec (.spdmRequest .endSession) s = .next t ∧ t.host.spdm = false) ∧
      (∀ off len, ∃ t, exec (.mlDsaCertChain off len) s = .next t ∧ t.host.doe.length = min len 1024 ∧
        t.host.coSignDue = false) ∧
      (∃ t, exec .mlDsaSignature s = .next t ∧ t.host.coSignDue = false ∧
        (s.host.coSignDue = true → t.host.doe.length = 3309) ∧ (s.host.coSignDue = false → t.host.doe.length = 4)) ∧
      (∀ n key, (s.host.spdm = false ∨ 5 ≤ n → exec (.ideKm n key) s = .next s) ∧
        (s.host.spdm = true → n < 5 → ∃ t, exec (.ideKm n key) s = .next t ∧ n ∈ t.host.ideKeys ∧
          (n = 0 → t.host.ide = true ∧ t.host.status.getLsbD 2 = true) ∧ (n ≠ 0 → t.host.ide = s.host.ide))))

/-- R350, R351, R361, R378: a context is created with what the host gave, and its key slot taken, unless the id is in use, the
request is outside its limits, or, for a protected world, its ways, key slot or world are taken or there is no secure
session; a context that is neither saved nor restored at the time is destroyed with its key slot; a saved one is restored;
a query changes no context.  Each leaves its result in the mailbox. -/
def Claim.ContextsComeAndGo : Prop :=
  ∀ (ctx : Nat) (s : State), s.host.serves = true → s.host.creating = false → ctx < 2 ^ 32 →
    let result := fun (t : State) (cmd r : Nat) => t.host.mailCmd.toNat = ctx * 2 ^ 32 + cmd ∧
      t.host.mailResp.toNat % 2 ^ 16 = r ∧
      t.host.mailResp.toNat / 2 ^ 16 % 2 ^ 16 = (match Tab.find? ctx t.contexts with | some c => c.life.code | none => 0)
    (∀ r : CreateReq,
      let prot := r.world ≠ 0
      let bad := (Tab.find? ctx s.contexts).isSome = true ∨ 32 ≤ r.mask.toNat ∨ 8 < r.ways ∨
        prot ∧ (8 < s.waysReserved + r.ways ∨ 64 ≤ r.keySlot ∨ r.keySlot ∈ s.host.keySlots ∨ 64 ≤ s.host.keySlots.length ∨
          (∃ c ∈ s.contexts, c.2.world = r.world.toNat) ∨ s.host.spdm = false ∨ s.host.ide = false)
      (bad → ∃ t, exec (.contextCreate ctx r) s = .next t ∧ t.contexts = s.contexts ∧ t.host.keySlots = s.host.keySlots ∧
        result t 1 2) ∧
      (¬ bad → ∃ t c, exec (.contextCreate ctx r) s = .next t ∧ t.contexts = Tab.put ctx c s.contexts ∧
        c.root = r.root ∧ c.world = r.world.toNat ∧ c.life = .running ∧ c.quarantined = false ∧ c.counter = 0 ∧
        c.plan = r.plan ∧ c.image = r.image ∧ c.imageSize = r.imageSize ∧
        (prot → c.mask = r.mask ∧ c.ways = r.ways ∧ c.keySlot = some r.keySlot ∧ r.keySlot ∈ t.host.keySlots ∧
          t.host.measure 7 = sha384 (s.host.measure 7 ++ componentDigest (contextWord ctx c))) ∧
        (¬ prot → c.mask = 0x1F ∧ c.ways = 0 ∧ c.keySlot = none ∧ t.host.keySlots = s.host.keySlots) ∧ result t 1 1)) ∧
    (Tab.find? ctx s.contexts = none → (∃ t, exec (.contextDestroy ctx) s = .next t ∧ t.contexts = s.contexts ∧ result t 2 2) ∧
      (∃ t, exec (.contextRestore ctx) s = .next t ∧ t.contexts = s.contexts ∧ result t 3 2)) ∧
    (∀ c, Tab.find? ctx s.contexts = some c →
      (c.life = .saving ∨ c.life = .restoring → ∃ t, exec (.contextDestroy ctx) s = .next t ∧ t.contexts = s.contexts ∧
        result t 2 2) ∧
      (c.life = .running ∨ c.life = .saved → ∃ t, exec (.contextDestroy ctx) s = .next t ∧
        Tab.find? ctx t.contexts = none ∧ (∀ n, n ≠ ctx → Tab.find? n t.contexts = Tab.find? n s.contexts) ∧
        (∀ k, c.keySlot = some k → k ∉ t.host.keySlots) ∧ result t 2 1) ∧
      (c.life = .saved → ∃ t, exec (.contextRestore ctx) s = .next t ∧
        t.contexts = Tab.put ctx { c with life := .restoring, trapsQueued := false } s.contexts ∧ result t 3 1) ∧
      (c.life ≠ .saved → ∃ t, exec (.contextRestore ctx) s = .next t ∧ t.contexts = s.contexts ∧ result t 3 2)) ∧
    ∃ t, exec (.contextQuery ctx) s = .next t ∧ t.contexts = s.contexts ∧ t.launches = s.launches ∧ result t 4 1

/-- R360 to R362, R350, R351, R378: sessions, keys, and the commands of the mailbox. -/
def Obligations.SessionsAndContexts : Prop :=
  Claim.SessionsAndKeys ∧ Claim.ContextsComeAndGo

/-- R363, R364, R365: a link whose peer answers opens with four lanes, which is recorded where it had gone down,
  and one whose peer fails stays closed with a record of class
0x11; a lane that drops leaves the rest, and the last takes the link down; a heartbeat goes out on each open link; a pod
message is taken once, in the order of its package, while a link is open; a lost package is recorded. -/
def Obligations.LinksAndPodMessages : Prop :=
  (∀ (n : Nat) (s : State), n < 18 →
    let l := s.link n
    (l.isOpen = true → ∀ ok, exec (.stitchLinkBringup n ok) s = .next s) ∧
    (l.isOpen = false →
      (l.down = false → exec (.stitchLinkBringup n true) s = .next (s.setLink n ⟨4, true, true, true, false⟩)) ∧
      (l.down = true → s.canRecord → ∃ t, exec (.stitchLinkBringup n true) s = .next t ∧ (t.link n).isOpen = true ∧
        Recorded s t 0x07 4 n 0) ∧
      (s.canRecord → ∃ t, exec (.stitchLinkBringup n false) s = .next t ∧ (t.link n).isOpen = false ∧
        Recorded s t 0x11 4 n 0)) ∧
    (l.trained = true → l.down = false → s.canRecord →
      (2 ≤ l.lanes → ∃ t, exec (.laneDrop n) s = .next t ∧ t.link n = { l with lanes := l.lanes - 1 } ∧
        Recorded s t 0x06 4 n 0) ∧
      (l.lanes ≤ 1 → ∃ t, exec (.laneDrop n) s = .next t ∧ (t.link n).down = true ∧ (t.link n).isOpen = false)) ∧
    (l.trained = false ∨ l.down = true → exec (.laneDrop n) s = .next s) ∧
    (l.down = true → exec (.linkDown n) s = .next s) ∧
    (l.down = false → s.canRecord → ∃ t, exec (.linkDown n) s = .next t ∧ (t.link n).down = true ∧
      (t.link n).isOpen = false ∧ (∀ m, m ≠ n → t.link m = s.link m) ∧ Recorded s t 0x07 4 n 0)) ∧
  (∀ s : State, ∃ t, exec .heartbeat s = .next t ∧ ({ t with fabric := s.fabric } : State) = s ∧
    ∀ n, Tab.get 0 t.fabric.beats n = Tab.get 0 s.fabric.beats n + if n ∈ s.openLinks then 1 else 0) ∧
  (∀ (src seq tag part : Nat) (bs : List Byte) (s : State),
    (s.openLinks = [] ∨ src ∈ s.fabric.lost ∨ Tab.get 0 s.fabric.podSeq src ≠ seq →
      ∀ m, podOrder m = (src, seq) → exec (.podMessage m) s = .next s) ∧
    (s.openLinks ≠ [] → src ∉ s.fabric.lost → Tab.get 0 s.fabric.podSeq src = seq →
      exec (.podMessage (.coll src seq tag part bs)) s = .next { s with fabric := { s.fabric with
        podSeq := Tab.put src (seq + 1) s.fabric.podSeq
        podColl := s.fabric.podColl ++ [(tag, part, bs)] } })) ∧
  (∀ (node : Nat) (s : State), (4096 ≤ node ∨ node ∈ s.fabric.lost → exec (.packageLost node) s = .next s) ∧
    (node < 4096 → node ∉ s.fabric.lost → s.canRecord →
      (∀ q ∈ s.ops, (∀ c, q.2.kind ≠ .coll c) ∧ ∀ u p sc va, q.2.kind ≠ .barrier u p sc va) →
      (∀ q ∈ s.skeins, ∀ g ∈ q.2.gangs, g.2.wait ≠ some .barrier) →
      ∃ t, exec (.packageLost node) s = .next t ∧ t.fabric.lost = s.fabric.lost ++ [node] ∧ Recorded s t 0x10 4 node 0 ∧
        t.skeins = s.skeins ∧ t.panels = s.panels))

/-- R367, R362: with the host link down every protected context is quarantined, the session and the keys are gone, and a record is
written; recovery brings the link up; the quarantine lifts once a session and keys exist.  A hot reset, and a link that stays
down too long, end every launch RESET, clear every core and destroy the protected contexts. -/
def Claim.LinkLossAndReset : Prop :=
  ∀ s : State,
    (s.host.linkUp = false → exec .hostLinkDown s = .next s ∧ exec .linkDownTimeout s = exec .hotReset s) ∧
    (s.host.linkUp = true → exec .hostLinkRecovery s = .next s ∧ exec .linkDownTimeout s = .next s ∧
      ∃ t, exec .hostLinkDown s = .next t ∧ t.host.linkUp = false ∧ t.host.spdm = false ∧ t.host.ide = false ∧
        t.host.ideKeys = [] ∧ t.contexts = Tab.mapv (fun c => { c with quarantined := c.world != 0 }) s.contexts ∧
        t.host.status.getLsbD 2 = false ∧ (t.host.status.getLsbD 8 = true ↔ ∃ c ∈ s.contexts, c.2.world ≠ 0)) ∧
    (s.host.linkUp = false → s.canRecord → ∃ t, exec .hostLinkRecovery s = .next t ∧ t.host.linkUp = true ∧
      Recorded s t 0x07 7 0 0) ∧
    (s.host.linkUp = false ∨ s.host.spdm = false ∨ s.host.ide = false → exec .quarantineLift s = .next s) ∧
    (s.host.linkUp = true → s.host.spdm = true → s.host.ide = true → ∃ t, exec .quarantineLift s = .next t ∧
      t.contexts = Tab.mapv (fun c => { c with quarantined := false }) s.contexts ∧ t.host.status.getLsbD 8 = false) ∧
    ∃ t, exec .hotReset s = .next t ∧ t.skeins = [] ∧ t.ops = [] ∧ t.host.status = 0 ∧ t.host.spdm = false ∧
      t.host.ide = false ∧ (∀ c ∈ t.contexts, c.2.world = 0 ∧ c.2.quarantined = false ∧ c.2.life = .running) ∧
      (∀ c, (t.core c).scb = [] ∧ (t.core c).withheld = [] ∧ (t.core c).tlb = [] ∧ (t.core c).slots = [none, none, none, none]) ∧
      (∀ q l, Tab.find? q s.launches = some l → l.life ≠ .ended → l.life ≠ .recording → (t.launch q).status = .reset)

/-- R368, Table 13.8: bring-up goes through its five stages in order; the first that fails stops it with bit 1,
  and a later failure
fences a die; after the last stage the device is ready, and a further power-on changes nothing. -/
def Claim.BringUpGoesThroughItsStages : Prop :=
  ∀ (ok : Bool) (s : State),
    let stage := fun (u : State) => (u.host.status.extractLsb' 24 8).toNat
    (s.host.status.getLsbD 1 = true ∨ 5 ≤ stage s → exec (.powerOn ok) s = .next s) ∧
    (s.host.status.getLsbD 1 = false → stage s < 5 → ∃ t, exec (.powerOn ok) s = .next t ∧ stage t = stage s + 1 ∧
      (t.host.status.getLsbD 1 = true ↔ stage s = 0 ∧ ok = false) ∧
      (stage s = 0 → ok = true → ∀ i, 1 ≤ i → i ≤ 4 →
        t.host.measure i = sha384 (s.host.measure i ++ componentDigest i)) ∧
      (stage s = 1 → t.host.measure 5 = sha384 (s.host.measure 5 ++ componentDigest 5)) ∧
      (stage s = 2 → t.host.status.getLsbD 3 = true) ∧
      (stage s = 3 → ok = true → s.host.deadDies = 0 → t.host.status.extractLsb' 5 3 = 7) ∧
      (stage s = 4 → t.host.status.getLsbD 0 = true ∧ t.host.status.getLsbD 3 = false))

/-- R367, R368: loss of the host link, reset and bring-up. -/
def Obligations.LinkLossResetAndBringUp : Prop :=
  Claim.LinkLossAndReset ∧ Claim.BringUpGoesThroughItsStages

/-! ### The vitrine -/

/-- R259 to R262, R83, R372 to R376: a command that shows the selected skein prints it as its visible state is, with every result
issued where it is stopped or halted, and changes nothing else; it prints `denied` where the mask of the core's world denies
it, and nothing where no skein is selected.  The layout of `flags`, `batch` and `spool` lines is the model's own. -/
def Claim.TheVitrineShowsTheSkein : Prop :=
  ∀ s : State,
    let printed := fun (ls : List String) => ({ s with vit := { s.vit with out := s.vit.out ++ ls } } : State)
    let u := fun (k : Skein) => if k.stopped || k.halted then s.settleSkein s.vit.sel true else s
    let shown := fun (k : Skein) => (u k).skein s.vit.sel
    let commands := fun (i : Instr) => (∃ rs, i = .vitRegs rs ∨ i = .vitSregs rs) ∨ (∃ v, i = .vitPoison v ∨ i = .vitFuture v) ∨
      (∃ a n, i = .vitScratch a n) ∨ (∃ n, i = .vitSpool n) ∨ (∃ n r c d, i = .vitAcc n r c d) ∨
      i ∈ [Instr.vitFlags, .vitSlices, .vitPattern, .vitAccessions, .vitCabinet, .vitBatch]
    (Tab.find? s.vit.sel s.skeins = none → ∀ i, commands i → exec i s = .next s) ∧
    ∀ k, Tab.find? s.vit.sel s.skeins = some k →
      (s.mayDebug (s.core k.core).world = false → ∀ i, commands i → exec i s = .next (printed ["denied"])) ∧
      (s.mayDebug (s.core k.core).world = true →
        (∀ rs, exec (.vitRegs rs) s = .next (printed (rs.flatMap (vectorText (shown k))))) ∧
        (∀ rs, exec (.vitSregs rs) s = .next (printed (rs.map fun r =>
          padRight 5 (regName r) ++ hexK 16 ((shown k).sreg r).val.toNat ++
            (if ((shown k).sreg r).poison then " P" else "") ++
            (if ((shown k).sreg r).pend.isSome then " F" else "")))) ∧
        exec .vitFlags s = .next (printed ["f0-11  " ++ joinWith " " ((List.range 12).map fun n => dec ((shown k).flag n))]) ∧
        exec .vitSlices s = .next (printed ["pc0-7  " ++
          joinWith " " ((List.range 8).map fun sl => hexN ((u k).vit.packet ((shown k).pcOf sl))) ++ "   gangs " ++
          hexMin 4 (shown k).gangmap.toNat ++ "  exited " ++ hexK 2 (shown k).exited.toNat]) ∧
        exec .vitPattern s = .next (printed ["open " ++ (if (shown k).meldOpen then "1" else "0"),
          patternText "A" (shown k).patA, patternText "B" (shown k).patB]) ∧
        exec .vitBatch s = .next (printed ["open " ++ dec (shown k).openBatch.num.toNat ++ "  outstanding " ++
          dec (shown k).batches.length]) ∧
        (∀ r, ((shown k).sreg r).pend ≠ none → exec (.vitFuture r) s = .next (printed [padRight 5 (regName r) ++
          hexK 16 ((shown k).sreg r).val.toNat ++ (" F  pending " ++
            futureKind (((shown k).sreg r).val.extractLsb' 60 3).toNat)])) ∧
        (∀ r, ((shown k).sreg r).pend = none → ∃ text, exec (.vitFuture r) s = .next (printed [text])) ∧
        (∀ v, ∃ text, exec (.vitPoison v) s = .next (printed [text])) ∧ (∀ n, ∃ text,
          exec (.vitSpool n) s = .next (printed [text])) ∧
        (∃ ls, exec .vitAccessions s = .next (printed ls) ∧ ls.length = ((List.range 16).filter fun i =>
          (Tab.get 0 (shown k).accession (4 * i)).getLsbD 63).length) ∧
        (∃ ls, exec .vitCabinet s = .next (printed ("slot  key                    refs  lines" :: ls)) ∧
          ls.length = (((u k).sweep (shown k).core).core (shown k).core).cabinet.length) ∧
        (∀ off len, exec (.vitScratch off len) s = .next (printed (dumpLines 8 (len + 1) off
          (((s.panel (shown k).panel).padBytes off (min len ((s.panel (shown k).panel).padSize - off))).map hexByte)))) ∧
        (∀ n r c d, ∃ ls, exec (.vitAcc n r c d) s = .next (printed ls) ∧
          (let p := (shown k).panel
           s.accBusy (s.panel p).core p n = true → ls = ["busy  progress " ++ dec (s.accProgress (s.panel p).core p n)])))

/-- R259, R261, R375, R382: `mem` prints the bytes of a range at their homes, and `image` the header of an image, or that there is
none; either prints `denied` where the mask of a page's world denies it.  `tracker` prints a sector of a bounded region with
a line for each holder, and nothing elsewhere; `world` prints the latch of the selected core.  Nothing else changes. -/
def Claim.TheVitrineShowsMemory : Prop :=
  ∀ s : State,
    let printed := fun (ls : List String) => ({ s with vit := { s.vit with out := s.vit.out ++ ls } } : State)
    (∀ addr len, (∀ i, i < len → ∃ b, s.vitByte (addr + i) = .ok b) →
      exec (.vitMem addr len) s = .next (printed (dumpLines 16 (len + 1) addr ((List.range len).map fun i =>
        match s.vitByte (addr + i) with | .ok b => hexByte b | .error _ => "--")))) ∧
    (∀ addr len, (∃ i, i < len ∧ s.vitByte (addr + i) = .error true) → exec (.vitMem addr len) s = .next (printed ["denied"])) ∧
    (∀ addr, (∃ i, i < 64 ∧ s.vitByte (addr + i) = .error true) → exec (.vitImage addr) s = .next (printed ["denied"])) ∧
    (∀ addr (bs : List Byte), bs.length = 64 → (∀ i, i < 64 → s.vitByte (addr + i) = .ok (bs.getD i 0)) →
      (leNat (bs.take 4) ≠ 0x47533444 → exec (.vitImage addr) s = .next (printed ["no image"])) ∧
      (leNat (bs.take 4) = 0x47533444 → ∃ a b, exec (.vitImage addr) s = .next (printed [a, b]))) ∧
    (∀ addr, (s.vitRegion addr = none ∨ s.vitPage addr = none) → exec (.vitTracker addr) s = .next s) ∧
    (∀ addr r x, s.vitRegion addr = some r → s.vitPage addr = some x →
      (s.mayDebug (pteWorld x.pte) = false → exec (.vitTracker addr) s = .next (printed ["denied"])) ∧
      (s.mayDebug (pteWorld x.pte) = true → ∃ a b ls, exec (.vitTracker addr) s = .next (printed (a :: b :: ls)) ∧
        ls.length = (s.home (x.pa / 64) r.ease).holders.length)) ∧
    (let core := s.vit.sel / 65
     exec .vitWorld s = .next (printed ["core " ++ dec core ++ "  world " ++ dec (s.core core).world ++ "  mask " ++
       hexK 4 (s.worldMask (s.core core).world).toNat]))

/-- R259 to R262, R372 to R376, R382: the commands that print. -/
def Obligations.TheVitrineShows : Prop :=
  Claim.TheVitrineShowsTheSkein ∧ Claim.TheVitrineShowsMemory

/-- R346, R347, R381, R261: `break` takes the lowest free number and arms it on its core,
  and `break del` disarms it; `continue` lets
every skein of the launch that the debugger holds go on, with the results it issued visible where all of it stood (R83),
  `step` the gang of the selected skein that stopped, and `skein` selects. -/
def Claim.TheVitrineStopsAndResumes : Prop :=
  (∀ (loc : String) (c pc n : Nat) (s : State), s.vit.packetOf loc = some pc → s.mayDebug (s.core c).world = true →
    (List.range 4).find? (s.numberFree (some c)) = some n →
    ∃ t, exec (.vitBreak loc (some c)) s = .next t ∧
      t.vit.breaks = s.vit.breaks ++ [⟨n, BitVec.ofNat 53 pc, some c⟩] ∧
      Tab.get 0 (t.core c).brk n = BitVec.ofNat 64 (2 ^ 63 + pc % 2 ^ 53) ∧ (t.core c).debugReg.getLsbD 0 = true ∧
      t.skeins = s.skeins ∧ t.mem = s.mem) ∧
  (∀ (loc : String) (c : Option Nat) (s : State), (s.vit.packetOf loc = none → exec (.vitBreak loc c) s = .next s) ∧
    (s.vit.packetOf loc ≠ none → (∀ n, n < 4 → s.numberFree c n = false) →
      exec (.vitBreak loc c) s = .next (s.print "no breakpoint free"))) ∧
  (∀ (n c : Nat) (s : State), n < 4 → s.vit.opened.isSome = true → s.mayDebug (s.core c).world = true →
    (∀ b ∈ s.vit.breaks, b.num = n → b.core ≠ none) →
    ∃ t, exec (.vitBreakDel n (some c)) s = .next t ∧
      t.vit.breaks = s.vit.breaks.filter (fun b => !(b.num == n && b.core == some c)) ∧
      Tab.get 0 (t.core c).brk n = 0 ∧ t.skeins = s.skeins ∧ t.mem = s.mem) ∧
  (∀ (s : State), (s.vit.launched = none → exec .vitContinue s = .next s) ∧
    ∀ seq, s.vit.launched = some seq → (s.skeins.map Prod.fst).Nodup → ∃ t, exec .vitContinue s = .next t ∧ t.mem = s.mem ∧
      ∀ n k, Tab.find? n s.skeins = some k →
        ((s.panel k.panel).launch = seq → (k.stopped = true ∨ k.dbgHold = true) →
          (t.skein n).stopped = false ∧ (t.skein n).dbgHold = false ∧ (t.skein n).pc = k.pc ∧
          (t.skein n).s = (if k.leaders.all k.heldGang then k.flush else k).s ∧
          ∀ g c, Tab.find? g k.gangs = some c → ((t.skein n).cursor g).stop = false) ∧
        ((s.panel k.panel).launch ≠ seq ∨ (k.stopped = false ∧ k.dbgHold = false) → t.skein n = k)) ∧
  (∀ (s : State), let k := s.skein s.vit.sel
    (s.hasSkein s.vit.sel = false ∨ k.stopped = false → exec .vitStep s = .next s) ∧
    (s.hasSkein s.vit.sel = true → k.stopped = true → ∃ t, exec .vitStep s = .next t ∧ t.vit.stepping = some k.current ∧
      ((t.skein s.vit.sel).cursor k.current).stop = false ∧ t.mem = s.mem ∧ ∀ n, n ≠ s.vit.sel → t.skein n = s.skein n)) ∧
  (∀ (core panel idx n : Nat) (s : State),
    let is := fun (q : Nat × Skein) => q.1 / 65 = core ∧ (if idx = 64 then q.2.slot = 64
      else q.2.slot ≠ 64 ∧ q.2.idx = idx ∧ (s.panel q.2.panel).index = panel)
    ((∀ q ∈ s.skeins, ¬ is q) → exec (.vitSkein core panel idx) s = .next s) ∧
    ((∀ q ∈ s.skeins, is q → q.1 = n) → (∃ q ∈ s.skeins, is q) →
      exec (.vitSkein core panel idx) s = .next { s with vit := { s.vit with sel := n } }))

/-- R255 to R261, R303, R311: `open` opens a container that passes its checks, and leaves a record of class 0x0C for one that does
not; `lpb` takes a block from a file; `data` puts a file's bytes at their addresses; `run` writes the block into the queue of
its priority and rings its doorbell.  A file that is not at hand changes nothing. -/
def Claim.TheVitrineLoadsAndRuns : Prop :=
  (∀ (f : String) (addr : Nat) (s : State), s.vit.file f = none →
    exec (.vitOpen f) s = .next s ∧ exec (.vitLpb f) s = .next s ∧ exec (.vitData addr f) s = .next s) ∧
  (∀ (f : String) (bs : List Byte) (s : State), s.vit.file f = some bs →
    let code := driverCode s.tick
    (∀ c, openContainer f bs code = .ok c →
      let t := { s with vit := { s.vit with opened := some c, codeBase := code, block := none } }
      exec (.vitOpen f) s = .next (t.addImage ⟨code, wordBytes c.code, wordBytes c.trap⟩)) ∧
    (∀ e, openContainer f bs code = .error e → s.canRecord → ∃ t, exec (.vitOpen f) s = .next t ∧ t.vit.opened = none ∧
      t.vit.block = none ∧ Recorded s t 0x0C 6 0 0 ∧
      ∀ d, e = .diagnostic d → leNat (t.mem.host.readN (s.host.errRing.slot 64 + 32) 4) = d % 2 ^ 32) ∧
    (bs.length < 64 ∨ leNat (bs.take 4) ≠ 0x3156554F ∨ sha384 (bs.drop 64) ≠ (bs.drop 8).take 48 →
      openContainer f bs code = .error .malformed) ∧
    exec (.vitLpb f) s = .next { s with vit := { s.vit with block := s.vit.readBlock bs } }) ∧
  (∀ (f : String) (addr : Nat) (bs : List Byte) (as : List Nat) (s : State), s.vit.file f = some bs → s.memWf → s.l2Clean →
    as.length = bs.length → as.Nodup →
    (∀ i, i < bs.length → ∃ x, s.walkCtx s.vit.ctx (addr + i) (s.context s.vit.ctx).world ⟨false, false, false⟩ = .ok x ∧
      x.pa = as.getD i 0) →
    ∃ t, exec (.vitData addr f) s = .next t ∧ (∀ i, i < bs.length → t.mem.homeByte (as.getD i 0) = bs.getD i 0) ∧
      ∀ pa, pa ∉ as → t.mem.homeByte pa = s.mem.homeByte pa) ∧
  (∀ s : State, (s.vit.opened = none ∨ s.vit.block = none ∨ s.vit.launched ≠ none → exec .vitRun s = .next s) ∧
    ∀ c b, s.vit.opened = some c → s.vit.block = some b → s.vit.launched = none → b.length = 256 →
      let q := min (numAt b 37 1) 3
      let x := s.queue q
      s.host.serves = true → x.enable = true → x.launch.valid = true →
      (x.launch.tail - x.launch.head).toNat < x.launch.entries → s.memWf →
      ∃ t, exec .vitRun s = .next t ∧ t.vit.launched = some 0 ∧
        t.queue q = { x with launch := { x.launch with tail := x.launch.tail + 1 } } ∧
        t.mem.host.readN (x.launch.slot 256) 256 = b)

/-- R255 to R261, R303, R311, R346, R347, R381: the commands that stop, resume, load and run. -/
def Obligations.TheVitrineDrives : Prop :=
  Claim.TheVitrineStopsAndResumes ∧ Claim.TheVitrineLoadsAndRuns

end
end

