-- ==== Sys2Proof/Laws/Crypto.lean ====
section
/-! SUPPORT. Lengths: of AES blocks under a 32-byte key, of tags, texts and images (R235). -/

namespace Sys2Proof.Machine

@[simp] theorem xorBytes_length (a b : List Byte) : (xorBytes a b).length = min a.length b.length := by simp [xorBytes]

theorem nextKeyWord_length {i : Nat} {ws : List (List Byte)} (h : ∀ w ∈ ws, w.length = 4) (n : 8 ≤ ws.length) :
    (nextKeyWord i ws).length = 4 := by
  have a : (ws.headD []).length = 4 := by
    cases ws with
    | nil => simp at n
    | cons w _ => exact h w (by simp)
  have b : (ws.getD 7 []).length = 4 := by
    rw [List.getD_eq_getElem _ _ (by omega)]
    exact h _ (List.getElem_mem _)
  simp only [nextKeyWord, xorBytes_length, b]
  generalize ws.headD [] = t at a
  split
  · simp [a]
  · split <;> simp [a]

theorem expandKey_words (n : Nat) : ∀ {ws : List (List Byte)}, (∀ w ∈ ws, w.length = 4) → 8 ≤ ws.length →
    (∀ w ∈ expandKey n ws, w.length = 4) ∧ (expandKey n ws).length = n + ws.length := by
  induction n with
  | zero => intro ws h _; exact ⟨h, by simp [expandKey]⟩
  | succ n ih =>
    intro ws h l
    have := ih (ws := nextKeyWord ws.length ws :: ws)
      (by simpa using ⟨nextKeyWord_length h l, h⟩) (by simp; omega)
    exact ⟨this.1, by rw [expandKey, this.2]; simp; omega⟩

theorem flatten_length_four : ∀ {ws : List (List Byte)}, (∀ w ∈ ws, w.length = 4) → ws.flatten.length = 4 * ws.length
  | [], _ => rfl
  | w :: ws, h => by
    rw [List.flatten_cons, List.length_append, flatten_length_four fun x hx => h x (by simp [hx]), h w (by simp)]
    simp; omega

theorem roundKeys_length {key : List Byte} (h : key.length = 32) :
    (roundKeys key).length = 15 ∧ ∀ k ∈ roundKeys key, k.length = 16 := by
  have w8 : ∀ w ∈ ((List.range 8).map fun i => (key.drop (4 * i)).take 4).reverse, w.length = 4 := by
    intro w hw
    simp only [List.mem_reverse, List.mem_map, List.mem_range] at hw
    obtain ⟨i, hi, rfl⟩ := hw
    simp; omega
  obtain ⟨e, l⟩ := expandKey_words 52 w8 (by simp)
  refine ⟨by simp [roundKeys], fun k hk => ?_⟩
  simp only [roundKeys, List.mem_map, List.mem_range] at hk
  obtain ⟨r, hr, rfl⟩ := hk
  rw [flatten_length_four fun w hw => e w (List.mem_reverse.1 (List.mem_of_mem_drop (List.mem_of_mem_take hw)))]
  simp [l] at *
  omega

theorem aesRounds_length : ∀ {ks : List (List Byte)} (s : List Byte), ks ≠ [] → (∀ k ∈ ks, k.length = 16) →
    (aesRounds ks s).length = 16
  | [k], s, _, h => by simp [aesRounds, shiftRows, h k (by simp)]
  | k :: l :: ks, s, _, h => by
    rw [aesRounds]
    · exact aesRounds_length _ (by simp) fun x hx => h x (by simp [List.mem_cons.1 hx])
    · simp

theorem aesBlock_length {key : List Byte} (h : key.length = 32) (p : List Byte) : (aesBlock (roundKeys key) p).length = 16 := by
  obtain ⟨l, a⟩ := roundKeys_length h
  refine aesRounds_length _ (fun hn => ?_) fun k hk => a k (List.mem_of_mem_tail hk)
  have := congrArg List.length hn
  simp [l] at this

@[simp] theorem leBytes_length (n : Nat) : ∀ x, (leBytes n x).length = n := by
  induction n with
  | zero => intro x; rfl
  | succ n ih => intro x; simp [leBytes, ih]
@[simp] theorem beBytes_length (n x : Nat) : (beBytes n x).length = n := by simp [beBytes]

theorem gcmTag_length {key : List Byte} (h : key.length = 32) (nonce aad cipher : List Byte) :
    (gcmTag key nonce aad cipher).length = 16 := by simp [gcmTag, aesBlock_length h]

@[simp] theorem ctxKey_length (s : State) (ctx : Nat) : (s.ctxKey ctx).length = 32 := by simp [State.ctxKey]

end Sys2Proof.Machine
end

