-- ==== Sys2Proof/Laws/Tab.lean ====
section
/-! SUPPORT. Laws of sparse tables and of byte memories: read after write, and the canonical form. -/

namespace Sys2Proof.Machine

variable {α : Type}

/-! ### Tables -/

@[simp] theorem Tab.find?_nil (k : Nat) : Tab.find? k ([] : Tab α) = none := rfl
@[simp] theorem Tab.get_nil (d : α) (k : Nat) : Tab.get d [] k = d := rfl

@[simp] theorem Tab.find?_put_same (k : Nat) (v : α) (t : Tab α) : Tab.find? k (Tab.put k v t) = some v := by
  induction t with
  | nil => simp [Tab.put, Tab.find?]
  | cons p t ih =>
    obtain ⟨j, w⟩ := p
    by_cases h : k < j
    · simp [Tab.put, Tab.find?, h]
    · by_cases e : k = j <;> simp [Tab.put, Tab.find?, h, e, ih]

theorem Tab.find?_put_other {k n : Nat} (h : n ≠ k) (v : α) (t : Tab α) :
    Tab.find? n (Tab.put k v t) = Tab.find? n t := by
  induction t with
  | nil => simp [Tab.put, Tab.find?, h]
  | cons p t ih =>
    obtain ⟨j, w⟩ := p
    by_cases l : k < j
    · simp [Tab.put, Tab.find?, l, h]
    · by_cases e : k = j
      · subst e; simp [Tab.put, Tab.find?, h]
      · simp [Tab.put, Tab.find?, l, e, ih]

/-- The later of two writes stands. -/
@[simp] theorem Tab.put_put (k : Nat) (v w : α) (t : Tab α) : Tab.put k v (Tab.put k w t) = Tab.put k v t := by
  induction t with
  | nil => simp [Tab.put]
  | cons p t ih =>
    obtain ⟨j, x⟩ := p
    by_cases l : k < j
    · simp [Tab.put, l]
    · by_cases e : k = j <;> simp [Tab.put, l, e, ih]

/-- Read after write. -/
theorem Tab.find?_put (n k : Nat) (v : α) (t : Tab α) :
    Tab.find? n (Tab.put k v t) = if n = k then some v else Tab.find? n t := by
  by_cases h : n = k
  · subst h; simp
  · simp [Tab.find?_put_other h, h]

@[simp] theorem Tab.get_put_same (d : α) (k : Nat) (v : α) (t : Tab α) : Tab.get d (Tab.put k v t) k = v := by
  simp [Tab.get]

theorem Tab.get_put_other (d : α) {k n : Nat} (h : n ≠ k) (v : α) (t : Tab α) :
    Tab.get d (Tab.put k v t) n = Tab.get d t n := by simp [Tab.get, Tab.find?_put_other h]

@[simp] theorem Tab.find?_del_same (k : Nat) (t : Tab α) : Tab.find? k (Tab.del k t) = none := by
  induction t with
  | nil => rfl
  | cons p t ih =>
    obtain ⟨j, w⟩ := p
    by_cases e : k = j <;> simp [Tab.del, Tab.find?, e]
    · subst e; exact ih
    · exact ih

theorem Tab.find?_del_other {k n : Nat} (h : n ≠ k) (t : Tab α) : Tab.find? n (Tab.del k t) = Tab.find? n t := by
  induction t with
  | nil => rfl
  | cons p t ih =>
    obtain ⟨j, w⟩ := p
    by_cases e : k = j
    · subst e; simp [Tab.del, Tab.find?, h, ih]
    · by_cases e2 : n = j <;> simp [Tab.del, Tab.find?, e, e2, ih]

theorem Tab.find?_mapv (f : α → α) (k : Nat) (t : Tab α) : Tab.find? k (Tab.mapv f t) = (Tab.find? k t).map f := by
  induction t with
  | nil => rfl
  | cons p t ih =>
    obtain ⟨j, w⟩ := p
    by_cases e : k = j
    · simp [Tab.mapv, Tab.find?, e]
    · have ih' : Tab.find? k (t.map fun kv => (kv.1, f kv.2)) = (Tab.find? k t).map f := ih
      simp [Tab.mapv, Tab.find?, e, ih']

/-! ### Byte memory -/

theorem Memory.read_of_lt {lo a : Nat} (h : a < lo) : ∀ {m : Memory}, Memory.wfFrom lo m = true → m.read a = Memory.unlisted
  | [], _ => rfl
  | (j, c) :: t, w => by
    simp only [Memory.wfFrom, Bool.and_eq_true, decide_eq_true_eq] at w
    have : a ≠ j := by omega
    simp only [Memory.read, if_neg this]
    exact Memory.read_of_lt (by omega) w.2

theorem Memory.wfFrom_mono {lo hi : Nat} (h : lo ≤ hi) : ∀ {m : Memory}, Memory.wfFrom hi m = true → Memory.wfFrom lo m = true
  | [], _ => rfl
  | (j, c) :: t, w => by
    simp only [Memory.wfFrom, Bool.and_eq_true, decide_eq_true_eq] at w ⊢
    exact ⟨⟨by omega, w.1.2⟩, w.2⟩

theorem Memory.wfFrom_write {a : Nat} (b : Byte) : ∀ {lo : Nat} {m : Memory}, lo ≤ a → Memory.wfFrom lo m = true →
    Memory.wfFrom lo (m.write a b) = true
  | lo, [], h, _ => by
    by_cases z : b = Memory.unlisted <;> simp [Memory.write, Memory.wfFrom, z, h]
  | lo, (j, c) :: t, h, w => by
    have w' := w
    simp only [Memory.wfFrom, Bool.and_eq_true, decide_eq_true_eq] at w
    by_cases l : a < j
    · by_cases z : b = Memory.unlisted
      · simp [Memory.write, l, z, w']
      · have n : (c != Memory.unlisted) = true := w.1.2
        simp [Memory.write, l, z, Memory.wfFrom, h, w.2, bne_iff_ne.mp n, show a + 1 ≤ j by omega]
    · by_cases e : a = j
      · subst e
        by_cases z : b = Memory.unlisted
        · simp [Memory.write, z]
          exact Memory.wfFrom_mono (by omega) w.2
        · simp [Memory.write, z, Memory.wfFrom, h, w.2]
      · simp only [Memory.write, l, e, if_false, Memory.wfFrom, Bool.and_eq_true, decide_eq_true_eq]
        exact ⟨w.1, Memory.wfFrom_write b (by omega) w.2⟩

/-- A write keeps the canonical form. -/
theorem Memory.wf_write {m : Memory} (a : Nat) (b : Byte) (h : m.wf = true) : (m.write a b).wf = true :=
  Memory.wfFrom_write b (Nat.zero_le a) h

/-- A run of writes keeps the canonical form. -/
theorem Memory.wf_writeN : ∀ (bs : List Byte) (a : Nat) {m : Memory}, m.wf = true → (Memory.writeN a bs m).wf = true
  | [], _, _, h => h
  | b :: bs, a, _, h => Memory.wf_writeN bs (a + 1) (Memory.wf_write a b h)

/-- A list of writes keeps the canonical form. -/
theorem Memory.wf_foldl {β : Type} (f : β → Nat) (g : β → Byte) : ∀ (ws : List β) {m : Memory}, m.wf = true →
    (ws.foldl (fun m w => m.write (f w) (g w)) m).wf = true
  | [], _, h => h
  | w :: ws, _, h => Memory.wf_foldl f g ws (Memory.wf_write (f w) (g w) h)

theorem Memory.wfFrom_filter (p : Host.Cell → Bool) : ∀ {lo : Nat} {m : Memory}, Memory.wfFrom lo m = true →
    Memory.wfFrom lo (m.filter p) = true
  | _, [], _ => rfl
  | lo, (j, c) :: t, w => by
    simp only [Memory.wfFrom, Bool.and_eq_true, decide_eq_true_eq] at w
    have ih := Memory.wfFrom_filter p w.2
    by_cases h : p (j, c) = true
    · simp only [List.filter_cons, h, if_true, Memory.wfFrom, Bool.and_eq_true, decide_eq_true_eq]
      exact ⟨w.1, ih⟩
    · simp only [List.filter_cons, h]
      exact Memory.wfFrom_mono (by omega) ih

/-- Forgetting bytes keeps the canonical form. -/
theorem Memory.wf_filter (p : Host.Cell → Bool) {m : Memory} (h : m.wf = true) :
    Memory.wf (m.filter p) = true := Memory.wfFrom_filter p h

/-- A byte reads as it was written. -/
theorem Memory.read_write_same (a : Nat) (b : Byte) : ∀ {lo : Nat} {m : Memory}, Memory.wfFrom lo m = true →
    (m.write a b).read a = b
  | _, [], _ => by by_cases z : b = Memory.unlisted <;> simp [Memory.write, Memory.read, z]
  | _, (j, c) :: t, w => by
    simp only [Memory.wfFrom, Bool.and_eq_true, decide_eq_true_eq] at w
    by_cases l : a < j
    · by_cases z : b = Memory.unlisted
      · have : a ≠ j := by omega
        simp [Memory.write, Memory.read, l, z, this, Memory.read_of_lt (show a < j + 1 by omega) w.2]
      · simp [Memory.write, Memory.read, l, z]
    · by_cases e : a = j
      · subst e
        by_cases z : b = Memory.unlisted
        · simp [Memory.write, z, Memory.read_of_lt (Nat.lt_succ_self a) w.2]
        · simp [Memory.write, Memory.read, z]
      · simp [Memory.write, Memory.read, l, e, Memory.read_write_same a b w.2]

/-- A write changes no other byte. -/
theorem Memory.read_write_other {a x : Nat} (h : x ≠ a) (b : Byte) : ∀ {lo : Nat} {m : Memory},
    Memory.wfFrom lo m = true → (m.write a b).read x = m.read x
  | _, [], _ => by by_cases z : b = Memory.unlisted <;> simp [Memory.write, Memory.read, z, h]
  | _, (j, c) :: t, w => by
    simp only [Memory.wfFrom, Bool.and_eq_true, decide_eq_true_eq] at w
    by_cases l : a < j
    · by_cases z : b = Memory.unlisted <;> simp [Memory.write, Memory.read, l, z, h]
    · by_cases e : a = j
      · subst e
        by_cases z : b = Memory.unlisted <;> simp [Memory.write, Memory.read, z, h]
      · by_cases e2 : x = j <;> simp [Memory.write, Memory.read, l, e, e2, Memory.read_write_other h b w.2]

end Sys2Proof.Machine
end

