-- ==== Sys2Proof/Laws/State.lean ====
section
/-! SUPPORT. What each update of the state leaves: one equation for each field and update, and reading after writing. -/

namespace Sys2Proof.Machine

variable (s : State)

/-! ### `setSkein` -/

@[simp] theorem State.setSkein_sched (k : Nat) (x : Skein) : (s.setSkein k x).sched = s.sched := rfl
@[simp] theorem State.setSkein_curCore (k : Nat) (x : Skein) : (s.setSkein k x).curCore = s.curCore := rfl
@[simp] theorem State.setSkein_curSlot (k : Nat) (x : Skein) : (s.setSkein k x).curSlot = s.curSlot := rfl
@[simp] theorem State.setSkein_curGang (k : Nat) (x : Skein) : (s.setSkein k x).curGang = s.curGang := rfl
@[simp] theorem State.setSkein_sig (k : Nat) (x : Skein) : (s.setSkein k x).sig = s.sig := rfl
@[simp] theorem State.setSkein_tick (k : Nat) (x : Skein) : (s.setSkein k x).tick = s.tick := rfl
@[simp] theorem State.setSkein_nextId (k : Nat) (x : Skein) : (s.setSkein k x).nextId = s.nextId := rfl
@[simp] theorem State.setSkein_groupId (k : Nat) (x : Skein) : (s.setSkein k x).groupId = s.groupId := rfl
@[simp] theorem State.setSkein_skeins (k : Nat) (x : Skein) : (s.setSkein k x).skeins = Tab.put k x s.skeins := rfl
@[simp] theorem State.setSkein_panels (k : Nat) (x : Skein) : (s.setSkein k x).panels = s.panels := rfl
@[simp] theorem State.setSkein_launches (k : Nat) (x : Skein) : (s.setSkein k x).launches = s.launches := rfl
@[simp] theorem State.setSkein_contexts (k : Nat) (x : Skein) : (s.setSkein k x).contexts = s.contexts := rfl
@[simp] theorem State.setSkein_cores (k : Nat) (x : Skein) : (s.setSkein k x).cores = s.cores := rfl
@[simp] theorem State.setSkein_ops (k : Nat) (x : Skein) : (s.setSkein k x).ops = s.ops := rfl
@[simp] theorem State.setSkein_mem (k : Nat) (x : Skein) : (s.setSkein k x).mem = s.mem := rfl
@[simp] theorem State.setSkein_walks (k : Nat) (x : Skein) : (s.setSkein k x).walks = s.walks := rfl
@[simp] theorem State.setSkein_quadTlbs (k : Nat) (x : Skein) : (s.setSkein k x).quadTlbs = s.quadTlbs := rfl
@[simp] theorem State.setSkein_images (k : Nat) (x : Skein) : (s.setSkein k x).images = s.images := rfl
@[simp] theorem State.setSkein_cycles (k : Nat) (x : Skein) : (s.setSkein k x).cycles = s.cycles := rfl
@[simp] theorem State.setSkein_host (k : Nat) (x : Skein) : (s.setSkein k x).host = s.host := rfl
@[simp] theorem State.setSkein_fabric (k : Nat) (x : Skein) : (s.setSkein k x).fabric = s.fabric := rfl
@[simp] theorem State.setSkein_vit (k : Nat) (x : Skein) : (s.setSkein k x).vit = s.vit := rfl
@[simp] theorem State.setSkein_collRounds (k : Nat) (x : Skein) : (s.setSkein k x).collRounds = s.collRounds := rfl
@[simp] theorem State.setSkein_collBad (k : Nat) (x : Skein) : (s.setSkein k x).collBad = s.collBad := rfl
@[simp] theorem State.setSkein_savedOps (k : Nat) (x : Skein) : (s.setSkein k x).savedOps = s.savedOps := rfl
@[simp] theorem State.setSkein_savedSkeins (k : Nat) (x : Skein) : (s.setSkein k x).savedSkeins = s.savedSkeins := rfl

/-! ### `setMe` -/

@[simp] theorem State.setMe_sched (x : Skein) : (s.setMe x).sched = s.sched := rfl
@[simp] theorem State.setMe_curCore (x : Skein) : (s.setMe x).curCore = s.curCore := rfl
@[simp] theorem State.setMe_curSlot (x : Skein) : (s.setMe x).curSlot = s.curSlot := rfl
@[simp] theorem State.setMe_curGang (x : Skein) : (s.setMe x).curGang = s.curGang := rfl
@[simp] theorem State.setMe_sig (x : Skein) : (s.setMe x).sig = s.sig := rfl
@[simp] theorem State.setMe_tick (x : Skein) : (s.setMe x).tick = s.tick := rfl
@[simp] theorem State.setMe_nextId (x : Skein) : (s.setMe x).nextId = s.nextId := rfl
@[simp] theorem State.setMe_groupId (x : Skein) : (s.setMe x).groupId = s.groupId := rfl
@[simp] theorem State.setMe_skeins (x : Skein) : (s.setMe x).skeins = Tab.put s.curKey x s.skeins := rfl
@[simp] theorem State.setMe_panels (x : Skein) : (s.setMe x).panels = s.panels := rfl
@[simp] theorem State.setMe_launches (x : Skein) : (s.setMe x).launches = s.launches := rfl
@[simp] theorem State.setMe_contexts (x : Skein) : (s.setMe x).contexts = s.contexts := rfl
@[simp] theorem State.setMe_cores (x : Skein) : (s.setMe x).cores = s.cores := rfl
@[simp] theorem State.setMe_ops (x : Skein) : (s.setMe x).ops = s.ops := rfl
@[simp] theorem State.setMe_mem (x : Skein) : (s.setMe x).mem = s.mem := rfl
@[simp] theorem State.setMe_walks (x : Skein) : (s.setMe x).walks = s.walks := rfl
@[simp] theorem State.setMe_quadTlbs (x : Skein) : (s.setMe x).quadTlbs = s.quadTlbs := rfl
@[simp] theorem State.setMe_images (x : Skein) : (s.setMe x).images = s.images := rfl
@[simp] theorem State.setMe_cycles (x : Skein) : (s.setMe x).cycles = s.cycles := rfl
@[simp] theorem State.setMe_host (x : Skein) : (s.setMe x).host = s.host := rfl
@[simp] theorem State.setMe_fabric (x : Skein) : (s.setMe x).fabric = s.fabric := rfl
@[simp] theorem State.setMe_vit (x : Skein) : (s.setMe x).vit = s.vit := rfl
@[simp] theorem State.setMe_collRounds (x : Skein) : (s.setMe x).collRounds = s.collRounds := rfl
@[simp] theorem State.setMe_collBad (x : Skein) : (s.setMe x).collBad = s.collBad := rfl
@[simp] theorem State.setMe_savedOps (x : Skein) : (s.setMe x).savedOps = s.savedOps := rfl
@[simp] theorem State.setMe_savedSkeins (x : Skein) : (s.setMe x).savedSkeins = s.savedSkeins := rfl

/-! ### `delSkein` -/

@[simp] theorem State.delSkein_sched (k : Nat) : (s.delSkein k).sched = s.sched := rfl
@[simp] theorem State.delSkein_curCore (k : Nat) : (s.delSkein k).curCore = s.curCore := rfl
@[simp] theorem State.delSkein_curSlot (k : Nat) : (s.delSkein k).curSlot = s.curSlot := rfl
@[simp] theorem State.delSkein_curGang (k : Nat) : (s.delSkein k).curGang = s.curGang := rfl
@[simp] theorem State.delSkein_sig (k : Nat) : (s.delSkein k).sig = s.sig := rfl
@[simp] theorem State.delSkein_tick (k : Nat) : (s.delSkein k).tick = s.tick := rfl
@[simp] theorem State.delSkein_nextId (k : Nat) : (s.delSkein k).nextId = s.nextId := rfl
@[simp] theorem State.delSkein_groupId (k : Nat) : (s.delSkein k).groupId = s.groupId := rfl
@[simp] theorem State.delSkein_skeins (k : Nat) : (s.delSkein k).skeins = Tab.del k s.skeins := rfl
@[simp] theorem State.delSkein_panels (k : Nat) : (s.delSkein k).panels = s.panels := rfl
@[simp] theorem State.delSkein_launches (k : Nat) : (s.delSkein k).launches = s.launches := rfl
@[simp] theorem State.delSkein_contexts (k : Nat) : (s.delSkein k).contexts = s.contexts := rfl
@[simp] theorem State.delSkein_cores (k : Nat) : (s.delSkein k).cores = s.cores := rfl
@[simp] theorem State.delSkein_ops (k : Nat) : (s.delSkein k).ops = s.ops := rfl
@[simp] theorem State.delSkein_mem (k : Nat) : (s.delSkein k).mem = s.mem := rfl
@[simp] theorem State.delSkein_walks (k : Nat) : (s.delSkein k).walks = s.walks := rfl
@[simp] theorem State.delSkein_quadTlbs (k : Nat) : (s.delSkein k).quadTlbs = s.quadTlbs := rfl
@[simp] theorem State.delSkein_images (k : Nat) : (s.delSkein k).images = s.images := rfl
@[simp] theorem State.delSkein_cycles (k : Nat) : (s.delSkein k).cycles = s.cycles := rfl
@[simp] theorem State.delSkein_host (k : Nat) : (s.delSkein k).host = s.host := rfl
@[simp] theorem State.delSkein_fabric (k : Nat) : (s.delSkein k).fabric = s.fabric := rfl
@[simp] theorem State.delSkein_vit (k : Nat) : (s.delSkein k).vit = s.vit := rfl
@[simp] theorem State.delSkein_collRounds (k : Nat) : (s.delSkein k).collRounds = s.collRounds := rfl
@[simp] theorem State.delSkein_collBad (k : Nat) : (s.delSkein k).collBad = s.collBad := rfl
@[simp] theorem State.delSkein_savedOps (k : Nat) : (s.delSkein k).savedOps = s.savedOps := rfl
@[simp] theorem State.delSkein_savedSkeins (k : Nat) : (s.delSkein k).savedSkeins = s.savedSkeins := rfl

/-! ### `setCur` -/

@[simp] theorem State.setCur_sched (c : Cursor) : (s.setCur c).sched = s.sched := rfl
@[simp] theorem State.setCur_curCore (c : Cursor) : (s.setCur c).curCore = s.curCore := rfl
@[simp] theorem State.setCur_curSlot (c : Cursor) : (s.setCur c).curSlot = s.curSlot := rfl
@[simp] theorem State.setCur_curGang (c : Cursor) : (s.setCur c).curGang = s.curGang := rfl
@[simp] theorem State.setCur_sig (c : Cursor) : (s.setCur c).sig = s.sig := rfl
@[simp] theorem State.setCur_tick (c : Cursor) : (s.setCur c).tick = s.tick := rfl
@[simp] theorem State.setCur_nextId (c : Cursor) : (s.setCur c).nextId = s.nextId := rfl
@[simp] theorem State.setCur_groupId (c : Cursor) : (s.setCur c).groupId = s.groupId := rfl
@[simp] theorem State.setCur_skeins (c : Cursor) : (s.setCur c).skeins = Tab.put s.curKey (s.me.setCursor s.curGang c) s.skeins := rfl
@[simp] theorem State.setCur_panels (c : Cursor) : (s.setCur c).panels = s.panels := rfl
@[simp] theorem State.setCur_launches (c : Cursor) : (s.setCur c).launches = s.launches := rfl
@[simp] theorem State.setCur_contexts (c : Cursor) : (s.setCur c).contexts = s.contexts := rfl
@[simp] theorem State.setCur_cores (c : Cursor) : (s.setCur c).cores = s.cores := rfl
@[simp] theorem State.setCur_ops (c : Cursor) : (s.setCur c).ops = s.ops := rfl
@[simp] theorem State.setCur_mem (c : Cursor) : (s.setCur c).mem = s.mem := rfl
@[simp] theorem State.setCur_walks (c : Cursor) : (s.setCur c).walks = s.walks := rfl
@[simp] theorem State.setCur_quadTlbs (c : Cursor) : (s.setCur c).quadTlbs = s.quadTlbs := rfl
@[simp] theorem State.setCur_images (c : Cursor) : (s.setCur c).images = s.images := rfl
@[simp] theorem State.setCur_cycles (c : Cursor) : (s.setCur c).cycles = s.cycles := rfl
@[simp] theorem State.setCur_host (c : Cursor) : (s.setCur c).host = s.host := rfl
@[simp] theorem State.setCur_fabric (c : Cursor) : (s.setCur c).fabric = s.fabric := rfl
@[simp] theorem State.setCur_vit (c : Cursor) : (s.setCur c).vit = s.vit := rfl
@[simp] theorem State.setCur_collRounds (c : Cursor) : (s.setCur c).collRounds = s.collRounds := rfl
@[simp] theorem State.setCur_collBad (c : Cursor) : (s.setCur c).collBad = s.collBad := rfl
@[simp] theorem State.setCur_savedOps (c : Cursor) : (s.setCur c).savedOps = s.savedOps := rfl
@[simp] theorem State.setCur_savedSkeins (c : Cursor) : (s.setCur c).savedSkeins = s.savedSkeins := rfl

/-! ### `pend` -/

@[simp] theorem State.pend_sched (n : Nat) (e : Effect) : (s.pend n e).sched = s.sched := rfl
@[simp] theorem State.pend_curCore (n : Nat) (e : Effect) : (s.pend n e).curCore = s.curCore := rfl
@[simp] theorem State.pend_curSlot (n : Nat) (e : Effect) : (s.pend n e).curSlot = s.curSlot := rfl
@[simp] theorem State.pend_curGang (n : Nat) (e : Effect) : (s.pend n e).curGang = s.curGang := rfl
@[simp] theorem State.pend_sig (n : Nat) (e : Effect) : (s.pend n e).sig = s.sig := rfl
@[simp] theorem State.pend_tick (n : Nat) (e : Effect) : (s.pend n e).tick = s.tick := rfl
@[simp] theorem State.pend_nextId (n : Nat) (e : Effect) : (s.pend n e).nextId = s.nextId := rfl
@[simp] theorem State.pend_groupId (n : Nat) (e : Effect) : (s.pend n e).groupId = s.groupId := rfl
@[simp] theorem State.pend_skeins (n : Nat) (e : Effect) : (s.pend n e).skeins = Tab.put s.curKey (s.me.pend s.cur.slot n e) s.skeins := rfl
@[simp] theorem State.pend_panels (n : Nat) (e : Effect) : (s.pend n e).panels = s.panels := rfl
@[simp] theorem State.pend_launches (n : Nat) (e : Effect) : (s.pend n e).launches = s.launches := rfl
@[simp] theorem State.pend_contexts (n : Nat) (e : Effect) : (s.pend n e).contexts = s.contexts := rfl
@[simp] theorem State.pend_cores (n : Nat) (e : Effect) : (s.pend n e).cores = s.cores := rfl
@[simp] theorem State.pend_ops (n : Nat) (e : Effect) : (s.pend n e).ops = s.ops := rfl
@[simp] theorem State.pend_mem (n : Nat) (e : Effect) : (s.pend n e).mem = s.mem := rfl
@[simp] theorem State.pend_walks (n : Nat) (e : Effect) : (s.pend n e).walks = s.walks := rfl
@[simp] theorem State.pend_quadTlbs (n : Nat) (e : Effect) : (s.pend n e).quadTlbs = s.quadTlbs := rfl
@[simp] theorem State.pend_images (n : Nat) (e : Effect) : (s.pend n e).images = s.images := rfl
@[simp] theorem State.pend_cycles (n : Nat) (e : Effect) : (s.pend n e).cycles = s.cycles := rfl
@[simp] theorem State.pend_host (n : Nat) (e : Effect) : (s.pend n e).host = s.host := rfl
@[simp] theorem State.pend_fabric (n : Nat) (e : Effect) : (s.pend n e).fabric = s.fabric := rfl
@[simp] theorem State.pend_vit (n : Nat) (e : Effect) : (s.pend n e).vit = s.vit := rfl
@[simp] theorem State.pend_collRounds (n : Nat) (e : Effect) : (s.pend n e).collRounds = s.collRounds := rfl
@[simp] theorem State.pend_collBad (n : Nat) (e : Effect) : (s.pend n e).collBad = s.collBad := rfl
@[simp] theorem State.pend_savedOps (n : Nat) (e : Effect) : (s.pend n e).savedOps = s.savedOps := rfl
@[simp] theorem State.pend_savedSkeins (n : Nat) (e : Effect) : (s.pend n e).savedSkeins = s.savedSkeins := rfl

/-! ### `pendAll` -/

@[simp] theorem State.pendAll_sched (n : Nat) (es : List Effect) : (s.pendAll n es).sched = s.sched := rfl
@[simp] theorem State.pendAll_curCore (n : Nat) (es : List Effect) : (s.pendAll n es).curCore = s.curCore := rfl
@[simp] theorem State.pendAll_curSlot (n : Nat) (es : List Effect) : (s.pendAll n es).curSlot = s.curSlot := rfl
@[simp] theorem State.pendAll_curGang (n : Nat) (es : List Effect) : (s.pendAll n es).curGang = s.curGang := rfl
@[simp] theorem State.pendAll_sig (n : Nat) (es : List Effect) : (s.pendAll n es).sig = s.sig := rfl
@[simp] theorem State.pendAll_tick (n : Nat) (es : List Effect) : (s.pendAll n es).tick = s.tick := rfl
@[simp] theorem State.pendAll_nextId (n : Nat) (es : List Effect) : (s.pendAll n es).nextId = s.nextId := rfl
@[simp] theorem State.pendAll_groupId (n : Nat) (es : List Effect) : (s.pendAll n es).groupId = s.groupId := rfl
@[simp] theorem State.pendAll_skeins (n : Nat) (es : List Effect) : (s.pendAll n es).skeins = Tab.put s.curKey (s.me.pendAll s.cur.slot n es) s.skeins := rfl
@[simp] theorem State.pendAll_panels (n : Nat) (es : List Effect) : (s.pendAll n es).panels = s.panels := rfl
@[simp] theorem State.pendAll_launches (n : Nat) (es : List Effect) : (s.pendAll n es).launches = s.launches := rfl
@[simp] theorem State.pendAll_contexts (n : Nat) (es : List Effect) : (s.pendAll n es).contexts = s.contexts := rfl
@[simp] theorem State.pendAll_cores (n : Nat) (es : List Effect) : (s.pendAll n es).cores = s.cores := rfl
@[simp] theorem State.pendAll_ops (n : Nat) (es : List Effect) : (s.pendAll n es).ops = s.ops := rfl
@[simp] theorem State.pendAll_mem (n : Nat) (es : List Effect) : (s.pendAll n es).mem = s.mem := rfl
@[simp] theorem State.pendAll_walks (n : Nat) (es : List Effect) : (s.pendAll n es).walks = s.walks := rfl
@[simp] theorem State.pendAll_quadTlbs (n : Nat) (es : List Effect) : (s.pendAll n es).quadTlbs = s.quadTlbs := rfl
@[simp] theorem State.pendAll_images (n : Nat) (es : List Effect) : (s.pendAll n es).images = s.images := rfl
@[simp] theorem State.pendAll_cycles (n : Nat) (es : List Effect) : (s.pendAll n es).cycles = s.cycles := rfl
@[simp] theorem State.pendAll_host (n : Nat) (es : List Effect) : (s.pendAll n es).host = s.host := rfl
@[simp] theorem State.pendAll_fabric (n : Nat) (es : List Effect) : (s.pendAll n es).fabric = s.fabric := rfl
@[simp] theorem State.pendAll_vit (n : Nat) (es : List Effect) : (s.pendAll n es).vit = s.vit := rfl
@[simp] theorem State.pendAll_collRounds (n : Nat) (es : List Effect) : (s.pendAll n es).collRounds = s.collRounds := rfl
@[simp] theorem State.pendAll_collBad (n : Nat) (es : List Effect) : (s.pendAll n es).collBad = s.collBad := rfl
@[simp] theorem State.pendAll_savedOps (n : Nat) (es : List Effect) : (s.pendAll n es).savedOps = s.savedOps := rfl
@[simp] theorem State.pendAll_savedSkeins (n : Nat) (es : List Effect) : (s.pendAll n es).savedSkeins = s.savedSkeins := rfl

/-! ### `commit` -/

@[simp] theorem State.commit_sched : (s.commit).sched = s.sched := rfl
@[simp] theorem State.commit_curCore : (s.commit).curCore = s.curCore := rfl
@[simp] theorem State.commit_curSlot : (s.commit).curSlot = s.curSlot := rfl
@[simp] theorem State.commit_curGang : (s.commit).curGang = s.curGang := rfl
@[simp] theorem State.commit_sig : (s.commit).sig = s.sig := rfl
@[simp] theorem State.commit_tick : (s.commit).tick = s.tick := rfl
@[simp] theorem State.commit_nextId : (s.commit).nextId = s.nextId := rfl
@[simp] theorem State.commit_groupId : (s.commit).groupId = s.groupId := rfl
@[simp] theorem State.commit_skeins : (s.commit).skeins = Tab.put s.curKey (s.me.setCursor s.curGang { s.cur with region := true }) s.skeins := rfl
@[simp] theorem State.commit_panels : (s.commit).panels = s.panels := rfl
@[simp] theorem State.commit_launches : (s.commit).launches = s.launches := rfl
@[simp] theorem State.commit_contexts : (s.commit).contexts = s.contexts := rfl
@[simp] theorem State.commit_cores : (s.commit).cores = s.cores := rfl
@[simp] theorem State.commit_ops : (s.commit).ops = s.ops := rfl
@[simp] theorem State.commit_mem : (s.commit).mem = s.mem := rfl
@[simp] theorem State.commit_walks : (s.commit).walks = s.walks := rfl
@[simp] theorem State.commit_quadTlbs : (s.commit).quadTlbs = s.quadTlbs := rfl
@[simp] theorem State.commit_images : (s.commit).images = s.images := rfl
@[simp] theorem State.commit_cycles : (s.commit).cycles = s.cycles := rfl
@[simp] theorem State.commit_host : (s.commit).host = s.host := rfl
@[simp] theorem State.commit_fabric : (s.commit).fabric = s.fabric := rfl
@[simp] theorem State.commit_vit : (s.commit).vit = s.vit := rfl
@[simp] theorem State.commit_collRounds : (s.commit).collRounds = s.collRounds := rfl
@[simp] theorem State.commit_collBad : (s.commit).collBad = s.collBad := rfl
@[simp] theorem State.commit_savedOps : (s.commit).savedOps = s.savedOps := rfl
@[simp] theorem State.commit_savedSkeins : (s.commit).savedSkeins = s.savedSkeins := rfl

/-! ### `hold` -/

@[simp] theorem State.hold_sched (w : Wait) : (s.hold w).sched = s.sched := rfl
@[simp] theorem State.hold_curCore (w : Wait) : (s.hold w).curCore = s.curCore := rfl
@[simp] theorem State.hold_curSlot (w : Wait) : (s.hold w).curSlot = s.curSlot := rfl
@[simp] theorem State.hold_curGang (w : Wait) : (s.hold w).curGang = s.curGang := rfl
@[simp] theorem State.hold_sig (w : Wait) : (s.hold w).sig = .held w := rfl
@[simp] theorem State.hold_tick (w : Wait) : (s.hold w).tick = s.tick := rfl
@[simp] theorem State.hold_nextId (w : Wait) : (s.hold w).nextId = s.nextId := rfl
@[simp] theorem State.hold_groupId (w : Wait) : (s.hold w).groupId = s.groupId := rfl
@[simp] theorem State.hold_skeins (w : Wait) : (s.hold w).skeins = Tab.put s.curKey (s.me.setCursor s.curGang { s.cur with wait := some w, woken := false }) s.skeins := rfl
@[simp] theorem State.hold_panels (w : Wait) : (s.hold w).panels = s.panels := rfl
@[simp] theorem State.hold_launches (w : Wait) : (s.hold w).launches = s.launches := rfl
@[simp] theorem State.hold_contexts (w : Wait) : (s.hold w).contexts = s.contexts := rfl
@[simp] theorem State.hold_cores (w : Wait) : (s.hold w).cores = s.cores := rfl
@[simp] theorem State.hold_ops (w : Wait) : (s.hold w).ops = s.ops := rfl
@[simp] theorem State.hold_mem (w : Wait) : (s.hold w).mem = s.mem := rfl
@[simp] theorem State.hold_walks (w : Wait) : (s.hold w).walks = s.walks := rfl
@[simp] theorem State.hold_quadTlbs (w : Wait) : (s.hold w).quadTlbs = s.quadTlbs := rfl
@[simp] theorem State.hold_images (w : Wait) : (s.hold w).images = s.images := rfl
@[simp] theorem State.hold_cycles (w : Wait) : (s.hold w).cycles = s.cycles := rfl
@[simp] theorem State.hold_host (w : Wait) : (s.hold w).host = s.host := rfl
@[simp] theorem State.hold_fabric (w : Wait) : (s.hold w).fabric = s.fabric := rfl
@[simp] theorem State.hold_vit (w : Wait) : (s.hold w).vit = s.vit := rfl
@[simp] theorem State.hold_collRounds (w : Wait) : (s.hold w).collRounds = s.collRounds := rfl
@[simp] theorem State.hold_collBad (w : Wait) : (s.hold w).collBad = s.collBad := rfl
@[simp] theorem State.hold_savedOps (w : Wait) : (s.hold w).savedOps = s.savedOps := rfl
@[simp] theorem State.hold_savedSkeins (w : Wait) : (s.hold w).savedSkeins = s.savedSkeins := rfl

/-! ### `setCore` -/

@[simp] theorem State.setCore_sched (c : Nat) (x : Core) : (s.setCore c x).sched = s.sched := rfl
@[simp] theorem State.setCore_curCore (c : Nat) (x : Core) : (s.setCore c x).curCore = s.curCore := rfl
@[simp] theorem State.setCore_curSlot (c : Nat) (x : Core) : (s.setCore c x).curSlot = s.curSlot := rfl
@[simp] theorem State.setCore_curGang (c : Nat) (x : Core) : (s.setCore c x).curGang = s.curGang := rfl
@[simp] theorem State.setCore_sig (c : Nat) (x : Core) : (s.setCore c x).sig = s.sig := rfl
@[simp] theorem State.setCore_tick (c : Nat) (x : Core) : (s.setCore c x).tick = s.tick := rfl
@[simp] theorem State.setCore_nextId (c : Nat) (x : Core) : (s.setCore c x).nextId = s.nextId := rfl
@[simp] theorem State.setCore_groupId (c : Nat) (x : Core) : (s.setCore c x).groupId = s.groupId := rfl
@[simp] theorem State.setCore_skeins (c : Nat) (x : Core) : (s.setCore c x).skeins = s.skeins := rfl
@[simp] theorem State.setCore_panels (c : Nat) (x : Core) : (s.setCore c x).panels = s.panels := rfl
@[simp] theorem State.setCore_launches (c : Nat) (x : Core) : (s.setCore c x).launches = s.launches := rfl
@[simp] theorem State.setCore_contexts (c : Nat) (x : Core) : (s.setCore c x).contexts = s.contexts := rfl
@[simp] theorem State.setCore_cores (c : Nat) (x : Core) : (s.setCore c x).cores = Tab.put c x s.cores := rfl
@[simp] theorem State.setCore_ops (c : Nat) (x : Core) : (s.setCore c x).ops = s.ops := rfl
@[simp] theorem State.setCore_mem (c : Nat) (x : Core) : (s.setCore c x).mem = s.mem := rfl
@[simp] theorem State.setCore_walks (c : Nat) (x : Core) : (s.setCore c x).walks = s.walks := rfl
@[simp] theorem State.setCore_quadTlbs (c : Nat) (x : Core) : (s.setCore c x).quadTlbs = s.quadTlbs := rfl
@[simp] theorem State.setCore_images (c : Nat) (x : Core) : (s.setCore c x).images = s.images := rfl
@[simp] theorem State.setCore_cycles (c : Nat) (x : Core) : (s.setCore c x).cycles = s.cycles := rfl
@[simp] theorem State.setCore_host (c : Nat) (x : Core) : (s.setCore c x).host = s.host := rfl
@[simp] theorem State.setCore_fabric (c : Nat) (x : Core) : (s.setCore c x).fabric = s.fabric := rfl
@[simp] theorem State.setCore_vit (c : Nat) (x : Core) : (s.setCore c x).vit = s.vit := rfl
@[simp] theorem State.setCore_collRounds (c : Nat) (x : Core) : (s.setCore c x).collRounds = s.collRounds := rfl
@[simp] theorem State.setCore_collBad (c : Nat) (x : Core) : (s.setCore c x).collBad = s.collBad := rfl
@[simp] theorem State.setCore_savedOps (c : Nat) (x : Core) : (s.setCore c x).savedOps = s.savedOps := rfl
@[simp] theorem State.setCore_savedSkeins (c : Nat) (x : Core) : (s.setCore c x).savedSkeins = s.savedSkeins := rfl

/-! ### `setPanel` -/

@[simp] theorem State.setPanel_sched (p : Nat) (x : Panel) : (s.setPanel p x).sched = s.sched := rfl
@[simp] theorem State.setPanel_curCore (p : Nat) (x : Panel) : (s.setPanel p x).curCore = s.curCore := rfl
@[simp] theorem State.setPanel_curSlot (p : Nat) (x : Panel) : (s.setPanel p x).curSlot = s.curSlot := rfl
@[simp] theorem State.setPanel_curGang (p : Nat) (x : Panel) : (s.setPanel p x).curGang = s.curGang := rfl
@[simp] theorem State.setPanel_sig (p : Nat) (x : Panel) : (s.setPanel p x).sig = s.sig := rfl
@[simp] theorem State.setPanel_tick (p : Nat) (x : Panel) : (s.setPanel p x).tick = s.tick := rfl
@[simp] theorem State.setPanel_nextId (p : Nat) (x : Panel) : (s.setPanel p x).nextId = s.nextId := rfl
@[simp] theorem State.setPanel_groupId (p : Nat) (x : Panel) : (s.setPanel p x).groupId = s.groupId := rfl
@[simp] theorem State.setPanel_skeins (p : Nat) (x : Panel) : (s.setPanel p x).skeins = s.skeins := rfl
@[simp] theorem State.setPanel_panels (p : Nat) (x : Panel) : (s.setPanel p x).panels = Tab.put p x s.panels := rfl
@[simp] theorem State.setPanel_launches (p : Nat) (x : Panel) : (s.setPanel p x).launches = s.launches := rfl
@[simp] theorem State.setPanel_contexts (p : Nat) (x : Panel) : (s.setPanel p x).contexts = s.contexts := rfl
@[simp] theorem State.setPanel_cores (p : Nat) (x : Panel) : (s.setPanel p x).cores = s.cores := rfl
@[simp] theorem State.setPanel_ops (p : Nat) (x : Panel) : (s.setPanel p x).ops = s.ops := rfl
@[simp] theorem State.setPanel_mem (p : Nat) (x : Panel) : (s.setPanel p x).mem = s.mem := rfl
@[simp] theorem State.setPanel_walks (p : Nat) (x : Panel) : (s.setPanel p x).walks = s.walks := rfl
@[simp] theorem State.setPanel_quadTlbs (p : Nat) (x : Panel) : (s.setPanel p x).quadTlbs = s.quadTlbs := rfl
@[simp] theorem State.setPanel_images (p : Nat) (x : Panel) : (s.setPanel p x).images = s.images := rfl
@[simp] theorem State.setPanel_cycles (p : Nat) (x : Panel) : (s.setPanel p x).cycles = s.cycles := rfl
@[simp] theorem State.setPanel_host (p : Nat) (x : Panel) : (s.setPanel p x).host = s.host := rfl
@[simp] theorem State.setPanel_fabric (p : Nat) (x : Panel) : (s.setPanel p x).fabric = s.fabric := rfl
@[simp] theorem State.setPanel_vit (p : Nat) (x : Panel) : (s.setPanel p x).vit = s.vit := rfl
@[simp] theorem State.setPanel_collRounds (p : Nat) (x : Panel) : (s.setPanel p x).collRounds = s.collRounds := rfl
@[simp] theorem State.setPanel_collBad (p : Nat) (x : Panel) : (s.setPanel p x).collBad = s.collBad := rfl
@[simp] theorem State.setPanel_savedOps (p : Nat) (x : Panel) : (s.setPanel p x).savedOps = s.savedOps := rfl
@[simp] theorem State.setPanel_savedSkeins (p : Nat) (x : Panel) : (s.setPanel p x).savedSkeins = s.savedSkeins := rfl

/-! ### `setLaunch` -/

@[simp] theorem State.setLaunch_sched (q : Nat) (x : Launch) : (s.setLaunch q x).sched = s.sched := rfl
@[simp] theorem State.setLaunch_curCore (q : Nat) (x : Launch) : (s.setLaunch q x).curCore = s.curCore := rfl
@[simp] theorem State.setLaunch_curSlot (q : Nat) (x : Launch) : (s.setLaunch q x).curSlot = s.curSlot := rfl
@[simp] theorem State.setLaunch_curGang (q : Nat) (x : Launch) : (s.setLaunch q x).curGang = s.curGang := rfl
@[simp] theorem State.setLaunch_sig (q : Nat) (x : Launch) : (s.setLaunch q x).sig = s.sig := rfl
@[simp] theorem State.setLaunch_tick (q : Nat) (x : Launch) : (s.setLaunch q x).tick = s.tick := rfl
@[simp] theorem State.setLaunch_nextId (q : Nat) (x : Launch) : (s.setLaunch q x).nextId = s.nextId := rfl
@[simp] theorem State.setLaunch_groupId (q : Nat) (x : Launch) : (s.setLaunch q x).groupId = s.groupId := rfl
@[simp] theorem State.setLaunch_skeins (q : Nat) (x : Launch) : (s.setLaunch q x).skeins = s.skeins := rfl
@[simp] theorem State.setLaunch_panels (q : Nat) (x : Launch) : (s.setLaunch q x).panels = s.panels := rfl
@[simp] theorem State.setLaunch_launches (q : Nat) (x : Launch) : (s.setLaunch q x).launches = Tab.put q x s.launches := rfl
@[simp] theorem State.setLaunch_contexts (q : Nat) (x : Launch) : (s.setLaunch q x).contexts = s.contexts := rfl
@[simp] theorem State.setLaunch_cores (q : Nat) (x : Launch) : (s.setLaunch q x).cores = s.cores := rfl
@[simp] theorem State.setLaunch_ops (q : Nat) (x : Launch) : (s.setLaunch q x).ops = s.ops := rfl
@[simp] theorem State.setLaunch_mem (q : Nat) (x : Launch) : (s.setLaunch q x).mem = s.mem := rfl
@[simp] theorem State.setLaunch_walks (q : Nat) (x : Launch) : (s.setLaunch q x).walks = s.walks := rfl
@[simp] theorem State.setLaunch_quadTlbs (q : Nat) (x : Launch) : (s.setLaunch q x).quadTlbs = s.quadTlbs := rfl
@[simp] theorem State.setLaunch_images (q : Nat) (x : Launch) : (s.setLaunch q x).images = s.images := rfl
@[simp] theorem State.setLaunch_cycles (q : Nat) (x : Launch) : (s.setLaunch q x).cycles = s.cycles := rfl
@[simp] theorem State.setLaunch_host (q : Nat) (x : Launch) : (s.setLaunch q x).host = s.host := rfl
@[simp] theorem State.setLaunch_fabric (q : Nat) (x : Launch) : (s.setLaunch q x).fabric = s.fabric := rfl
@[simp] theorem State.setLaunch_vit (q : Nat) (x : Launch) : (s.setLaunch q x).vit = s.vit := rfl
@[simp] theorem State.setLaunch_collRounds (q : Nat) (x : Launch) : (s.setLaunch q x).collRounds = s.collRounds := rfl
@[simp] theorem State.setLaunch_collBad (q : Nat) (x : Launch) : (s.setLaunch q x).collBad = s.collBad := rfl
@[simp] theorem State.setLaunch_savedOps (q : Nat) (x : Launch) : (s.setLaunch q x).savedOps = s.savedOps := rfl
@[simp] theorem State.setLaunch_savedSkeins (q : Nat) (x : Launch) : (s.setLaunch q x).savedSkeins = s.savedSkeins := rfl

/-! ### `setContext` -/

@[simp] theorem State.setContext_sched (c : Nat) (x : Context) : (s.setContext c x).sched = s.sched := rfl
@[simp] theorem State.setContext_curCore (c : Nat) (x : Context) : (s.setContext c x).curCore = s.curCore := rfl
@[simp] theorem State.setContext_curSlot (c : Nat) (x : Context) : (s.setContext c x).curSlot = s.curSlot := rfl
@[simp] theorem State.setContext_curGang (c : Nat) (x : Context) : (s.setContext c x).curGang = s.curGang := rfl
@[simp] theorem State.setContext_sig (c : Nat) (x : Context) : (s.setContext c x).sig = s.sig := rfl
@[simp] theorem State.setContext_tick (c : Nat) (x : Context) : (s.setContext c x).tick = s.tick := rfl
@[simp] theorem State.setContext_nextId (c : Nat) (x : Context) : (s.setContext c x).nextId = s.nextId := rfl
@[simp] theorem State.setContext_groupId (c : Nat) (x : Context) : (s.setContext c x).groupId = s.groupId := rfl
@[simp] theorem State.setContext_skeins (c : Nat) (x : Context) : (s.setContext c x).skeins = s.skeins := rfl
@[simp] theorem State.setContext_panels (c : Nat) (x : Context) : (s.setContext c x).panels = s.panels := rfl
@[simp] theorem State.setContext_launches (c : Nat) (x : Context) : (s.setContext c x).launches = s.launches := rfl
@[simp] theorem State.setContext_contexts (c : Nat) (x : Context) : (s.setContext c x).contexts = Tab.put c x s.contexts := rfl
@[simp] theorem State.setContext_cores (c : Nat) (x : Context) : (s.setContext c x).cores = s.cores := rfl
@[simp] theorem State.setContext_ops (c : Nat) (x : Context) : (s.setContext c x).ops = s.ops := rfl
@[simp] theorem State.setContext_mem (c : Nat) (x : Context) : (s.setContext c x).mem = s.mem := rfl
@[simp] theorem State.setContext_walks (c : Nat) (x : Context) : (s.setContext c x).walks = s.walks := rfl
@[simp] theorem State.setContext_quadTlbs (c : Nat) (x : Context) : (s.setContext c x).quadTlbs = s.quadTlbs := rfl
@[simp] theorem State.setContext_images (c : Nat) (x : Context) : (s.setContext c x).images = s.images := rfl
@[simp] theorem State.setContext_cycles (c : Nat) (x : Context) : (s.setContext c x).cycles = s.cycles := rfl
@[simp] theorem State.setContext_host (c : Nat) (x : Context) : (s.setContext c x).host = s.host := rfl
@[simp] theorem State.setContext_fabric (c : Nat) (x : Context) : (s.setContext c x).fabric = s.fabric := rfl
@[simp] theorem State.setContext_vit (c : Nat) (x : Context) : (s.setContext c x).vit = s.vit := rfl
@[simp] theorem State.setContext_collRounds (c : Nat) (x : Context) : (s.setContext c x).collRounds = s.collRounds := rfl
@[simp] theorem State.setContext_collBad (c : Nat) (x : Context) : (s.setContext c x).collBad = s.collBad := rfl
@[simp] theorem State.setContext_savedOps (c : Nat) (x : Context) : (s.setContext c x).savedOps = s.savedOps := rfl
@[simp] theorem State.setContext_savedSkeins (c : Nat) (x : Context) : (s.setContext c x).savedSkeins = s.savedSkeins := rfl

/-! ### `setOp` -/

@[simp] theorem State.setOp_sched (id : Nat) (o : Op) : (s.setOp id o).sched = s.sched := rfl
@[simp] theorem State.setOp_curCore (id : Nat) (o : Op) : (s.setOp id o).curCore = s.curCore := rfl
@[simp] theorem State.setOp_curSlot (id : Nat) (o : Op) : (s.setOp id o).curSlot = s.curSlot := rfl
@[simp] theorem State.setOp_curGang (id : Nat) (o : Op) : (s.setOp id o).curGang = s.curGang := rfl
@[simp] theorem State.setOp_sig (id : Nat) (o : Op) : (s.setOp id o).sig = s.sig := rfl
@[simp] theorem State.setOp_tick (id : Nat) (o : Op) : (s.setOp id o).tick = s.tick := rfl
@[simp] theorem State.setOp_nextId (id : Nat) (o : Op) : (s.setOp id o).nextId = s.nextId := rfl
@[simp] theorem State.setOp_groupId (id : Nat) (o : Op) : (s.setOp id o).groupId = s.groupId := rfl
@[simp] theorem State.setOp_skeins (id : Nat) (o : Op) : (s.setOp id o).skeins = s.skeins := rfl
@[simp] theorem State.setOp_panels (id : Nat) (o : Op) : (s.setOp id o).panels = s.panels := rfl
@[simp] theorem State.setOp_launches (id : Nat) (o : Op) : (s.setOp id o).launches = s.launches := rfl
@[simp] theorem State.setOp_contexts (id : Nat) (o : Op) : (s.setOp id o).contexts = s.contexts := rfl
@[simp] theorem State.setOp_cores (id : Nat) (o : Op) : (s.setOp id o).cores = s.cores := rfl
@[simp] theorem State.setOp_ops (id : Nat) (o : Op) : (s.setOp id o).ops = Tab.put id o s.ops := rfl
@[simp] theorem State.setOp_mem (id : Nat) (o : Op) : (s.setOp id o).mem = s.mem := rfl
@[simp] theorem State.setOp_walks (id : Nat) (o : Op) : (s.setOp id o).walks = s.walks := rfl
@[simp] theorem State.setOp_quadTlbs (id : Nat) (o : Op) : (s.setOp id o).quadTlbs = s.quadTlbs := rfl
@[simp] theorem State.setOp_images (id : Nat) (o : Op) : (s.setOp id o).images = s.images := rfl
@[simp] theorem State.setOp_cycles (id : Nat) (o : Op) : (s.setOp id o).cycles = s.cycles := rfl
@[simp] theorem State.setOp_host (id : Nat) (o : Op) : (s.setOp id o).host = s.host := rfl
@[simp] theorem State.setOp_fabric (id : Nat) (o : Op) : (s.setOp id o).fabric = s.fabric := rfl
@[simp] theorem State.setOp_vit (id : Nat) (o : Op) : (s.setOp id o).vit = s.vit := rfl
@[simp] theorem State.setOp_collRounds (id : Nat) (o : Op) : (s.setOp id o).collRounds = s.collRounds := rfl
@[simp] theorem State.setOp_collBad (id : Nat) (o : Op) : (s.setOp id o).collBad = s.collBad := rfl
@[simp] theorem State.setOp_savedOps (id : Nat) (o : Op) : (s.setOp id o).savedOps = s.savedOps := rfl
@[simp] theorem State.setOp_savedSkeins (id : Nat) (o : Op) : (s.setOp id o).savedSkeins = s.savedSkeins := rfl

/-! ### `delOp` -/

@[simp] theorem State.delOp_sched (id : Nat) : (s.delOp id).sched = s.sched := rfl
@[simp] theorem State.delOp_curCore (id : Nat) : (s.delOp id).curCore = s.curCore := rfl
@[simp] theorem State.delOp_curSlot (id : Nat) : (s.delOp id).curSlot = s.curSlot := rfl
@[simp] theorem State.delOp_curGang (id : Nat) : (s.delOp id).curGang = s.curGang := rfl
@[simp] theorem State.delOp_sig (id : Nat) : (s.delOp id).sig = s.sig := rfl
@[simp] theorem State.delOp_tick (id : Nat) : (s.delOp id).tick = s.tick := rfl
@[simp] theorem State.delOp_nextId (id : Nat) : (s.delOp id).nextId = s.nextId := rfl
@[simp] theorem State.delOp_groupId (id : Nat) : (s.delOp id).groupId = s.groupId := rfl
@[simp] theorem State.delOp_skeins (id : Nat) : (s.delOp id).skeins = s.skeins := rfl
@[simp] theorem State.delOp_panels (id : Nat) : (s.delOp id).panels = s.panels := rfl
@[simp] theorem State.delOp_launches (id : Nat) : (s.delOp id).launches = s.launches := rfl
@[simp] theorem State.delOp_contexts (id : Nat) : (s.delOp id).contexts = s.contexts := rfl
@[simp] theorem State.delOp_cores (id : Nat) : (s.delOp id).cores = s.cores := rfl
@[simp] theorem State.delOp_ops (id : Nat) : (s.delOp id).ops = Tab.del id s.ops := rfl
@[simp] theorem State.delOp_mem (id : Nat) : (s.delOp id).mem = s.mem := rfl
@[simp] theorem State.delOp_walks (id : Nat) : (s.delOp id).walks = s.walks := rfl
@[simp] theorem State.delOp_quadTlbs (id : Nat) : (s.delOp id).quadTlbs = s.quadTlbs := rfl
@[simp] theorem State.delOp_images (id : Nat) : (s.delOp id).images = s.images := rfl
@[simp] theorem State.delOp_cycles (id : Nat) : (s.delOp id).cycles = s.cycles := rfl
@[simp] theorem State.delOp_host (id : Nat) : (s.delOp id).host = s.host := rfl
@[simp] theorem State.delOp_fabric (id : Nat) : (s.delOp id).fabric = s.fabric := rfl
@[simp] theorem State.delOp_vit (id : Nat) : (s.delOp id).vit = s.vit := rfl
@[simp] theorem State.delOp_collRounds (id : Nat) : (s.delOp id).collRounds = s.collRounds := rfl
@[simp] theorem State.delOp_collBad (id : Nat) : (s.delOp id).collBad = s.collBad := rfl
@[simp] theorem State.delOp_savedOps (id : Nat) : (s.delOp id).savedOps = s.savedOps := rfl
@[simp] theorem State.delOp_savedSkeins (id : Nat) : (s.delOp id).savedSkeins = s.savedSkeins := rfl

/-! ### `newOp` -/

@[simp] theorem State.newOp_sched (o : Op) : (s.newOp o).sched = s.sched := rfl
@[simp] theorem State.newOp_curCore (o : Op) : (s.newOp o).curCore = s.curCore := rfl
@[simp] theorem State.newOp_curSlot (o : Op) : (s.newOp o).curSlot = s.curSlot := rfl
@[simp] theorem State.newOp_curGang (o : Op) : (s.newOp o).curGang = s.curGang := rfl
@[simp] theorem State.newOp_sig (o : Op) : (s.newOp o).sig = s.sig := rfl
@[simp] theorem State.newOp_tick (o : Op) : (s.newOp o).tick = s.tick := rfl
@[simp] theorem State.newOp_nextId (o : Op) : (s.newOp o).nextId = s.nextId + 1 := rfl
@[simp] theorem State.newOp_groupId (o : Op) : (s.newOp o).groupId = s.groupId := rfl
@[simp] theorem State.newOp_skeins (o : Op) : (s.newOp o).skeins = s.skeins := rfl
@[simp] theorem State.newOp_panels (o : Op) : (s.newOp o).panels = s.panels := rfl
@[simp] theorem State.newOp_launches (o : Op) : (s.newOp o).launches = s.launches := rfl
@[simp] theorem State.newOp_contexts (o : Op) : (s.newOp o).contexts = s.contexts := rfl
@[simp] theorem State.newOp_cores (o : Op) : (s.newOp o).cores = s.cores := rfl
@[simp] theorem State.newOp_ops (o : Op) : (s.newOp o).ops = Tab.put s.nextId o s.ops := rfl
@[simp] theorem State.newOp_mem (o : Op) : (s.newOp o).mem = s.mem := rfl
@[simp] theorem State.newOp_walks (o : Op) : (s.newOp o).walks = s.walks := rfl
@[simp] theorem State.newOp_quadTlbs (o : Op) : (s.newOp o).quadTlbs = s.quadTlbs := rfl
@[simp] theorem State.newOp_images (o : Op) : (s.newOp o).images = s.images := rfl
@[simp] theorem State.newOp_cycles (o : Op) : (s.newOp o).cycles = s.cycles := rfl
@[simp] theorem State.newOp_host (o : Op) : (s.newOp o).host = s.host := rfl
@[simp] theorem State.newOp_fabric (o : Op) : (s.newOp o).fabric = s.fabric := rfl
@[simp] theorem State.newOp_vit (o : Op) : (s.newOp o).vit = s.vit := rfl
@[simp] theorem State.newOp_collRounds (o : Op) : (s.newOp o).collRounds = s.collRounds := rfl
@[simp] theorem State.newOp_collBad (o : Op) : (s.newOp o).collBad = s.collBad := rfl
@[simp] theorem State.newOp_savedOps (o : Op) : (s.newOp o).savedOps = s.savedOps := rfl
@[simp] theorem State.newOp_savedSkeins (o : Op) : (s.newOp o).savedSkeins = s.savedSkeins := rfl

/-! ### `setMem` -/

@[simp] theorem State.setMem_sched (m : MemSys) : (s.setMem m).sched = s.sched := rfl
@[simp] theorem State.setMem_curCore (m : MemSys) : (s.setMem m).curCore = s.curCore := rfl
@[simp] theorem State.setMem_curSlot (m : MemSys) : (s.setMem m).curSlot = s.curSlot := rfl
@[simp] theorem State.setMem_curGang (m : MemSys) : (s.setMem m).curGang = s.curGang := rfl
@[simp] theorem State.setMem_sig (m : MemSys) : (s.setMem m).sig = s.sig := rfl
@[simp] theorem State.setMem_tick (m : MemSys) : (s.setMem m).tick = s.tick := rfl
@[simp] theorem State.setMem_nextId (m : MemSys) : (s.setMem m).nextId = s.nextId := rfl
@[simp] theorem State.setMem_groupId (m : MemSys) : (s.setMem m).groupId = s.groupId := rfl
@[simp] theorem State.setMem_skeins (m : MemSys) : (s.setMem m).skeins = s.skeins := rfl
@[simp] theorem State.setMem_panels (m : MemSys) : (s.setMem m).panels = s.panels := rfl
@[simp] theorem State.setMem_launches (m : MemSys) : (s.setMem m).launches = s.launches := rfl
@[simp] theorem State.setMem_contexts (m : MemSys) : (s.setMem m).contexts = s.contexts := rfl
@[simp] theorem State.setMem_cores (m : MemSys) : (s.setMem m).cores = s.cores := rfl
@[simp] theorem State.setMem_ops (m : MemSys) : (s.setMem m).ops = s.ops := rfl
@[simp] theorem State.setMem_mem (m : MemSys) : (s.setMem m).mem = m := rfl
@[simp] theorem State.setMem_walks (m : MemSys) : (s.setMem m).walks = s.walks := rfl
@[simp] theorem State.setMem_quadTlbs (m : MemSys) : (s.setMem m).quadTlbs = s.quadTlbs := rfl
@[simp] theorem State.setMem_images (m : MemSys) : (s.setMem m).images = s.images := rfl
@[simp] theorem State.setMem_cycles (m : MemSys) : (s.setMem m).cycles = s.cycles := rfl
@[simp] theorem State.setMem_host (m : MemSys) : (s.setMem m).host = s.host := rfl
@[simp] theorem State.setMem_fabric (m : MemSys) : (s.setMem m).fabric = s.fabric := rfl
@[simp] theorem State.setMem_vit (m : MemSys) : (s.setMem m).vit = s.vit := rfl
@[simp] theorem State.setMem_collRounds (m : MemSys) : (s.setMem m).collRounds = s.collRounds := rfl
@[simp] theorem State.setMem_collBad (m : MemSys) : (s.setMem m).collBad = s.collBad := rfl
@[simp] theorem State.setMem_savedOps (m : MemSys) : (s.setMem m).savedOps = s.savedOps := rfl
@[simp] theorem State.setMem_savedSkeins (m : MemSys) : (s.setMem m).savedSkeins = s.savedSkeins := rfl

/-! ### `setHost` -/

@[simp] theorem State.setHost_sched (h : HostIf) : (s.setHost h).sched = s.sched := rfl
@[simp] theorem State.setHost_curCore (h : HostIf) : (s.setHost h).curCore = s.curCore := rfl
@[simp] theorem State.setHost_curSlot (h : HostIf) : (s.setHost h).curSlot = s.curSlot := rfl
@[simp] theorem State.setHost_curGang (h : HostIf) : (s.setHost h).curGang = s.curGang := rfl
@[simp] theorem State.setHost_sig (h : HostIf) : (s.setHost h).sig = s.sig := rfl
@[simp] theorem State.setHost_tick (h : HostIf) : (s.setHost h).tick = s.tick := rfl
@[simp] theorem State.setHost_nextId (h : HostIf) : (s.setHost h).nextId = s.nextId := rfl
@[simp] theorem State.setHost_groupId (h : HostIf) : (s.setHost h).groupId = s.groupId := rfl
@[simp] theorem State.setHost_skeins (h : HostIf) : (s.setHost h).skeins = s.skeins := rfl
@[simp] theorem State.setHost_panels (h : HostIf) : (s.setHost h).panels = s.panels := rfl
@[simp] theorem State.setHost_launches (h : HostIf) : (s.setHost h).launches = s.launches := rfl
@[simp] theorem State.setHost_contexts (h : HostIf) : (s.setHost h).contexts = s.contexts := rfl
@[simp] theorem State.setHost_cores (h : HostIf) : (s.setHost h).cores = s.cores := rfl
@[simp] theorem State.setHost_ops (h : HostIf) : (s.setHost h).ops = s.ops := rfl
@[simp] theorem State.setHost_mem (h : HostIf) : (s.setHost h).mem = s.mem := rfl
@[simp] theorem State.setHost_walks (h : HostIf) : (s.setHost h).walks = s.walks := rfl
@[simp] theorem State.setHost_quadTlbs (h : HostIf) : (s.setHost h).quadTlbs = s.quadTlbs := rfl
@[simp] theorem State.setHost_images (h : HostIf) : (s.setHost h).images = s.images := rfl
@[simp] theorem State.setHost_cycles (h : HostIf) : (s.setHost h).cycles = s.cycles := rfl
@[simp] theorem State.setHost_host (h : HostIf) : (s.setHost h).host = h := rfl
@[simp] theorem State.setHost_fabric (h : HostIf) : (s.setHost h).fabric = s.fabric := rfl
@[simp] theorem State.setHost_vit (h : HostIf) : (s.setHost h).vit = s.vit := rfl
@[simp] theorem State.setHost_collRounds (h : HostIf) : (s.setHost h).collRounds = s.collRounds := rfl
@[simp] theorem State.setHost_collBad (h : HostIf) : (s.setHost h).collBad = s.collBad := rfl
@[simp] theorem State.setHost_savedOps (h : HostIf) : (s.setHost h).savedOps = s.savedOps := rfl
@[simp] theorem State.setHost_savedSkeins (h : HostIf) : (s.setHost h).savedSkeins = s.savedSkeins := rfl

/-! ### `print` -/

@[simp] theorem State.print_sched (l : String) : (s.print l).sched = s.sched := rfl
@[simp] theorem State.print_curCore (l : String) : (s.print l).curCore = s.curCore := rfl
@[simp] theorem State.print_curSlot (l : String) : (s.print l).curSlot = s.curSlot := rfl
@[simp] theorem State.print_curGang (l : String) : (s.print l).curGang = s.curGang := rfl
@[simp] theorem State.print_sig (l : String) : (s.print l).sig = s.sig := rfl
@[simp] theorem State.print_tick (l : String) : (s.print l).tick = s.tick := rfl
@[simp] theorem State.print_nextId (l : String) : (s.print l).nextId = s.nextId := rfl
@[simp] theorem State.print_groupId (l : String) : (s.print l).groupId = s.groupId := rfl
@[simp] theorem State.print_skeins (l : String) : (s.print l).skeins = s.skeins := rfl
@[simp] theorem State.print_panels (l : String) : (s.print l).panels = s.panels := rfl
@[simp] theorem State.print_launches (l : String) : (s.print l).launches = s.launches := rfl
@[simp] theorem State.print_contexts (l : String) : (s.print l).contexts = s.contexts := rfl
@[simp] theorem State.print_cores (l : String) : (s.print l).cores = s.cores := rfl
@[simp] theorem State.print_ops (l : String) : (s.print l).ops = s.ops := rfl
@[simp] theorem State.print_mem (l : String) : (s.print l).mem = s.mem := rfl
@[simp] theorem State.print_walks (l : String) : (s.print l).walks = s.walks := rfl
@[simp] theorem State.print_quadTlbs (l : String) : (s.print l).quadTlbs = s.quadTlbs := rfl
@[simp] theorem State.print_images (l : String) : (s.print l).images = s.images := rfl
@[simp] theorem State.print_cycles (l : String) : (s.print l).cycles = s.cycles := rfl
@[simp] theorem State.print_host (l : String) : (s.print l).host = s.host := rfl
@[simp] theorem State.print_fabric (l : String) : (s.print l).fabric = s.fabric := rfl
@[simp] theorem State.print_vit (l : String) : (s.print l).vit = { s.vit with out := s.vit.out ++ [l] } := rfl
@[simp] theorem State.print_collRounds (l : String) : (s.print l).collRounds = s.collRounds := rfl
@[simp] theorem State.print_collBad (l : String) : (s.print l).collBad = s.collBad := rfl
@[simp] theorem State.print_savedOps (l : String) : (s.print l).savedOps = s.savedOps := rfl
@[simp] theorem State.print_savedSkeins (l : String) : (s.print l).savedSkeins = s.savedSkeins := rfl

/-! ### Reading what was written -/

@[simp] theorem State.skein_setSkein (k n : Nat) (x : Skein) :
    (s.setSkein k x).skein n = if n = k then x else s.skein n := by
  by_cases h : n = k
  · subst h; simp [State.skein, State.setSkein]
  · simp [State.skein, State.setSkein, Tab.get_put_other _ h, h]
@[simp] theorem State.curKey_setSkein (k : Nat) (x : Skein) : (s.setSkein k x).curKey = s.curKey := rfl
@[simp] theorem State.curKey_setMe (x : Skein) : (s.setMe x).curKey = s.curKey := rfl
@[simp] theorem State.me_setMe (x : Skein) : (s.setMe x).me = x := by
  simp [State.me, State.setMe]
theorem State.skein_setMe (n : Nat) (x : Skein) : (s.setMe x).skein n = if n = s.curKey then x else s.skein n := by
  simp [State.setMe]
@[simp] theorem State.core_setCore (c n : Nat) (x : Core) : (s.setCore c x).core n = if n = c then x else s.core n := by
  by_cases h : n = c
  · subst h; simp [State.core, State.setCore]
  · simp [State.core, State.setCore, Tab.get_put_other _ h, h]
@[simp] theorem State.panel_setPanel (p n : Nat) (x : Panel) :
    (s.setPanel p x).panel n = if n = p then x else s.panel n := by
  by_cases h : n = p
  · subst h; simp [State.panel, State.setPanel]
  · simp [State.panel, State.setPanel, Tab.get_put_other _ h, h]
@[simp] theorem State.launch_setLaunch (q n : Nat) (x : Launch) :
    (s.setLaunch q x).launch n = if n = q then x else s.launch n := by
  by_cases h : n = q
  · subst h; simp [State.launch, State.setLaunch]
  · simp [State.launch, State.setLaunch, Tab.get_put_other _ h, h]
@[simp] theorem State.context_setContext (c n : Nat) (x : Context) :
    (s.setContext c x).context n = if n = c then x else s.context n := by
  by_cases h : n = c
  · subst h; simp [State.context, State.setContext]
  · simp [State.context, State.setContext, Tab.get_put_other _ h, h]
@[simp] theorem State.op_setOp (id n : Nat) (o : Op) : (s.setOp id o).op n = if n = id then some o else s.op n := by
  simp [State.op, State.setOp, Tab.find?_put]
theorem State.op_delOp (id n : Nat) : (s.delOp id).op n = if n = id then none else s.op n := by
  by_cases h : n = id
  · subst h; simp [State.op, State.delOp]
  · simp [State.op, State.delOp, Tab.find?_del_other h, h]
@[simp] theorem State.op_newOp (o : Op) (n : Nat) : (s.newOp o).op n = if n = s.nextId then some o else s.op n := by
  simp [State.op, State.newOp, Tab.find?_put]
@[simp] theorem State.me_pend (n : Nat) (e : Effect) : (s.pend n e).me = s.me.pend s.cur.slot n e := s.me_setMe _
@[simp] theorem State.curKey_pend (n : Nat) (e : Effect) : (s.pend n e).curKey = s.curKey := rfl
@[simp] theorem State.me_pendAll (n : Nat) (es : List Effect) : (s.pendAll n es).me = s.me.pendAll s.cur.slot n es := s.me_setMe _
@[simp] theorem State.me_setCur (c : Cursor) : (s.setCur c).me = s.me.setCursor s.curGang c := s.me_setMe _
@[simp] theorem State.curKey_setCur (c : Cursor) : (s.setCur c).curKey = s.curKey := rfl
@[simp] theorem Skein.cursor_setCursor (k : Skein) (g : Nat) (c : Cursor) : (k.setCursor g c).cursor g = c := by
  simp [Skein.cursor, Skein.setCursor]
@[simp] theorem State.cur_setCur (c : Cursor) : (s.setCur c).cur = c := by
  show (s.setCur c).me.cursor s.curGang = c
  simp
@[simp] theorem State.me_commit : s.commit.me = s.me.setCursor s.curGang { s.cur with region := true } := s.me_setCur _
@[simp] theorem State.cur_commit : s.commit.cur = { s.cur with region := true } := s.cur_setCur _
@[simp] theorem State.curKey_commit : s.commit.curKey = s.curKey := rfl
@[simp] theorem State.cur_hold (w : Wait) : (s.hold w).cur = { s.cur with wait := some w, woken := false } := s.cur_setCur _

end Sys2Proof.Machine
end

