-- ==== Sys2Proof/Laws/Waits.lean ====
section
/-! SUPPORT. What each wait at issue can come to: the word goes on, or its gang waits and nothing else has changed. -/

namespace Sys2Proof.Machine

variable {s : State} {body : Out}

/-! ### The word goes on -/

theorem State.pendingOf_of_settled {rs : List SReg} (h : s.settled rs) : s.pendingOf rs = none := by
  simp only [State.pendingOf, List.find?_eq_none]
  intro r hr
  simp [h r hr]

theorem State.awaits_of_settled {rs : List SReg} (h : s.settled rs) : s.awaits rs body = body := by
  simp [State.awaits, State.pendingOf_of_settled h]

theorem State.awaitsFlag_of_countable {fs : Bool} (h : s.countable fs) : s.awaitsFlag fs body = body := by
  unfold State.countable State.flagFull at h
  unfold State.awaitsFlag
  split
  · next n e => simp only [e, decide_eq_false_iff_not] at h; simp [h]
  · rfl

theorem State.commitClass_of_mayCommit (h : s.mayCommit) : s.commitClass body = body := by
  simp [State.commitClass, h.1, h.2]

theorem State.memoryWord_of_mayAccess {w : Bool} (h : s.mayAccess w) : s.memoryWord w body = body := by
  obtain ⟨⟨n, hn, hv⟩, hb, he, hw⟩ := h
  have hfull : (List.range 4).all (fun n => (Tab.get LogEntry.free s.me.oplog n).valid) = false := by
    rw [List.all_eq_false]
    exact ⟨n, List.mem_range.mpr hn, by simp [hv]⟩
  have hw' : (w && s.me.logged LogEntry.write) = false := by cases w <;> simp_all
  simp only [State.memoryWord, hfull, hb, he, hw', Bool.or_self, Bool.false_eq_true, if_false]

theorem State.engineWord_of_mayQueue (h : s.mayQueue) : s.engineWord body = body := by
  have := Nat.not_le_of_lt h.2
  simp [State.engineWord, State.commitClass_of_mayCommit h.1, this]

theorem State.released_of_mayRelease {sc : Scope} {f : State → Out} (h : s.mayRelease) :
    s.released sc f = f (s.release s.curCore sc) := by
  have h' : s.ops.any (fun q => q.2.beforeRelease s.curKey) = false := h
  simp [State.released, h']

theorem firstScalar_of_clean : ∀ {xs : List Scalar}, (∀ x ∈ xs, x.poison = false) → firstScalar xs = none
  | [], _ => rfl
  | x :: t, h => by
    simp only [firstScalar, h x (List.mem_cons_self), Bool.false_eq_true, if_false]
    exact firstScalar_of_clean fun y hy => h y (List.mem_cons_of_mem _ hy)

theorem State.unpoisoned_of_clean {rs : List SReg} (h : s.clean rs) : s.unpoisoned rs body = body := by
  have : firstScalar (rs.map s.sreg) = none := firstScalar_of_clean fun x hx => by
    obtain ⟨r, hr, rfl⟩ := List.mem_map.mp hx
    exact h r hr
  simp [State.unpoisoned, this]

theorem State.unpoisonedLanes_of_none {f : Nat → Option Word} (h : s.lowToken f = none) :
    s.unpoisonedLanes f body = body := by simp [State.unpoisonedLanes, h]

/-! ### Every outcome -/

/-- `awaits` answers its body, or the gang waits on a pending scalar. -/
theorem State.awaits_cases (rs : List SReg) :
    s.awaits rs body = body ∨ ∃ r ∈ rs, (s.sreg r).pend.isSome ∧ s.awaits rs body = .next (s.hold (.future r)) := by
  unfold State.awaits
  split
  · next r h => exact .inr ⟨r, List.mem_of_find?_eq_some h, by simpa using List.find?_some h, rfl⟩
  · exact .inl rfl

/-- `awaitsFlag` answers its body, or the gang waits on a flag that stands at 63 or more. -/
theorem State.awaitsFlag_cases (fs : Bool) :
    s.awaitsFlag fs body = body ∨
      ∃ n, s.flagOf fs = some n ∧ 63 ≤ s.me.flag n ∧ s.awaitsFlag fs body = .next (s.hold (.flagFull n)) := by
  unfold State.awaitsFlag
  split
  · next n e =>
    by_cases h : 63 ≤ s.me.flag n
    · exact .inr ⟨n, e, h, by simp [h]⟩
    · exact .inl (by simp [h])
  · exact .inl rfl

/-- `commitClass` answers its body, or the gang waits on earlier words. -/
theorem State.commitClass_cases :
    s.commitClass body = body ∨ s.commitClass body = .next (s.hold .earlier) := by
  unfold State.commitClass
  split
  · exact .inr rfl
  · exact .inl rfl

/-- `memoryWord` answers its body, or the gang waits on the operand log or on earlier words. -/
theorem State.memoryWord_cases (w : Bool) :
    s.memoryWord w body = body ∨ s.memoryWord w body = .next (s.hold .logFull) ∨
      s.memoryWord w body = .next (s.hold .earlier) := by
  simp only [State.memoryWord]
  split
  · exact .inr (.inl rfl)
  · split
    · exact .inr (.inr rfl)
    · split
      · exact .inr (.inr rfl)
      · exact .inl rfl

/-- `engineWord` answers its body, or the gang waits. -/
theorem State.engineWord_cases :
    s.engineWord body = body ∨ s.engineWord body = .next (s.hold .earlier) ∨ s.engineWord body = .next (s.hold .queueFull) := by
  unfold State.engineWord
  rcases State.commitClass_cases (s := s)
    (body := if queueSize ≤ s.myCore.queue.length then .next (s.hold .queueFull) else body) with h | h <;> rw [h]
  · split
    · exact .inr (.inr rfl)
    · exact .inl rfl
  · exact .inr (.inl rfl)

/-- `unpoisoned` answers its body, or POISON with the first token. -/
theorem State.unpoisoned_cases (rs : List SReg) :
    s.unpoisoned rs body = body ∨
      ∃ t, firstScalar (rs.map s.sreg) = some t ∧ s.unpoisoned rs body = .next (s.trapToken .poison t.toNat) := by
  unfold State.unpoisoned
  split
  · next t h => exact .inr ⟨t, h, rfl⟩
  · exact .inl rfl

end Sys2Proof.Machine
end

