-- ==== Sys2Proof/Laws/Results.lean ====
section
/-! SUPPORT. What the shared operations for results come to: lineage changes the cabinet of the issuing core alone, and a
word with fixed latency leaves its results on their way and nothing else. -/

namespace Sys2Proof.Machine

/-! ### Lineage -/

/-- `t` is `s` but for the cabinet of the issuing core. -/
structure CabinetOnly (s t : State) : Prop where
  cores : ∀ c, c ≠ s.curCore → t.core c = s.core c
  mine : { t.core s.curCore with cabinet := (s.core s.curCore).cabinet } = s.core s.curCore
  rest : { t with cores := s.cores } = s

theorem CabinetOnly.refl (s : State) : CabinetOnly s s := ⟨fun _ _ => rfl, rfl, rfl⟩

theorem CabinetOnly.curCore {s t : State} (h : CabinetOnly s t) : t.curCore = s.curCore := by
  have := congrArg State.curCore h.rest; exact this

theorem CabinetOnly.skeins {s t : State} (h : CabinetOnly s t) : t.skeins = s.skeins := by
  have := congrArg State.skeins h.rest; exact this

theorem CabinetOnly.curSlot {s t : State} (h : CabinetOnly s t) : t.curSlot = s.curSlot := by
  have := congrArg State.curSlot h.rest; exact this

theorem CabinetOnly.ops {s t : State} (h : CabinetOnly s t) : t.ops = s.ops := by
  have := congrArg State.ops h.rest; exact this

theorem CabinetOnly.nextId {s t : State} (h : CabinetOnly s t) : t.nextId = s.nextId := by
  have := congrArg State.nextId h.rest; exact this

theorem CabinetOnly.me {s t : State} (h : CabinetOnly s t) : t.me = s.me := by
  have a : t.skeins = s.skeins := h.skeins
  have b : t.curCore = s.curCore := h.curCore
  have c : t.curSlot = s.curSlot := h.curSlot
  simp only [State.me, State.skein, State.curKey, a, b, c]

theorem CabinetOnly.trans {s t u : State} (h : CabinetOnly s t) (g : CabinetOnly t u) : CabinetOnly s u where
  cores := fun c hc => by rw [g.cores c (by rw [h.curCore]; exact hc), h.cores c hc]
  mine := by
    have gm := g.mine
    rw [h.curCore] at gm
    have e : { u.core s.curCore with cabinet := (s.core s.curCore).cabinet } =
        { t.core s.curCore with cabinet := (s.core s.curCore).cabinet } := by
      rw [← gm]
    rw [e, h.mine]
  rest := by
    have e : { u with cores := s.cores } = { ({ u with cores := t.cores } : State) with cores := s.cores } := rfl
    rw [e, g.rest, h.rest]

theorem CabinetOnly.setCabinet (s : State) (t : Tab CabEntry) :
    CabinetOnly s (s.setCore s.curCore { s.core s.curCore with cabinet := t }) where
  cores := fun c hc => by simp [hc]
  mine := by simp
  rest := rfl

theorem State.sweep_spec (s : State) : CabinetOnly s (s.sweep s.curCore) := by
  simp only [State.sweep]
  split
  · exact .refl s
  · exact .setCabinet s _

theorem State.useEntry_spec (s : State) (n : Nat) (e : CabEntry) : CabinetOnly s (s.useEntry n e) :=
  .setCabinet s _

theorem State.bindKey_spec (s : State) (e : CabEntry) : CabinetOnly s (s.bindKey e).1 := by
  have h := s.sweep_spec
  simp only [State.bindKey]
  split
  · exact h.trans (State.useEntry_spec _ _ _)
  · split
    · exact h.trans (State.useEntry_spec _ _ _)
    · exact h

/-- Lineage changes the cabinet of the issuing core alone. -/
theorem State.lineage_spec (s : State) (i : Instr) (srcs : Option (List Src)) (p : Bool) (f : FpFlags) :
    CabinetOnly s (s.lineage i srcs p f).1 := by
  unfold State.lineage
  split
  · exact .refl s
  · split
    · split
      · exact .refl s
      · exact s.bindKey_spec _
    · exact .refl s

/-! ### Results on their way -/

/-- From a change of the cabinet to what a word leaves: the skein is put last. -/
theorem CabinetOnly.setMe {s t : State} (h : CabinetOnly s t) (k : Skein) : OnlySkein s (t.setMe k) k where
  me := by simp
  others := fun n hn => by
    have c : t.curKey = s.curKey := by
      simp only [State.curKey, h.curCore, h.curSlot]
    rw [State.skein_setMe, c, if_neg hn]
    simp only [State.skein, h.skeins]
  cores := h.cores
  mine := by
    have e : (t.setMe k).myCore = t.core s.curCore := by
      simp only [State.myCore, State.setMe_curCore, h.curCore]; rfl
    rw [e]; exact h.mine
  ops := h.ops
  named := h.nextId
  rest := by
    have e : ({ t.setMe k with skeins := s.skeins, cores := s.cores, ops := s.ops, nextId := s.nextId } : State) =
        { ({ t with cores := s.cores } : State) with skeins := s.skeins, ops := s.ops, nextId := s.nextId } := rfl
    rw [e, h.rest]

/-- The skein of a change of the cabinet alone. -/
theorem CabinetOnly.issued {s t : State} (h : CabinetOnly s t) : OnlySkein s t s.me where
  me := h.me
  others := fun n _ => by simp only [State.skein, h.skeins]
  cores := h.cores
  mine := by
    have e : t.myCore = t.core s.curCore := by simp only [State.myCore, h.curCore]
    rw [e]; exact h.mine
  ops := h.ops
  named := h.nextId
  rest := by
    have e : ({ t with skeins := s.skeins, cores := s.cores, ops := s.ops, nextId := s.nextId } : State) =
        { ({ t with cores := s.cores } : State) with skeins := s.skeins, ops := s.ops, nextId := s.nextId } := rfl
    rw [e, h.rest]

@[simp] theorem State.sends_zero (s : State) (lat : Nat) (e : Effect) : s.sends lat e 0 = s.sent lat e := rfl
@[simp] theorem Skein.pend_cursor (k : Skein) (n lat g : Nat) (e : Effect) : (k.pend n lat e).cursor g = k.cursor g := rfl

theorem CabinetOnly.cur {s t : State} (h : CabinetOnly s t) : t.cur = s.cur := by
  have g : t.curGang = s.curGang := by have := congrArg State.curGang h.rest; exact this
  simp only [State.cur, h.me, g]

/-- A result of the word at the current slot, after a change of the cabinet. -/
theorem CabinetOnly.pend {s t : State} (h : CabinetOnly s t) (lat : Nat) (e : Effect) :
    t.pend lat e = t.setMe (s.sent lat e) := by simp only [State.pend, State.sent, h.me, h.cur]

/-- A second result of the word joins the first. -/
theorem CabinetOnly.pend_pend {s t : State} (h : CabinetOnly s t) (lat : Nat) (e y : Effect) :
    (t.pend lat e).pend lat y = t.setMe ((s.sent lat e).pend s.cur.slot lat y) := by
  have c : (t.setMe (s.sent lat e)).cur.slot = s.cur.slot := by
    have g : t.curGang = s.curGang := by have := congrArg State.curGang h.rest; exact this
    simp only [State.cur, State.me_setMe, State.setMe_curGang, g, State.sent, Skein.pend_cursor]
  rw [h.pend]
  simp only [State.pend, State.me_setMe, c]
  simp only [State.setMe, State.setSkein, State.curKey]
  congr 1
  exact Tab.put_put _ _ _ _

/-- A scalar result: POISON for a poisoned `em` or `pm`, else the result and its flags are on their way. -/
theorem State.putScalar_spec (s : State) (i : Instr) (lat : Nat) (d : SReg) (srcs : Option (List Src)) (v : Scalar)
    (fl : FpFlags) (h : (v.poison && (d == regEm || d == regPm)) = false) :
    ∃ t tag, s.putScalar i lat d srcs v fl = .next t ∧ OnlySkein s t (s.sends lat (.scalar d.toNat v tag) fl) := by
  have l := s.lineage_spec i srcs v.poison fl
  refine ⟨_, if d = regZero then none else (s.lineage i srcs v.poison fl).2, by simp only [State.putScalar, h]; rfl, ?_⟩
  by_cases z : fl = 0
  · simp only [State.sends, z, if_true]
    subst z
    rw [l.pend]; exact l.setMe _
  · simp only [State.sends, z, if_false]
    rw [l.pend_pend]; exact l.setMe _

theorem scalarResult_of_clean {s : State} {rs : List SReg} (h : s.clean rs) (v : Dword) :
    scalarResult (rs.map s.sreg) v = ⟨v, false, none⟩ := by
  have : firstScalar (rs.map s.sreg) = none := firstScalar_of_clean fun x hx => by
    obtain ⟨r, hr, rfl⟩ := List.mem_map.mp hx
    exact h r hr
  simp [scalarResult, this]

/-- A scalar word: its result, or the token of its first poisoned source, is visible two issue cycles later (R30, R116). -/
theorem State.scalarWord_gives (s : State) (i : Instr) (d : SReg) (rs : List SReg) (srcs : Option (List Src)) (v : Dword)
    (hp : s.settled (d :: rs))
    (hd : (scalarResult (rs.map s.sreg) v).poison = true → d ≠ regEm ∧ d ≠ regPm) :
    ∃ t tag, s.scalarWord i d rs srcs v = .next t ∧
      OnlySkein s t (s.sends latScl (.scalar d.toNat (scalarResult (rs.map s.sreg) v) tag) 0) := by
  rw [State.scalarWord, State.awaits_of_settled hp]
  refine s.putScalar_spec i latScl d srcs _ 0 ?_
  cases hq : (scalarResult (rs.map s.sreg) v).poison
  · rfl
  · have := hd hq; simp [this.1, this.2]

/-- Lane results: they and their flags are on their way. -/
theorem State.putVec_spec (s : State) (i : Instr) (lat : Nat) (srcs : Option (List Src)) (ws : List (Nat × Lane))
    (fl : FpFlags) :
    ∃ t tag, s.putVec i lat srcs ws fl = .next t ∧ OnlySkein s t (s.sendsLanes lat ws tag fl) := by
  simp only [State.putVec]
  generalize hl : s.lineage i (if decide ((laneRegs ws).length = 1) = true then srcs else none)
    (ws.any fun w => w.2.poison) fl = q
  have l : CabinetOnly s q.1 := hl ▸ s.lineage_spec i _ _ fl
  refine ⟨_, q.2, rfl, ?_⟩
  by_cases w : ws.isEmpty = true <;> by_cases z : fl = 0 <;>
    simp only [w, z, State.sendsLanes, State.sends, if_true, if_false, Bool.false_eq_true]
  · exact l.issued
  · rw [l.pend]; exact l.setMe _
  · rw [l.pend]; exact l.setMe _
  · rw [l.pend_pend]; exact l.setMe _

/-- A lane-wise word: nothing at all with no active lane, else a result in each active lane (R151). -/
theorem State.vecWord_spec (s : State) (i : Instr) (lat : Nat) (d : VReg) (srcs : Option (List Src))
    (f : Nat → Lane × FpFlags) :
    ∃ t tag, s.vecWord i lat d srcs f = .next t ∧
      OnlySkein s t (s.sendsLanes lat (s.lanes.map fun l => (s.me.key d.toNat l, (f l).1)) tag
        (orFlags (s.lanes.map fun l => (f l).2))) := by
  have h := s.putVec_spec i lat srcs (s.lanes.map fun l => (s.me.key d.toNat l, (f l).1))
    (orFlags (s.lanes.map fun l => (f l).2))
  simpa only [State.vecWord, List.map_map, Function.comp_def] using h

/-- A lane-wise word with pair results. -/
theorem State.pairWord_spec (s : State) (i : Instr) (lat : Nat) (d : VReg) (f : Nat → Scalar × FpFlags) :
    ∃ t tag, s.pairWord i lat d f = .next t ∧
      OnlySkein s t (s.sendsLanes lat (s.lanes.flatMap fun l => s.pairWrites d.toNat l (f l).1) tag
        (orFlags (s.lanes.map fun l => (f l).2))) := by
  have h := s.putVec_spec i lat none (s.lanes.flatMap fun l => s.pairWrites d.toNat l (f l).1)
    (orFlags (s.lanes.map fun l => (f l).2))
  simpa only [State.pairWord, List.map_map, List.flatMap_map, Function.comp_def] using h

/-! ### Words in flight -/

@[simp] theorem Skein.incFlag_pc (k : Skein) (f : Option Nat) : (k.incFlag f).pc = k.pc := by cases f <;> rfl
@[simp] theorem Skein.incFlag_gangs (k : Skein) (f : Option Nat) : (k.incFlag f).gangs = k.gangs := by cases f <;> rfl
@[simp] theorem Skein.incFlag_panel (k : Skein) (f : Option Nat) : (k.incFlag f).panel = k.panel := by cases f <;> rfl

/-- A word that goes in flight counts on its flag, and is a new operation. -/
theorem State.startOp_spec {s t : State} (h : CabinetOnly s t) (fs : Bool) (kind : OpKind) :
    Issued s (t.startOp fs kind) (s.me.incFlag (s.flagOf fs)) (some (s.wordOp (s.flagOf fs) kind)) := by
  have hk : t.curKey = s.curKey := by simp only [State.curKey, h.curCore, h.curSlot]
  have hg : t.curGang = s.curGang := by have := congrArg State.curGang h.rest; exact this
  have hp : t.panels = s.panels := by have := congrArg State.panels h.rest; exact this
  have hf : t.flagOf fs = s.flagOf fs := by
    simp only [State.flagOf, State.cur, h.me, hg]; rfl
  have e : t.startOp fs kind =
      (t.setMe (s.me.incFlag (s.flagOf fs))).newOp (s.wordOp (s.flagOf fs) kind) := by
    simp only [State.startOp, State.newWordOp, State.wordOp, State.here, State.curPc, State.cur, State.myPanel,
      State.panel, State.me_setMe, State.setMe_curCore, State.setMe_curGang, State.curKey_setMe, State.setMe_panels,
      Skein.incFlag_panel, h.me, hf, hk, hg, hp, h.curCore]
    simp [Skein.cursor, Skein.pcOf]
  have b := h.setMe (s.me.incFlag (s.flagOf fs))
  rw [e]
  exact {
    me := b.me
    others := b.others
    cores := b.cores
    mine := b.mine
    ops := by
      show Tab.put (t.setMe _).nextId _ (t.setMe _).ops = _
      rw [b.ops, b.named]; rfl
    named := by
      show (t.setMe _).nextId + 1 = _
      rw [b.named]; rfl
    rest := b.rest }

end Sys2Proof.Machine
end

