-- ==== Sys2Proof/Laws/Traps.lean ====
section
/-! SUPPORT. What taking a trap comes to, said once: the skein is halted at one packet, its results are visible, and the trap
stands in its core's queue. -/

namespace Sys2Proof.Machine

/-! ### Moving slices -/

theorem pcFold (p : Nat → Bool) (t : Pc) (n : Nat) : ∀ (ls : List Nat) (m : Tab Pc),
    Tab.get 0 (ls.foldl (fun m sl => if p sl then Tab.put sl t m else m) m) n =
      if n ∈ ls ∧ p n = true then t else Tab.get 0 m n
  | [], m => by simp
  | l :: ls, m => by
    simp only [List.foldl_cons, pcFold p t n ls, List.mem_cons]
    by_cases h : n ∈ ls ∧ p n = true
    · simp [h]
    · by_cases e : n = l
      · subst e
        by_cases q : p n = true <;> simp [q]
      · by_cases q : p l = true <;> simp [q, e, h, Tab.get_put_other]

/-- Where a slice stands after slices of a mask move. -/
theorem Skein.pcOf_setPcs (k : Skein) (mask : BitVec 8) (t : Pc) {sl : Nat} (h : sl < 8) :
    (k.setPcs mask t).pcOf sl = if mask.getLsbD sl = true ∧ k.live sl = true then t else k.pcOf sl := by
  have := pcFold (fun sl => mask.getLsbD sl && k.live sl) t sl (List.range 8) k.pc
  simpa [Skein.setPcs, Skein.pcOf, h] using this

theorem Skein.pcOf_setPcs_all (k : Skein) (t : Pc) {sl : Nat} (h : sl < 8) :
    (k.setPcs 0xFF t).pcOf sl = if k.live sl = true then t else k.pcOf sl := by
  have m : (0xFF : BitVec 8).getLsbD sl = true := by
    have : ∀ n < 8, (0xFF : BitVec 8).getLsbD n = true := by decide
    exact this sl h
  rw [k.pcOf_setPcs 0xFF t h]; simp only [m, true_and]

/-! ### Results at a stop -/

theorem flush_frame (k : Skein) : k.flush = { k with
    v := k.flush.v, s := k.flush.s, status := k.flush.status, meldOpen := k.flush.meldOpen, patA := k.flush.patA,
    patB := k.flush.patB, vtag := k.flush.vtag, stag := k.flush.stag, pending := [] } := by
  have g : ∀ (ps : List Pending) (k : Skein), ps.foldl (fun k p => k.apply p.eff) k = { k with
      v := (ps.foldl (fun k p => k.apply p.eff) k).v, s := (ps.foldl (fun k p => k.apply p.eff) k).s,
      status := (ps.foldl (fun k p => k.apply p.eff) k).status,
      meldOpen := (ps.foldl (fun k p => k.apply p.eff) k).meldOpen,
      patA := (ps.foldl (fun k p => k.apply p.eff) k).patA, patB := (ps.foldl (fun k p => k.apply p.eff) k).patB,
      vtag := (ps.foldl (fun k p => k.apply p.eff) k).vtag, stag := (ps.foldl (fun k p => k.apply p.eff) k).stag } := by
    intro ps
    induction ps with
    | nil => intro k; rfl
    | cons p ps ih =>
      intro k
      have h := ih (k.apply p.eff)
      rw [List.foldl_cons]
      have e : k.apply p.eff = { k with
          v := (k.apply p.eff).v, s := (k.apply p.eff).s, status := (k.apply p.eff).status,
          meldOpen := (k.apply p.eff).meldOpen, patA := (k.apply p.eff).patA, patB := (k.apply p.eff).patB,
          vtag := (k.apply p.eff).vtag, stag := (k.apply p.eff).stag } := by
        cases p.eff <;> try rfl
        case scalar r v tag => simp only [Skein.apply, Skein.setScalar]; split <;> [rfl; split <;> rfl]
      calc _ = _ := h
        _ = _ := by rw [e]
  exact g k.pending { k with pending := [] }

/-! ### The trap itself -/

theorem State.skein_of_find {s : State} {k : Nat} {x : Skein} (h : Tab.find? k s.skeins = some x) : s.skein k = x := by
  simp [State.skein, Tab.get, h]

/-- The skein that a trap leaves. -/
def trapped (k : Skein) (log : Tab LogEntry) (at_ : Pc) (r : ClauseRec) : Skein :=
  { ({ k.flush with oplog := log, halted := true, haltReq := false, gangs := [] } : Skein).setPcs 0xFF at_ with
    stopRec := r, trapped := true }

/-- A trap of a skein that is no trap skein, where a TRAPBASE applies. -/
theorem State.takeTrap_spec {s : State} {k : Nat} {x : Skein} (cls : TrapClass) (code accn slot : Nat) (wordPc at_ : Pc)
    (r : ClauseRec) (addr : Dword) (hx : Tab.find? k s.skeins = some x) (hk : k % 65 ≠ trapSlot)
    (hh : x.halted = false) (hb : (s.launch (s.panel x.panel).launch).trapbase.isSome = true) :
    ∃ ops log, s.takeTrap k cls code accn slot wordPc at_ r addr =
      ({ s with ops := ops }.setSkein k (trapped x log at_ r)).setCore (k / 65) { s.core (k / 65) with
        trapQ := (s.core (k / 65)).trapQ ++
          [(⟨x.panel, x.idx, causeWord cls code accn x.idx, trapPc slot wordPc, addr, false⟩ : TrapRec)] } := by
  have fp : x.flush.panel = x.panel := by rw [flush_frame]
  have fi : x.flush.idx = x.idx := by rw [flush_frame]
  let log := ((s.settleSkein k true).skein k).oplog
  refine ⟨(s.settleSkein k true).ops, log, ?_⟩
  have e : (s.haltSkein k).modSkein k (fun x => { x.setPcs 0xFF at_ with stopRec := r, trapped := true }) =
      { s with ops := (s.settleSkein k true).ops }.setSkein k (trapped x log at_ r) := by
    simp [State.haltSkein, State.settleSkein, State.modSkein, hx, State.setSkein, State.skein, trapped, log]
  have pp : (trapped x log at_ r).panel = x.panel := by simp [trapped, Skein.setPcs, fp]
  have pi : (trapped x log at_ r).idx = x.idx := by simp [trapped, Skein.setPcs, fi]
  have sk : ∀ (o : Tab Op), (({ s with ops := o } : State).setSkein k (trapped x log at_ r)).skein k = trapped x log at_ r := by
    intro o; simp [State.skein, State.setSkein]
  have hs : (s.skein k).halted = false := by rw [State.skein_of_find hx]; exact hh
  simp only [State.takeTrap, hs, Bool.false_eq_true, if_false, e, sk, pp, pi, State.deliverTrap]
  have l : ∀ (o : Tab Op), (({ s with ops := o } : State).setSkein k (trapped x log at_ r)).launch
      ((({ s with ops := o } : State).setSkein k (trapped x log at_ r)).panel x.panel).launch =
      s.launch (s.panel x.panel).launch := fun _ => rfl
  simp only [l, hk, hb, if_true, if_false]
  rfl

theorem trapPc_toNat (slot : Nat) (pc : Pc) :
    (trapPc slot pc).toNat = (pc.toNat + slot % 4 * 9007199254740992) % 36028797018963968 := by
  simp only [trapPc, BitVec.toNat_ofNat, Nat.shiftLeft_eq]

theorem trapPc_packet (slot : Nat) (pc : Pc) :
    (trapPc slot pc).extractLsb' 0 53 = pc ∧ ((trapPc slot pc).extractLsb' 53 2).toNat = slot % 4 := by
  have h : pc.toNat < 9007199254740992 := pc.isLt
  have lo : ∀ x : BitVec 55, (x.extractLsb' 0 53).toNat = x.toNat % 9007199254740992 := fun x => by
    rw [BitVec.extractLsb'_toNat, Nat.shiftRight_zero]
  have hi : ∀ x : BitVec 55, (x.extractLsb' 53 2).toNat = x.toNat / 9007199254740992 % 4 := fun x => by
    rw [BitVec.extractLsb'_toNat, Nat.shiftRight_eq_div_pow]
  constructor
  · apply BitVec.eq_of_toNat_eq
    rw [lo, trapPc_toNat]; omega
  · rw [hi, trapPc_toNat]; omega

theorem causeWord_toNat (c : TrapClass) (code accn idx : Nat) :
    (causeWord c code accn idx).toNat =
      (c.code + code % 4096 * 65536 + idx % 32 * 4294967296 + accn % 32 * 1099511627776) % 18446744073709551616 := by
  simp only [causeWord, BitVec.toNat_ofNat, Nat.shiftLeft_eq]

theorem causeWord_fields (c : TrapClass) (code accn idx : Nat) :
    ((causeWord c code accn idx).extractLsb' 0 4).toNat = c.code ∧
    ((causeWord c code accn idx).extractLsb' 16 12).toNat = code % 4096 ∧
    ((causeWord c code accn idx).extractLsb' 32 5).toNat = idx % 32 ∧
    ((causeWord c code accn idx).extractLsb' 40 5).toNat = accn % 32 := by
  have h : c.code < 16 := by cases c <;> decide
  have f0 : ∀ x : Dword, (x.extractLsb' 0 4).toNat = x.toNat % 16 := fun x => by
    rw [BitVec.extractLsb'_toNat, Nat.shiftRight_zero]
  have f1 : ∀ x : Dword, (x.extractLsb' 16 12).toNat = x.toNat / 65536 % 4096 := fun x => by
    rw [BitVec.extractLsb'_toNat, Nat.shiftRight_eq_div_pow]
  have f2 : ∀ x : Dword, (x.extractLsb' 32 5).toNat = x.toNat / 4294967296 % 32 := fun x => by
    rw [BitVec.extractLsb'_toNat, Nat.shiftRight_eq_div_pow]
  have f3 : ∀ x : Dword, (x.extractLsb' 40 5).toNat = x.toNat / 1099511627776 % 32 := fun x => by
    rw [BitVec.extractLsb'_toNat, Nat.shiftRight_eq_div_pow]
  rw [f0, f1, f2, f3, causeWord_toNat]
  omega

/-- A precise trap of the issuing skein (R115, R146). -/
theorem State.trapNow_spec {s : State} (h : s.trappable) (cls : TrapClass) {code accn : Nat} (hc : code < 4096)
    (ha : accn < 32) (addr : Dword) : TookTrap s (s.trapNow cls code accn addr) cls.code code accn addr s.curPc := by
  obtain ⟨h1, hh, h2, h3⟩ := h
  obtain ⟨x, hx⟩ := Option.isSome_iff_exists.mp h1
  have hm : s.me = x := State.skein_of_find hx
  rw [hm] at hh
  have hk : s.curKey % 65 ≠ trapSlot := by simp only [State.curKey, skKey, trapSlot]; omega
  have hd : s.curKey / 65 = s.curCore := by simp only [State.curKey, skKey]; omega
  have hb : (s.launch (s.panel x.panel).launch).trapbase.isSome = true := by
    simpa [State.myLaunch, State.myPanel, hm] using h3
  obtain ⟨ops, log, e⟩ := State.takeTrap_spec cls code accn s.cur.slot s.curPc s.curPc s.cur.stopRec addr hx hk hh hb
  rw [hd] at e
  have f := flush_frame x
  have me : (s.trapNow cls code accn addr).me = trapped x log s.curPc s.cur.stopRec := by
    have a : (s.trapNow cls code accn addr).curKey = s.curKey := by simp only [State.trapNow, e]; rfl
    rw [State.me, a]
    simp [State.trapNow, e, State.skein, State.setCore, State.setSkein]
  have lv : ∀ sl, ({ x.flush with oplog := log, halted := true, haltReq := false, gangs := [] } : Skein).live sl = x.live sl := by
    intro sl; rw [f]; rfl
  have pp : ∀ sl, ({ x.flush with oplog := log, halted := true, haltReq := false, gangs := [] } : Skein).pcOf sl = x.pcOf sl := by
    intro sl; rw [f]; rfl
  exact {
    halted := by
      rw [me]
      refine ⟨rfl, rfl, ?_⟩
      show x.flush.pending = []
      rw [f]
    pcs := fun sl hs => by
      rw [me, hm]
      have := Skein.pcOf_setPcs_all ({ x.flush with oplog := log, halted := true, haltReq := false, gangs := [] }) s.curPc hs
      rw [lv, pp] at this
      exact this
    flushed := by rw [me, hm]; exact ⟨rfl, rfl, rfl⟩
    queued := ⟨⟨x.panel, x.idx, causeWord cls code accn x.idx, trapPc s.cur.slot s.curPc, addr, false⟩, by
        have c : (s.trapNow cls code accn addr).curCore = s.curCore := by simp [State.trapNow, e]
        rw [State.myCore, c]
        simp [State.trapNow, e, State.myCore, State.core, State.setCore], by simp [hm], by simp [hm], rfl, rfl,
      trapPc_packet _ _, (causeWord_fields ..).1, by rw [(causeWord_fields ..).2.1]; exact Nat.mod_eq_of_lt hc,
      by rw [hm]; exact (causeWord_fields ..).2.2.1, by rw [(causeWord_fields ..).2.2.2]; exact Nat.mod_eq_of_lt ha⟩
    others := fun n hn => by
      simp [State.trapNow, e, State.skein, State.setCore, State.setSkein, Tab.get_put_other, hn]
    cores := fun c hc => by
      simp [State.trapNow, e, State.core, State.setCore, State.setSkein, Tab.get_put_other, hc]
    rest := by simp [State.trapNow, e, State.setCore, State.setSkein] }

end Sys2Proof.Machine
end

