-- ==== Sys2Proof/Tests/Slice0.lean ====
section
/-! SUPPORT. Tests of the model, one word or event each, and a witness for the hypotheses of every statement.  Expected
words and results come from the encoding tables and worked cases of the manual. -/

namespace Sys2Proof.Tests

open Sys2Proof Sys2Proof.Machine

set_option Elab.async false

/-! ### Words

The words are written out from Tables 3.4 to 3.20: the fixed bits of the row, then each field at its place, with distinct
values. -/

/-- Each word decodes to its instruction and encodes back. -/
abbrev Words (ps : List (Word × Instr)) : Prop :=
  ∀ p ∈ ps, decodeWord p.1 0 = some (false, p.2) ∧ (encode false p.2).headD 0 = p.1

theorem test_decode_control : Words [
    (0x0054C321, .bruZ 41 0x4321),
    (0x0074C321, .bruNz 41 0x4321),
    (0x0094C321, .bruNeg 41 0x4321),
    (0x00B4C321, .bruNneg 41 0x4321),
    (0x00D4C321, .bruv 41 0x4321),
    (0x00F4C321, .brs 41 0x4321),
    (0x0114C321, .brzm 41 0x4321),
    (0x00207FFE, .bra 0x7FFE),
    (0x01207FFE, .call 0x7FFE),
    (0x00000000, .nop),
    (0x01400000, .ret),
    (0x01800000, .exit),
    (0x01A00000, .yield),
    (0x02200000, .meldx),
    (0x02400000, .region),
    (0x01748000, .jmpi 41),
    (0x01D48000, .split 41),
    (0x01F48000, .regang 41),
    (0x02148000, .meld 41),
    (0x03149461, .vdrop 5 9 17 33),
    (0x7E694F3E, .clauseHeader 0x9A5 3 12 15 2)] := by decide +kernel

theorem test_decode_scalar_registers : Words [
    (0x04525100, .sadd 5 9 17),
    (0x04525101, .ssub 5 9 17),
    (0x04525102, .smul 5 9 17),
    (0x04525103, .smulh 5 9 17),
    (0x04525104, .smulhu 5 9 17),
    (0x04525105, .sdiv 5 9 17),
    (0x04525106, .sdivu 5 9 17),
    (0x04525107, .srem 5 9 17),
    (0x04525108, .sremu 5 9 17),
    (0x04525109, .sand 5 9 17),
    (0x0452510A, .sor 5 9 17),
    (0x0452510B, .sxor 5 9 17),
    (0x0452510C, .sandn 5 9 17),
    (0x0452510D, .sshl 5 9 17),
    (0x0452510E, .sshr 5 9 17),
    (0x0452510F, .ssra 5 9 17),
    (0x04525110, .smin 5 9 17),
    (0x04525111, .smax 5 9 17),
    (0x04525112, .sminu 5 9 17),
    (0x04525113, .smaxu 5 9 17),
    (0x04525114, .scmpEq 5 9 17),
    (0x04525115, .scmpNe 5 9 17),
    (0x04525116, .scmpLt 5 9 17),
    (0x04525117, .scmpLe 5 9 17),
    (0x04525118, .scmpLtu 5 9 17),
    (0x04525119, .scmpLeu 5 9 17),
    (0x0452511A, .ssel 5 9 17),
    (0x0452511E, .sbfe 5 9 17),
    (0x0452511F, .sbfi 5 9 17),
    (0x0452401B, .spopc 5 9),
    (0x0452401C, .sclz 5 9),
    (0x0452401D, .sctz 5 9)] := by decide +kernel

theorem test_decode_scalar_immediates : Words [
    (0x085243F1, .saddI 5 9 (.short 0x3F1)),
    (0x085247F1, .sandI 5 9 (.short 0x3F1)),
    (0x08524BF1, .sorI 5 9 (.short 0x3F1)),
    (0x08524FF1, .sxorI 5 9 (.short 0x3F1)),
    (0x08525FF1, .scmpEqI 5 9 (.short 0x3F1)),
    (0x085263F1, .scmpNeI 5 9 (.short 0x3F1)),
    (0x085267F1, .scmpLtI 5 9 (.short 0x3F1)),
    (0x08526BF1, .scmpLeI 5 9 (.short 0x3F1)),
    (0x08526FF1, .scmpLtuI 5 9 (.short 0x3F1)),
    (0x085273F1, .scmpLeuI 5 9 (.short 0x3F1)),
    (0x08525031, .sshlI 5 9 0x31),
    (0x08525431, .sshrI 5 9 0x31),
    (0x08525831, .ssraI 5 9 0x31),
    (0x0C523456, .smovi 5 0x23456),
    (0x0C563456, .slui 5 0x23456),
    (0x0C589000, .smov 5 9),
    (0x0C580445, .sget 5 .ctrbase),
    (0x0C089800, .sput 9)] := by decide +kernel

theorem test_decode_vector_registers : Words [
    (0x10525100, .vadd .w 5 9 (.v 17)),
    (0x10525185, .vsub .h2 5 9 (.s 17)),
    (0x1052510A, .vmul .b4 5 9 (.v 17)),
    (0x1052518C, .vmulh .w 5 9 (.s 17)),
    (0x10525111, .vmulhu .h2 5 9 (.v 17)),
    (0x105251A6, .vshl .b4 5 9 (.s 17)),
    (0x10525128, .vshr .w 5 9 (.v 17)),
    (0x105251AD, .vsra .h2 5 9 (.s 17)),
    (0x10525132, .vmin .b4 5 9 (.v 17)),
    (0x105251B4, .vmax .w 5 9 (.s 17)),
    (0x10525139, .vminu .h2 5 9 (.v 17)),
    (0x105251BE, .vmaxu .b4 5 9 (.s 17)),
    (0x10525140, .vabsd .w 5 9 (.v 17)),
    (0x105251C5, .vaddsat .h2 5 9 (.s 17)),
    (0x1052514A, .vsubsat .b4 5 9 (.v 17)),
    (0x10525114, .vand 5 9 (.v 17)),
    (0x10525198, .vor 5 9 (.s 17)),
    (0x1052511C, .vxor 5 9 (.v 17)),
    (0x105251A0, .vandn 5 9 (.s 17)),
    (0x10525154, .vbfe 5 9 (.v 17)),
    (0x105251D8, .vbfi 5 9 (.s 17)),
    (0x1052404D, .vpopc .h2 5 9),
    (0x10524052, .vclz .b4 5 9),
    (0x105011DC, .vmov 5 (.s 17)),
    (0x10500060, .vidx 5)] := by decide +kernel

theorem test_decode_vector_immediates : Words [
    (0x145243F1, .vaddI 5 9 (.short 0x3F1)),
    (0x145247F1, .vmulI 5 9 (.short 0x3F1)),
    (0x14524BF1, .vandI 5 9 (.short 0x3F1)),
    (0x14524FF1, .vorI 5 9 (.short 0x3F1)),
    (0x145253F1, .vxorI 5 9 (.short 0x3F1)),
    (0x145263F1, .vminI 5 9 (.short 0x3F1)),
    (0x145267F1, .vmaxI 5 9 (.short 0x3F1)),
    (0x14526BF1, .vminuI 5 9 (.short 0x3F1)),
    (0x14526FF1, .vmaxuI 5 9 (.short 0x3F1)),
    (0x14525411, .vshlI 5 9 0x11),
    (0x14525811, .vshrI 5 9 0x11),
    (0x14525C11, .vsraI 5 9 0x11),
    (0x145033F1, .vmovi 5 (.short 0x3F1))] := by decide +kernel

theorem test_decode_vector_floats : Words [
    (0x18525100, .vfadd 5 9 (.v 17)),
    (0x18525181, .vfsub 5 9 (.s 17)),
    (0x18525102, .vfmul 5 9 (.v 17)),
    (0x18525183, .vfmin 5 9 (.s 17)),
    (0x18525104, .vfmax 5 9 (.v 17)),
    (0x18525188, .vfscale 5 9 (.s 17)),
    (0x18524005, .vfabs 5 9),
    (0x18524006, .vfneg 5 9),
    (0x18524007, .vfclass 5 9),
    (0x18524009, .vfrint 5 9),
    (0x1C525184, .vfma 5 9 17 33),
    (0x1C525185, .vfms 5 9 17 33),
    (0x1C525186, .vmad 5 9 17 33),
    (0x1C525187, .vaddmin 5 9 17 33),
    (0x1C544985, .vfnma 5 17 9 33),
    (0x1C544987, .vfaddmin 5 17 9 33),
    (0x20629200, .vdadd 6 10 (.v 18)),
    (0x20629181, .vdmul 6 10 (.s 17)),
    (0x20629202, .vdfma 6 10 (.v 18)),
    (0x20629183, .vcadd 6 10 (.s 17)),
    (0x20629204, .vcmul 6 10 (.v 18)),
    (0x20629185, .vcfma 6 10 (.s 17))] := by decide +kernel

theorem test_decode_long_latency : Words [
    (0x24525181, .vfdiv 5 9 (.s 17) true),
    (0x24524002, .vfsqrt 5 9 false),
    (0x24524005, .vexp2 5 9 true),
    (0x24524006, .vlog2 5 9 false),
    (0x24524009, .vrcp 5 9 true),
    (0x2452400A, .vrsq 5 9 false),
    (0x2452400D, .vsinp 5 9 true),
    (0x2452400E, .vcosp 5 9 false),
    (0x24524011, .vrng 5 9 true)] := by decide +kernel

theorem test_decode_lanes : Words [
    (0x28525180, .vshup 5 9 17),
    (0x28525181, .vshdn 5 9 17),
    (0x28525182, .vrot 5 9 17),
    (0x28525103, .vperm 5 9 17),
    (0x28525184, .vbcast 5 9 17),
    (0x2852401A, .vred .maxf 5 9),
    (0x2862802B, .vscan .addd 6 10),
    (0x2C627078, .vcvt .f64 .uint16 .rzSat 6 9),
    (0x2C522919, .vpack .e4m3 .int32 .rup 5 8),
    (0x2C624C02, .vunpk .f32 .bf16 .rm 6 9),
    (0x2C624103, .vqdbx .mxfp4 6 9),
    (0x2C528404, .vdqdbx .dbx4 5 10)] := by decide +kernel

theorem test_decode_compares : Words [
    (0x30525185, .vcmp .ge 5 9 (.s 17)),
    (0x30525112, .vcmpu .lt 5 9 (.v 17)),
    (0x30525127, .vfcmp .un 5 9 (.v 17)),
    (0x305251B0, .vsel 5 9 17),
    (0x34024000, .chk 9),
    (0x34001180, .chkScalar 17),
    (0x34524001, .ptst 5 9),
    (0x3409AB02, .trap 0x9AB),
    (0x34000003, .dbrk)] := by decide +kernel

theorem test_decode_memory : Words [
    (0x38625100, .ld .b 6 9 (.imm 17) false),
    (0x386251A4, .ldSpec .h 6 9 (.vec 17) false),
    (0x3862514A, .ldByp .w 6 9 (.imm 17) true),
    (0x386251EE, .ldAcqCore .d 6 9 (.vec 17) true),
    (0x38625110, .ldAcqQuad .b 6 9 (.imm 17) false),
    (0x386251B4, .ldAcqDie .h 6 9 (.vec 17) false),
    (0x3862515A, .ldAcqPkg .w 6 9 (.imm 17) true),
    (0x386251FE, .ldAcqPod .d 6 9 (.vec 17) true),
    (0x3C625100, .st .b 6 9 (.imm 17) false),
    (0x3C6251A4, .stRelCore .h 6 9 (.vec 17) false),
    (0x3C62514A, .stRelQuad .w 6 9 (.imm 17) true),
    (0x3C6251EE, .stRelDie .d 6 9 (.vec 17) true),
    (0x3C625110, .stRelPkg .b 6 9 (.imm 17) false),
    (0x3C6251B4, .stRelPod .h 6 9 (.vec 17) false),
    (0x40625142, .ldp .w 6 9 (.imm 17) true),
    (0x406251E6, .ldpSpec .d 6 9 (.vec 17) true),
    (0x40625108, .stp .b 6 9 (.imm 17) false),
    (0x406251AC, .ldc .h 6 9 (.vec 17) false),
    (0x448251A3, .atom .cas true 8 9 17 true),
    (0x44525194, .atomp .xchg false 5 9 17 false),
    (0x4452515A, .red .maxu false 5 9 17 true),
    (0x48525100, .redbv 5 9 17),
    (0x485251AB, .ldtol 21 5 9 17 true)] := by decide +kernel

theorem test_decode_order : Words [
    (0x4C4C0000, .fence .ar .pod),
    (0x4C925184, .cflush true 9 17 33),
    (0x4D025184, .cinv false 9 17 33),
    (0x4D925100, .pref true 9 17),
    (0x50325100, .bari .pkg 9 17),
    (0x51325100, .barw .pkg 9 17),
    (0x52325100, .bexp .pkg 9 17),
    (0x50A24000, .bara .die 9),
    (0x51A24000, .bar .die 9),
    (0x52825100, .waitm 9 17)] := by decide +kernel

theorem test_decode_copies : Words [
    (0x54325184, .cpy .p2p 9 17 33),
    (0x54E01184, .cpySpl 6 17 33),
    (0x55325184, .cpyg .d 9 17 33),
    (0x55824000, .seal 9),
    (0x56024000, .waitb 9),
    (0x56E24000, .splcfg 6 9),
    (0x57624000, .splget 6 9),
    (0x57E00000, .splrel 6)] := by decide +kernel

theorem test_decode_engine : Words [
    (0x58090000, .mzero 2),
    (0x58058481, .mload 1 (.regs 9) true),
    (0x580DC480, .mload 3 (.pad 9) false),
    (0x5C5A44A3, .mdrain .mxfp4 .glob 2 5 9 17 true),
    (0x60004800, .fwait 9),
    (0x608A4800, .ftest 5 9),
    (0x61004800, .fcancel 9),
    (0x618A4C4C, .coll .redscat .maxf .pod 5 9),
    (0x620A4800, .cseal 5 9),
    (0x628A4800, .copen 5 9)] := by decide +kernel

theorem test_decode_trap_skein : Words [
    (0x640A000A, .sysr 5 (.tscratch 2)),
    (0x648A000C, .sysw .errpost 5),
    (0x65000000, .rft),
    (0x658A48CE, .xread 5 9 (.accession 3 2)),
    (0x660A4855, .xwrite (.s 21) 9 5),
    (0x668A4800, .xresumePc 9 5),
    (0x66804801, .xresumeEntry 9)] := by decide +kernel

theorem test_decode_literals :
    decodeWord 0x08510200 0x12345678 = some (false, .saddI 5 4 (.lit 0x12345678)) ∧
    decodeWord 0x14503200 0xDEADBEEF = some (false, .vmovi 5 (.lit 0xDEADBEEF)) ∧
    decodeWord 0x38524041 0x1000 = some (false, .ld .w 5 9 (.lit 0x1000) false) ∧
    decodeWord 0x385251C1 0x1000 = some (false, .ld .w 5 9 (.vecLit 17 0x1000) false) := by decide +kernel

theorem test_decode_mmat_worked :
    decodeWord 0x5940E20D 0x20928000 = some (false, .mmatPair 20 0 (.pad 4) (.pad 6) 8 9 10) := by decide +kernel

theorem test_decode_chain_bit : decodeWord 0x84708304 0 = some (true, .smulhu 7 2 3) := by decide +kernel

/-- Worked encodings of chapters 4 to 8. -/
theorem test_decode_worked : Words [
    (0x7C003FC4, .clauseHeader 0 15 15 1 0), (0x0C400007, .smovi 4 7), (0x00200001, .bra 1), (0x01800000, .exit),
    (0x02030000, .meld 6), (0x03105187, .vdrop 4 5 6 7), (0x34024000, .chk 9), (0x34002A02, .trap 0x2A),
    (0x10304245, .vaddsat .h2 3 1 (.v 2)), (0x14515403, .vshlI 5 5 3), (0x24414600, .vfdiv 4 5 (.v 6) false),
    (0x24C34010, .vrng 12 13 false), (0x28710018, .vred .addf 7 4), (0x2C608130, .vcvt .e4m3 .f32 .rneSat 6 2),
    (0x2CA08043, .vqdbx .dbx4 10 2), (0x30908322, .vfcmp .lt 9 2 (.v 3)), (0x389106C4, .ldSpec .w 9 4 (.vec 6) false),
    (0x44420200, .atom .add false 4 8 2 false), (0x48450200, .redbv 4 20 2), (0x50034800, .bari .core 13 8),
    (0x4C240000, .fence .acq .die), (0x4C380000, .fence .rel .pkg), (0x4C910518, .cflush true 4 5 6),
    (0x55838000, .seal 14), (0x57340000, .splget 3 16), (0x5CC1469C, .mdrain .mxfp8e4 .glob 0 12 13 14 false),
    (0x6000A000, .fwait 20), (0x60AAA000, .ftest 21 20), (0x6100A000, .fcancel 20),
    (0x61ACC402, .coll .allreduce .addf .pod 22 24), (0x623D0000, .cseal 30 32), (0x62BD0000, .copen 30 32),
    (0x64020000, .sysr 1 .trapcause), (0x65000000, .rft), (0x65821009, .xread 1 2 (.v 9)), (0x66801001, .xresumeEntry 2)] := by
  decide +kernel

/-- Reserved codes and fields, and the operand limits that the encodings carry, are refused (R88, R113, R143). -/
theorem test_decode_reserved : (([0x68000000, 0x04702020, 0x10304247, 0x34000004, 0x63800000, 0x02600000,
    0x4C000000, 0x00000001, 0x64020006] : List Word).all fun w => (decodeWord w 0).isNone) = true := by decide +kernel

/-- One ill-formed term for each check of `WellFormed`. -/
theorem test_ill_formed : ∀ i ∈ ([.meld 58, .saddI 1 2 (.short 0x200), .vaddI 1 2 (.short 0x200), .vmovi 1 (.short 0x200),
    .vfms 1 5 4 6, .vaddmin 1 5 4 6, .vfnma 1 4 4 6, .vfaddmin 1 4 5 6, .vdadd 3 4 (.v 6), .vdmul 2 5 (.v 6),
    .vcfma 2 4 (.v 7), .vred .addd 3 4, .vscan .addd 2 5, .vcvt .f32 .f32 .rm 1 2, .vcvt .f64 .f32 .rm 1 2,
    .vcvt .f32 .f64 .rm 2 1, .vpack .f16 .f16 .rm 1 2, .vpack .f16 .f32 .rm 1 3, .vpack .f32 .f32 .rm 1 2,
    .vunpk .f16 .e4m3 .rm 4 1, .vunpk .f32 .e4m3 .rm 2 1, .vqdbx .dbx4 3 2, .vdqdbx .dbx4 2 3, .ld .d 3 1 (.imm 0) false,
    .stp .d 3 1 (.imm 0) false, .atom .cas true 2 1 0 false, .atom .cas false 3 1 0 false, .atomp .add true 3 1 0 false,
    .red .xchg false 2 1 0 false, .red .cas false 4 1 0 false, .red .add true 3 1 0 false, .ldtol 32 1 59 2 false,
    .cpy .g2p 1 2 59, .cpySpl 0 1 59, .splcfg 0 59, .mmatS 60 0 (.regs 0) (.regs 0) 1 2 3,
    .mmatS 1 0 (.pad 59) (.regs 0) 1 2 3, .mmatPair 1 1 (.regs 0) (.regs 0) 1 2 3, .mmatPair 1 0 (.regs 0) (.pad 59) 1 2 3,
    .mload 0 (.regs 63) false, .mload 0 (.pad 59) false, .mdrain .f32 .regs 0 0 1 0 false, .mdrain .f32 .regs 0 33 0 0 false,
    .mdrain .f32 .regs 0 0 0 1 false, .mdrain .dbx4 .regs 0 2 3 0 false, .coll .allreduce .addi .die 60 0,
    .coll .allreduce .addi .die 0 57, .coll .allgather .addf .die 0 0, .cseal 60 0, .copen 0 57, .sysr 0 .haltreq,
    .sysw .trapcause 0, .xwrite (.f 1) 0 0, .xwrite (.accession 0 1) 0 0] : List Instr), WellFormed i = false := by
  decide +kernel

/-! ### A small machine

One launch with one panel of one skein on core 0; the skein is at packet 16 in a clause that is under way. -/

/-- The skein as `f` makes it. -/
def skein (f : Skein → Skein) : Skein :=
  f { Skein.start 0 0 1 0 16 with
    gangs := [(0, { Cursor.empty with phase := .running, setA := 2, setB := 3 })] }
/-- The machine around it. -/
def mach (f : Skein → Skein) : State :=
  { State.reset with
    nextId := 100
    skeins := [(0, skein f)]
    panels := [(1, { Panel.none_ with launch := 1, slots := [0], scratchUnits := 1, life := .resident, skeinsLeft := [0] })]
    launches := [(1, { Launch.none_ with life := .running, trapbase := some 64 })] }
/-- Scalars `s1` to `s9` hold what `vs` lists. -/
def scalars (vs : List Dword) (k : Skein) : Skein :=
  { k with s := (List.range vs.length).foldl (fun t n => Tab.put (n + 1) ⟨vs.getD n 0, false, none⟩ t) k.s }
/-- Scalar `s1` is poisoned with the token of code 1 and accession record 2. -/
def poisoned (k : Skein) : Skein := { k with s := Tab.put 1 ⟨0x01100000, true, none⟩ k.s }
/-- The issuing skein's scalar 1 is pending on operation 7. -/
def waiting (k : Skein) : Skein := { k with s := Tab.put 1 ⟨0, false, some 7⟩ k.s }
/-- With one operation in flight, named 7. -/
def flying (o : OpKind) (f : Skein → Skein) : State :=
  { mach f with ops := [(7, ⟨0, 0, 1, 1, some 2, o, false, false, (16, 0, 0), none, [], []⟩)] }

/-- Three active lanes, with what `vs` lists for registers. -/
def three (vs : List (VReg × List Word)) (k : Skein) : Skein :=
  { k with
    s := Tab.put 60 ⟨7, false, none⟩ k.s
    v := vs.foldl (fun t q => (List.range q.2.length).foldl
      (fun t l => Tab.put (laneKey q.1.toNat l) ⟨q.2.getD l 0, false⟩ t) t) k.v }

/-- The core holds the translation of page 0x10 to frame 0x100000, readable and writable; `s1` holds an address in it, and
`s2` to `s4` hold 0, 64 and 0. -/
def mapped (f : Skein → Skein) : State :=
  { mach (f ∘ three [] ∘ scalars [0x10000, 0, 64, 0]) with
    cores := [(0, { Core.cleared 0 with tlb := [⟨0, 0x10, 0x39, 0x100000, true, true, true⟩] })] }
/-- What the page's first byte reaches. -/
def there : Xlat := ⟨0x100000, 0x39, 0⟩
/-- What scratchpad offset `a` reaches. -/
def inPad (a : Nat) : Xlat := ⟨a, 0, 0⟩
/-- The issuing skein's first scalar holds `v`. -/
def base (v : Dword) (k : Skein) : Skein := { k with s := Tab.put 1 ⟨v, false, none⟩ k.s }

/-- A clause under way whose next word is `w`. -/
def running (w : Word) : Cursor :=
  { Cursor.empty with phase := .running, packets := [[0x7C003FC0, w, 0]], first := true, slot := 1 }

/-- The state that an outcome goes on to. -/
def after (o : Host.Outcome State Fault Refusal) : State :=
  match o with
  | .next t => t
  | _ => State.reset

/-! ### Results of single words, from the worked cases of the manual -/

/-- The lanes that a word sends to its destination. -/
def sent (o : Host.Outcome State Fault Refusal) : List (Nat × Nat) :=
  match o with
  | .next t => t.me.pending.flatMap fun p => match p.eff with
    | .vec ws _ => ws.map fun w => (w.1, w.2.val.toNat)
    | .scalar r v _ => [(r, v.val.toNat)]
    | _ => []
  | _ => []
/-- The case of R160. -/
theorem test_vaddmin_r160 : sent (execVaddmin 9 3 4 10 (mach (three
    [(3, [0x7FFFFFF0, 0x80000000, 3]), (4, [0x20, 0x80000000, 4]), (10, [5, 0, 9])]))) =
    [(laneKey 9 0, 5), (laneKey 9 1, 0x80000000), (laneKey 9 2, 7)] := by decide +kernel

/-- The case of R169, over three lanes. -/
theorem test_vred_r169 : sent (execVred .add 7 4 (mach (three [(4, [1, 2, 3])]))) =
    [(laneKey 7 0, 6), (laneKey 7 1, 6), (laneKey 7 2, 6)] ∧
    sent (execVscan .add 7 4 (mach (three [(4, [1, 2, 3])]))) =
    [(laneKey 7 0, 1), (laneKey 7 1, 3), (laneKey 7 2, 6)] := by decide +kernel

/-- R118. -/
theorem test_sdiv_r118 : sent (execSdiv 5 1 2 (mach (scalars [0x8000000000000000, 0xFFFFFFFFFFFFFFFF]))) =
    [(5, 0x8000000000000000)] ∧ sent (execSrem 5 1 2 (mach (scalars [7, 0]))) = [(5, 7)] ∧
    sent (execSdiv 5 1 2 (mach (scalars [7, 0]))) = [(5, 0xFFFFFFFFFFFFFFFF)] := by decide +kernel

/-- R117: a bit field at the top of the word, and R119. -/
theorem test_sbfe_slui : sent (execSbfe 5 1 2 (mach (scalars [0xABCD000000000000, 0x203C]))) = [(5, 0xA)] ∧
    sent (execSlui 5 0x20001 (mach id)) = [(5, 0x8000400000000000)] := by decide +kernel

/-- R167: a lane below the count keeps its own value. -/
theorem test_vshup_r167 : sent (execVshup 5 4 1 (mach (scalars [1] ∘ three [(4, [10, 11, 12]), (5, [90, 91, 92])]))) =
    [(laneKey 5 0, 90), (laneKey 5 1, 10), (laneKey 5 2, 11)] := by decide +kernel

/-- R155: saturation by halves. -/
theorem test_vaddsat_h2 : sent (execVaddsat .h2 5 3 (.v 4) (mach (three [(3, [0x7FFF8000]), (4, [0x0001FFFF])]))) =
    [(laneKey 5 0, 0x7FFF8000), (laneKey 5 1, 0), (laneKey 5 2, 0)] := by decide +kernel

/-- R157, R50: 1 + 2 and −0.4 rounded to an integral value. -/
theorem test_floats : sent (execVfadd 5 3 (.v 4) (mach (three [(3, [0x3F800000]), (4, [0x40000000])]))) =
    [(laneKey 5 0, 0x40400000), (laneKey 5 1, 0), (laneKey 5 2, 0)] ∧
    sent (execVfrint 5 3 (mach (three [(3, [0xBECCCCCD])]))) =
    [(laneKey 5 0, 0x80000000), (laneKey 5 1, 0), (laneKey 5 2, 0)] := by decide +kernel

/-- R174: bits of lanes outside the active set are 0. -/
theorem test_vcmp_r174 : sent (execVcmp .lt 9 3 (.v 4) (mach (three [(3, [1, 0xFFFFFFFF, 5]), (4, [2, 0, 5])]))) =
    [(9, 3)] := by decide +kernel

/-! ### Witnesses: scalar, vector and lane words

`test_w_<part>` meets the hypotheses of the part `Claim.<part>`, or of the statement of that name. -/

theorem test_w_ScalarForms : (mach (scalars [3, 5])).settled [1, 2, 5] ∧ (mach (scalars [3, 5])).clean [1, 2, 5] ∧
    ((scalarResult [(mach poisoned).sreg 1, (mach poisoned).sreg 2] 0).poison = true ∧ (5 : SReg) ≠ regEm ∧
      (5 : SReg) ≠ regPm) := by
  unfold State.settled State.clean; decide +kernel

theorem test_w_ScalarMovesAndSelectors : ∃ v, (0x006, v) ∈ selectorTable :=
  ⟨_, List.mem_of_getElem? (i := 6) rfl⟩

theorem test_w_VectorForms : (mach (scalars [3])).settled (scalarsOf (.s 1)) ∧ (mach id).settled (scalarsOf (.v 1)) := by
  unfold State.settled; decide +kernel

theorem test_w_LongLatencyArithmetic : (mach id).settled (scalarsOf (.s 1)) ∧ (mach id).countable false := by
  unfold State.settled State.countable; decide +kernel

theorem test_w_LongLatencyResultsArrive :
    let s := flying (.result true [(laneKey 5 0, ⟨1, false⟩)] 1 none) id
    ∃ o k, s.op 7 = some o ∧ o.kind = .result true [(laneKey 5 0, ⟨1, false⟩)] 1 none ∧ o.entry = none ∧
      Tab.find? o.sk s.skeins = some k :=
  ⟨_, _, rfl, rfl, rfl, rfl⟩

theorem test_w_StoreAcceptedLowersItsFlag :
    ∃ o k, (flying .store id).op 7 = some o ∧ o.kind = .store ∧ o.entry = none ∧
      Tab.find? o.sk (flying .store id).skeins = some k :=
  ⟨_, _, rfl, rfl, rfl, rfl⟩

theorem test_w_IntegerTreesAreSums : (List.range 32).length = 32 ∧ ∀ x ∈ List.range 32, x < 2 ^ 32 := by decide +kernel

theorem test_w_IntegerCollectivesAreSums : ∀ v ∈ [0, 1, 2 ^ 32 - 1], v < 2 ^ 32 := by decide

/-- The three comparisons in turn, with a lane poisoned and without, and with no lane active. -/
theorem test_w_CompareAndSelect : (mach id).settled (9 :: scalarsOf (.v 4)) ∧ (mach id).lanes ≠ [] ∧
    (mach (three [(3, [1])])).lanes.flatMap (fun l => [(mach (three [(3, [1])])).vlane 3 l]) ≠ [] ∧
    (mach fun k => { k with s := [] }).lanes = [] ∧
    (firstLane ((mach fun k => { k with v := [(laneKey 3 0, ⟨5, true⟩)] }).lanes.flatMap
      fun l => [(mach fun k => { k with v := [(laneKey 3 0, ⟨5, true⟩)] }).vlane 3 l])).isSome = true ∧
    (9 : SReg) ≠ regEm ∧ (9 : SReg) ≠ regPm := by
  unfold State.settled; decide +kernel

/-! ### Witnesses: control, checks and traps -/

theorem test_w_UniformTransfers : (mach (scalars [3])).settled [1] ∧ (mach (scalars [3])).clean [1] ∧
    (mach id).settled [regLr] ∧ (mach id).clean [regLr] := by
  unfold State.settled State.clean; decide +kernel

/-- The three masks: none, the whole of `em`, and one lane. -/
theorem test_w_BruvAgreesOrDiverges :
    (let s := mach (scalars [0]); s.settled [1] ∧ s.clean [1] ∧ (s.sreg 1).val.setWidth 32 = (0 : Word)) ∧
    (let s := mach (scalars [0xFFFFFFFF]); s.settled [1] ∧ s.clean [1] ∧ (s.sreg 1).val.setWidth 32 ≠ (0 : Word) ∧
      (s.sreg 1).val.setWidth 32 = s.me.em &&& s.me.gangLanes s.curGang) ∧
    (let s := mach (scalars [1]); s.settled [1] ∧ s.clean [1] ∧ (s.sreg 1).val.setWidth 32 ≠ (0 : Word) ∧
      (s.sreg 1).val.setWidth 32 ≠ s.me.em &&& s.me.gangLanes s.curGang ∧ s.trappable) := by
  unfold State.settled State.clean State.trappable; decide +kernel

/-- `SPLIT` with no slice, with every slice, and with one, outside and inside a meld. -/
theorem test_w_PartingWords_split :
    (let s := mach (scalars [0]); s.settled [1] ∧ s.clean [1] ∧
      s.me.gangMask s.curGang &&& ((s.sreg 1).val.setWidth 8 : BitVec 8) = 0) ∧
    (let s := mach (scalars [0xFF]); s.settled [1] ∧ s.clean [1] ∧
      s.me.gangMask s.curGang &&& ((s.sreg 1).val.setWidth 8 : BitVec 8) = s.me.gangMask s.curGang ∧
      s.me.gangMask s.curGang ≠ 0) ∧
    (let s := mach (scalars [1]); s.settled [1] ∧ s.clean [1] ∧ s.me.meldOpen = false ∧
      s.me.gangMask s.curGang &&& ((s.sreg 1).val.setWidth 8 : BitVec 8) ≠ 0 ∧
      s.me.gangMask s.curGang &&& ((s.sreg 1).val.setWidth 8 : BitVec 8) ≠ s.me.gangMask s.curGang) ∧
    (let s := mach fun k => { scalars [1] k with meldOpen := true }; s.settled [1] ∧ s.clean [1] ∧ s.me.meldOpen = true ∧
      s.trappable) := by
  unfold State.settled State.clean State.trappable; decide +kernel

/-- `BRS` over lanes 28 to 31, which are slice 7. -/
theorem test_w_PartingWords_brs : let s := mach (scalars [0xF0000000])
    s.settled [1] ∧ s.clean [1] ∧ ∀ sl, sl < 8 → ((0x80 : BitVec 8).getLsbD sl = true ↔
      ∃ l, l / 4 = sl ∧ (s.sreg 1).val.getLsbD l = true ∧ s.me.em.getLsbD l = true) := by
  refine ⟨by unfold State.settled; decide +kernel, by unfold State.clean; decide +kernel, fun sl h => ?_⟩
  rw [show (0x80 : BitVec 8).getLsbD sl = true ↔ sl = 7 by revert sl; decide +kernel]
  refine ⟨?_, ?_⟩
  · rintro rfl
    exact ⟨28, by decide +kernel⟩
  · rintro ⟨l, rfl, h1, -⟩
    have hl : l < 32 := by omega
    revert h1
    clear h
    revert l
    decide +kernel

theorem test_w_RegangWord :
    (let s := mach (scalars [1]); s.settled [1] ∧ s.clean [1] ∧
      s.me.gangMask s.curGang &&& ~~~((s.sreg 1).val.setWidth 8 : BitVec 8) ≠ 0 ∧ s.trappable) ∧
    (let s := mach (scalars [0xFF]); s.settled [1] ∧ s.clean [1] ∧
      s.me.gangMask s.curGang &&& ~~~((s.sreg 1).val.setWidth 8 : BitVec 8) = 0 ∧
      ((s.sreg 1).val.setWidth 8 : BitVec 8) &&& ~~~s.me.exited = s.me.gangMask s.curGang) ∧
    (let s := mach fun k => { scalars [0xFF] k with gangmap := 0x249248 }; s.settled [1] ∧ s.clean [1] ∧
      s.me.gangMask s.curGang &&& ~~~((s.sreg 1).val.setWidth 8 : BitVec 8) = 0 ∧
      ((s.sreg 1).val.setWidth 8 : BitVec 8) &&& ~~~s.me.exited ≠ s.me.gangMask s.curGang) := by
  unfold State.settled State.clean State.trappable; decide +kernel

theorem test_w_PoisonedConditionsTrap : (mach poisoned).settled [1] ∧ ((mach poisoned).sreg 1).poison = true ∧
    (mach poisoned).trappable ∧
    (let s := mach fun k => { k with s := Tab.put 62 ⟨0x01100000, true, none⟩ k.s }
     s.settled [regLr] ∧ (s.sreg regLr).poison = true ∧ s.trappable) := by
  unfold State.settled State.trappable; decide +kernel

theorem test_w_ExitYieldRegionNop :
    ((skein id).cursor 1).ctl = none ∧
    (({ skein id with gangs := [(0, { Cursor.empty with ctl := some .exit })] } : Skein).cursor 0).ctl = some .exit := by
  decide +kernel

/-- The end of a packet, of one that ends a region, of one with words left, and of one with `RFT`. -/
def ending (c : Option Ctl) (region : Bool) : State :=
  mach fun k => { k with gangs := [(0, { Cursor.empty with phase := .running, packets := [[0, 0, 0]], slot := 3, ctl := c, region := region })] }
theorem test_w_PacketsEnd :
    (ending none false).hasSkein (ending none false).curKey = true ∧ (ending none false).cur.todo = [] ∧
    (ending none false).cur.ctl ≠ some .endTrap ∧
    ((ending none false).me.endPacket 0).regionCount = (ending none false).me.regionCount ∧
    ((ending none true).me.endPacket 0).regionCount ≠ (ending none true).me.regionCount ∧
    (ending (some .endTrap) false).cur.todo = [] ∧ (ending (some .endTrap) false).cur.ctl = some .endTrap ∧
    (let s := mach fun k => { k with gangs := [(0, { Cursor.empty with phase := .running, packets := [[0, 0, 0]] })] }; s.cur.todo ≠ []) ∧
    ((ending (some (.move 40)) false).me.cursor 0).ctl = some (.move 40) := by decide +kernel
theorem test_w_PartedGangs : let k := (ending (some (.part 3 40)) true).me
    (k.cursor 0).ctl = some (.part 3 40) ∧ (k.cursor 0).region = true ∧ k.gangMask 0 &&& 3 ≠ 0 ∧ k.gangMask 0 &&& ~~~3 ≠ 0 := by
  decide +kernel
/-- Slices 1 to 7 wait at the `REGANG` of the packet that slice 0 ends; then only those of slices 2 to 7. -/
def regang (m : BitVec 8) : Skein :=
  { (ending (some (.regang m)) false).me with
    gangmap := 0x249248
    gangs := [(0, { Cursor.empty with ctl := some (.regang m) }), (1, { Cursor.empty with wait := some .regang, arrivedAt := some (16, 0xFF) })] }
theorem test_w_RegangWord_ends :
    (let k := regang 0xFF
     let set := 0xFF &&& ~~~k.exited
     (k.cursor 0).ctl = some (.regang 0xFF) ∧ set ≠ 0 ∧ ∀ sl, sl < 8 → (set.getLsbD sl = true ↔
       k.inGang 0 sl = true ∨ ∃ q ∈ k.gangs, q.1 ≠ 0 ∧ q.2.arrivedAt = some (k.pcOf 0, 0xFF) ∧ k.inGang q.1 sl = true)) ∧
    (let k := regang 3
     (k.cursor 0).ctl = some (.regang 3) ∧ ∃ sl, sl < 8 ∧ ¬((3 &&& ~~~k.exited).getLsbD sl = true ↔
       k.inGang 0 sl = true ∨ ∃ q ∈ k.gangs, q.1 ≠ 0 ∧ q.2.arrivedAt = some (k.pcOf 0, 3) ∧ k.inGang q.1 sl = true)) := by
  decide +kernel

/-- The five outcomes of `MELD`. -/
theorem test_w_Meld_open : let s := mach fun k => { scalars [5, 0, 0] k with meldOpen := true }
    s.settled [1, 2, 3] ∧ s.mayCommit ∧ s.me.meldOpen = true ∧ s.trappable := by
  unfold State.settled State.trappable State.mayCommit; decide +kernel
theorem test_w_Meld_parted : let s := mach fun k => { scalars [5, 0, 0] k with exited := 1 }
    s.settled [1, 2, 3] ∧ s.mayCommit ∧ s.me.meldOpen = false ∧ s.me.gangMask s.curGang ≠ 0xFF ∧ s.trappable := by
  unfold State.settled State.trappable State.mayCommit; decide +kernel
theorem test_w_Meld_poisoned : let s := mach poisoned
    s.settled [1, 2, 3] ∧ s.mayCommit ∧ s.me.meldOpen = false ∧ s.me.gangMask s.curGang = 0xFF ∧
      s.trappable ∧ firstScalar [s.sreg 1, s.sreg 2, s.sreg 3] = some 0x01100000 := by
  unfold State.settled State.trappable State.mayCommit; decide +kernel
theorem test_w_Meld_pattern : let s := mach (scalars [5, 0, 0x6000000000000000])
    s.settled [1, 2, 3] ∧ s.mayCommit ∧ s.me.meldOpen = false ∧ s.me.gangMask s.curGang = 0xFF ∧ s.clean [1, 2, 3] ∧
      5 < (s.sreg 3).val.toNat / 2 ^ 60 ∧ s.trappable := by
  unfold State.settled State.clean State.trappable State.mayCommit; decide +kernel
theorem test_w_Meld_opens : let s := mach (scalars [5, 0x5000000000000000, 0])
    s.settled [1, 2, 3] ∧ s.mayCommit ∧ s.me.meldOpen = false ∧ s.me.gangMask s.curGang = 0xFF ∧ s.clean [1, 2, 3] ∧
      ¬ 5 < (s.sreg 2).val.toNat / 2 ^ 60 ∧ ¬ 5 < (s.sreg 3).val.toNat / 2 ^ 60 := by
  unfold State.settled State.clean State.mayCommit; decide +kernel

theorem test_w_ChecksAndTraps :
    (mach id).trappable ∧ (∀ l ∈ (mach id).lanes, ((mach id).vlane 3 l).poison = false) ∧
    (let s := mach fun k => { k with v := [(laneKey 3 2, ⟨0x01100000, true⟩)] }; s.trappable ∧ 2 ∈ s.lanes ∧
      (s.vlane 3 2).poison = true ∧ ∀ j ∈ s.lanes, j < 2 → (s.vlane 3 j).poison = false) ∧
    ((mach id).settled [1] ∧ (mach id).clean [1]) ∧
    ((mach poisoned).trappable ∧ (mach poisoned).settled [1] ∧ ((mach poisoned).sreg 1).poison = true) ∧
    (mach id).debugOn (mach id).curKey = false ∧
    (let s := { mach id with
        launches := [(1, { Launch.none_ with attached := true })], cores := [(0, { Core.cleared 0 with debugReg := 1 })] }
     s.hasSkein s.curKey = true ∧ s.debugOn s.curKey = true ∧ s.lanes ≠ []) := by
  unfold State.settled State.clean State.trappable; decide +kernel

theorem test_w_PoisonNeverReachesMasks : let s := mach poisoned
    s.settled [60, 1, 2] ∧ s.trappable ∧ firstScalar ([1, 2].map s.sreg) = some 0x01100000 ∧
    ScalarResultOf (.sadd 60 1 2) 60 [1, 2] ∧ (60 : SReg) = regEm ∧ s.settled (60 :: scalarsOf (.s 1)) ∧
    firstLane (s.lanes.flatMap fun l => [s.vlane 3 l, s.vsrc (.s 1) l]) = some 0x01100000 ∧ (s.sreg 1).poison = true := by
  refine ⟨by unfold State.settled; decide +kernel, by unfold State.trappable; decide +kernel, by decide +kernel,
    .inl ⟨1, 2, rfl, by decide +kernel⟩, rfl, by unfold State.settled; decide +kernel, by decide +kernel, by decide +kernel⟩
/-- The trap skein, whose target's `s5` is poisoned. -/
theorem test_w_PoisonNeverReachesMasks_xread :
    let s := { mach id with
      curSlot := 64
      skeins := [(0, skein fun k => { k with halted := true, s := Tab.put 5 ⟨1, true, none⟩ k.s }),
        (64, base 0 (Skein.start 0 64 1 0 64))]
      cores := [(0, { Core.cleared 0 with serving := some ⟨1, 0, 4, 16, 0, false⟩ })] }
    s.settled [1, 60] ∧ s.hasSkein s.curKey = true ∧ s.me.halted = false ∧ s.target? (s.sreg 1).val = some 0 ∧ 0 ≠ s.curKey ∧
    ((s.skein 0).sreg 5).poison = true ∧ (s.context s.myCtx).life ≠ .restoring := by
  unfold State.settled; decide +kernel

theorem test_w_TrapsAreServed :
    (let s := { mach id with launches := [(1, { Launch.none_ with life := .running })] }
     s.hasSkein s.curKey = true ∧ s.me.halted = false ∧ s.curSlot < 64 ∧ s.myLaunch.trapbase = none ∧
       s.myLaunch.life = .running) ∧
    (let r : TrapRec := ⟨1, 0, 4, 16, 0, false⟩
     let s := { mach id with cores := [(0, { Core.cleared 0 with trapQ := [r] })] }
     (s.core 0).trapQ.head? = some r ∧ (s.core 0).serving = none ∧ (s.core 0).trapDead = false ∧ r.names = false ∧
       (s.skein (skKey 0 64)).logged (fun _ => true) = false) ∧
    (let r : TrapRec := ⟨1, 0, 4, 16, 0, true⟩
     let s := { mach (fun k => { k with halted := true }) with
       cores := [(0, { Core.cleared 0 with trapQ := [r], trapDead := true })]
       contexts := [(0, { Context.default_ with life := .saving })] }
     (s.core 0).trapQ.find? TrapRec.names = some r ∧ s.savingPanel r.panel = true ∧
       ∀ k ∈ s.panelSkeins r.panel, (s.skein k).halted = true) ∧
    ((mach id).core 0).trapQ = [] := by
  decide +kernel
theorem test_w_TrapsAreServed_rft :
    let s := { mach (fun k => k) with
      curSlot := 64
      skeins := [(64, { Skein.start 0 64 1 0 64 with gangs := [(0, { Cursor.empty with phase := .running, ctl := some .endTrap })] })]
      cores := [(0, { Core.cleared 0 with serving := some ⟨1, 0, 4, 16, 0, false⟩ })] }
    s.cur.todo = [] ∧ s.cur.ctl = some .endTrap ∧ ∀ r, s.myCore.serving = some r → r.names = false := by
  refine ⟨by decide +kernel, by decide +kernel, fun r h => ?_⟩
  obtain rfl : (⟨1, 0, 4, 16, 0, false⟩ : TrapRec) = r := Option.some.inj h
  rfl
/-! ### Witnesses: memory words -/

theorem test_w_LoadsGoInFlight : let s := mapped id
    s.settled [1] ∧ s.countable false ∧ s.mayAccess false ∧
    ((s.loadKey (.ld .w 5 1 (.imm 0) false) ⟨.glob, false, false, none⟩ 4 1 (.imm 0)).bind s.lookup = none) ∧
    s.laneReaches .glob needR 4 1 (.imm 0) (fun _ => there) ∧
    (∀ l ∈ s.lanes, s.badAccess s.curCore (s.fusedOf s.who) (pathOf false there) there.pa = false ∧
      s.mem.tagFails there = false ∧
      s.me.logged (fun e => e.write && e.lines.contains (s.placeOf s.who .glob 4 (s.laneAddr 1 (.imm 0) 4 l) / 256)) = false)
    := by
  unfold State.settled State.countable State.mayAccess State.laneReaches; decide +kernel
/-- A load that has still to read a word at 0x100000, whose sector stands in the L2 or not. -/
def reading (home : Bool) : State :=
  let s := flying (.load ⟨none, 4, some .die, [⟨0, 0x100000, home, [(laneKey 5 0, 0)]⟩], [], none⟩) id
  { s with
    mem := { s.mem with l2 := [(0x4000, ⟨false, false, List.replicate 64 7⟩)] }
    cores := [(0, (Core.cleared 0).fill 0x4000 (List.replicate 64 7))] }
theorem test_w_LoadsReadAndComplete : ∀ home ∈ [true, false], let s := reading home
    ∃ o r k, s.op 7 = some o ∧ o.kind = .load r ∧ o.entry = none ∧ Tab.find? o.sk s.skeins = some k ∧
      s.dmode o.who = false ∧ r.todo ≠ [] ∧ s.unread [o.core] 7 = [7] ∧
      ∀ l ∈ r.todo, l.pa % 64 + r.size ≤ 64 ∧ s.near o l := by
  unfold State.near
  intro home h
  refine ⟨_, _, _, rfl, rfl, rfl, rfl, ?_⟩
  revert home
  decide +kernel
theorem test_w_LoadsGoInFlight_pad : let s := mapped (base 8)
    s.settled [1] ∧ s.countable false ∧ s.mayAccess false ∧
    ((s.loadKey (.ldp .w 5 1 (.imm 0) false) ⟨.pad, false, false, none⟩ 4 1 (.imm 0)).bind s.lookup = none) ∧
    s.laneReaches .pad needR 4 1 (.imm 0) (fun _ => inPad 8) := by
  unfold State.settled State.countable State.mayAccess State.laneReaches; decide +kernel

/-- One address is misaligned, and one past the allotment. -/
theorem test_w_SpeculativeLanesTakeTokens : ∀ a ∈ [0x1001, 0x2000], let s := mapped (base a)
    s.settled [1] ∧ s.countable false ∧ s.mayAccess false ∧
    ((s.loadKey (.ldpSpec .w 5 1 (.imm 0) false) ⟨.pad, true, false, none⟩ 4 1 (.imm 0)).bind s.lookup = none) ∧
    (∀ l ∈ s.lanes, s.addrToken 1 (offVec (.imm 0)) l = none) ∧
    (∀ l ∈ s.lanes, s.laneAddr 1 (.imm 0) 4 l % 4 ≠ 0 ∨ s.myPanel.scratchUnits * 4096 < s.laneAddr 1 (.imm 0) 4 l + 4) := by
  unfold State.settled State.countable State.mayAccess
  exact List.forall_mem_cons.2 ⟨by decide +kernel, List.forall_mem_cons.2 ⟨by decide +kernel, by simp⟩⟩

/-- A misaligned load and store. -/
theorem test_w_AccessFaults : let s := mapped (base 0x10001)
    s.settled [1] ∧ s.countable false ∧ s.mayAccess true ∧ s.mayAccess false ∧ s.trappable ∧
    (∀ j ∈ s.lanes, s.addrToken 1 (offVec (.imm 0)) j = none) ∧ (∀ j ∈ s.lanes, s.dataToken 5 false j = none) ∧
    ((s.loadKey (.ld .w 5 1 (.imm 0) false) ⟨.glob, false, false, none⟩ 4 1 (.imm 0)).bind s.lookup = none) ∧
    s.noBad ∧ 0 ∈ s.lanes ∧
    s.checkLane s.who .glob needW 4 false (s.laneAddr 1 (.imm 0) 4 0) = .error 4 ∧
    s.checkLane s.who .glob needR 4 false (s.laneAddr 1 (.imm 0) 4 0) = .error 4 ∧ ∀ j ∈ s.lanes, ¬ j < 0 := by
  unfold State.settled State.countable State.mayAccess State.trappable State.noBad; decide +kernel

theorem test_w_PageFaultsAreLogged : let s := mapped (base 0x20000)
    s.settled [1] ∧ s.countable false ∧ s.mayAccess false ∧ s.hasSkein s.curKey = true ∧
    (∀ j ∈ s.lanes, s.addrToken 1 (offVec (.imm 0)) j = none) ∧
    ((s.loadKey (.ld .w 5 1 (.imm 0) false) ⟨.glob, false, false, none⟩ 4 1 (.imm 0)).bind s.lookup = none) ∧
    s.noBad ∧ 0 ∈ s.lanes ∧
    (∀ j ∈ s.lanes, s.checkLane s.who .glob needR 4 false (s.laneAddr 1 (.imm 0) 4 j) = .error 1) ∧
    (Tab.get LogEntry.free s.me.oplog 0).valid = false := by
  unfold State.settled State.countable State.mayAccess State.noBad; decide +kernel

theorem test_w_StoresReachTheirBytes : let s := mapped id
    let f := s.fusedOf s.who
    s.settled [1] ∧ s.countable false ∧ s.mayAccess true ∧ (s.mayCommit ∧ s.mayRelease) ∧
    s.laneReaches .glob needW 4 1 (.imm 0) (fun _ => there) ∧
    (s.release s.curCore .die).laneReaches .glob needW 4 1 (.imm 0) (fun _ => there) ∧
    (∀ l ∈ s.lanes, s.writable there ∧ (s.release s.curCore .die).writable there) ∧
    (∀ l ∈ s.lanes, s.dataToken 5 false l = none) ∧ s.dmode s.who = false ∧ s.memWf ∧ s.l2Clean ∧ s.scbWf f s.curCore ∧
    s.unread (quadOf f s.curCore) s.nextId = [] ∧ (s.release s.curCore .die).unread (quadOf f s.curCore) s.nextId = [] := by
  unfold State.settled State.countable State.mayAccess State.laneReaches State.mayCommit State.mayRelease State.memWf
    State.scbWf State.l2Clean State.writable
  decide +kernel
theorem test_w_StoresReachTheirBytes_pad : let s := mapped (base 8)
    s.settled [1] ∧ s.countable false ∧ s.mayAccess true ∧ s.laneReaches .pad needW 4 1 (.imm 0) (fun _ => inPad 8) ∧
    (∀ l ∈ s.lanes, s.dataToken 5 false l = none) ∧ s.dmode s.who = false ∧ s.memWf ∧ s.l2Clean ∧
    s.scbWf (s.fusedOf s.who) s.curCore := by
  unfold State.settled State.countable State.mayAccess State.laneReaches State.memWf State.scbWf State.l2Clean
  decide +kernel

/-- The same launch in deterministic mode. -/
def quantal (s : State) : State :=
  { s with launches := [(1, { s.launch 1 with block := { Block.zero with flags := 2, gx := 1, gy := 1, gz := 1, dcores := 1 } })] }

theorem test_w_DeterministicStoresAreStaged : let s := quantal (mapped id)
    s.settled [1] ∧ s.countable false ∧ s.mayAccess true ∧ s.laneReaches .glob needW 4 1 (.imm 0) (fun _ => there) ∧
    s.writable there ∧ (∀ l ∈ s.lanes, s.dataToken 5 false l = none) ∧ s.dmode s.who = true := by
  unfold State.settled State.countable State.mayAccess State.laneReaches State.writable; decide +kernel

theorem test_w_AtomicsGoInFlight : let s := mapped id
    s.curSlot ≤ 64 ∧ s.settled [1] ∧ s.countable false ∧ s.mayCommit ∧ s.mayAccess true ∧
    (∀ l ∈ s.lanes, s.addrToken 1 (some 6) l = none ∧ s.atomToken .add false 4 l = none ∧
      s.checkLane s.who .glob needRW 4 false (s.laneAddr 1 (.vec 6) 4 l) = .ok there ∧
      s.badAccess s.curCore (s.fusedOf s.who) .home there.pa = false ∧ s.mem.tagFails there = false) := by
  unfold State.settled State.countable State.mayAccess State.mayCommit; decide +kernel
theorem test_w_AtomicsGoInFlight_pad : let s := mapped (base 8)
    s.curSlot ≤ 64 ∧ s.settled [1] ∧ s.countable false ∧ s.mayCommit ∧ s.mayAccess true ∧
    (∀ l ∈ s.lanes, s.addrToken 1 (some 6) l = none ∧ s.atomToken .add false 4 l = none ∧
      s.checkLane s.who .pad needRW 4 false (s.laneAddr 1 (.vec 6) 4 l) = .ok (inPad 8)) := by
  unfold State.settled State.countable State.mayAccess State.mayCommit; decide +kernel

theorem test_w_AtomicPerformedOnce : let s := flying (.atomic .add false false (some 1) [⟨0, 8, 5, 0, laneKey 4 0, none⟩]) id
    ∃ o k, s.op 7 = some o ∧ o.kind = .atomic .add false false (some 1) [⟨0, 8, 5, 0, laneKey 4 0, none⟩] ∧
      o.staged = false ∧ s.oldestUpdate 7 o = true ∧ o.entry = none ∧ Tab.find? o.sk s.skeins = some k ∧ s.memWf :=
  ⟨_, _, rfl, rfl, rfl, by decide +kernel, rfl, rfl, by unfold State.memWf; decide +kernel⟩

/-! ### Witnesses: bounded words and the messages of their protocol -/

/-- The page lies in a bounded region. -/
def bounded_ (s : State) : State :=
  { s with launches := [(1, { s.launch 1 with regions := [⟨0x10000, 4096, 0x3F800000, 0⟩] })] }
/-- One message, named 5, for sector 0x4000. -/
def message (k : BKind) : State :=
  { mach id with mem := { MemSys.reset with msgs := [(5, ⟨0x4000, 0, 1, k⟩)] } }
/-- The same while core 0 holds the sector. -/
def held (h : Withheld) (k : BKind) : State :=
  { message k with cores := [(0, { Core.cleared 0 with withheld := [(0x4000, h)] })] }
/-- The same with a record of the sector at its home. -/
def homed (h : HomeSector) (k : BKind) : State :=
  { message k with mem := { (message k).mem with homes := [(0x4000, h)] } }

theorem test_w_BoundedWordsGoOn : let s := bounded_ (mapped id)
    s.curSlot ≤ 64 ∧ s.settled [1, 2] ∧ s.clean [2] ∧ s.countable false ∧ s.mayCommit ∧ s.mayAccess true ∧ s.mayAccess false ∧
    (∀ l ∈ s.lanes, s.addrToken 1 (some 6) l = none ∧ s.dataToken 4 false l = none ∧
      s.checkLane s.who .glob needRW 4 true (s.laneAddr 1 (.vec 6) 4 l) = .ok there ∧
      s.checkLane s.who .glob needR 4 true (s.laneAddr 1 (.vec 6) 4 l) = .ok there ∧ isFoyer there.pa = false ∧
      s.badAccess s.curCore (s.fusedOf s.who) .home there.pa = false ∧ s.mem.tagFails there = false ∧
      s.me.logged (fun e => e.write && e.lines.contains (s.laneAddr 1 (.vec 6) 4 l / 256)) = false) ∧ s.ops = [] ∧
    s.addsPending s.curKey (s.lanes.map fun _ => there.pa / 64) = false := by
  unfold State.settled State.clean State.countable State.mayAccess State.mayCommit; decide +kernel

theorem test_w_BoundedMessagesKeepTheirOrder :
    (let s := { message .baste with mem := { (message .baste).mem with
        msgs := [(4, ⟨0x4000, 0, 1, .grant 0⟩), (5, ⟨0x4000, 0, 1, .baste⟩)] } }
     Tab.find? 5 s.mem.msgs = some ⟨0x4000, 0, 1, .baste⟩ ∧ s.firstB 5 ⟨0x4000, 0, 1, .baste⟩ = false) ∧
    (let s := homed ⟨[], 0, 0, some (0, 1, 1), none, []⟩ (.request 0)
     Tab.find? 5 s.mem.msgs = some ⟨0x4000, 0, 1, .request 0⟩ ∧ (s.home 0x4000 0).busy = true) := by
  decide +kernel

theorem test_w_HoldingRequestsAreAnswered :
    (let s := message (.request 0x3F800000)
     Tab.find? 5 s.mem.msgs = some ⟨0x4000, 0, 1, .request 0x3F800000⟩ ∧
       s.firstB 5 ⟨0x4000, 0, 1, .request 0x3F800000⟩ = true ∧ (s.home 0x4000 0).busy = false ∧
       (s.home 0x4000 0x3F800000).holders = [] ∧ s.directoryFull 0x4000 = false) ∧
    (let s := homed ⟨(List.range 16).map fun c => (c, 0), 0, 0, none, none, []⟩ (.request 0)
     Tab.find? 5 s.mem.msgs = some ⟨0x4000, 0, 1, .request 0⟩ ∧ s.firstB 5 ⟨0x4000, 0, 1, .request 0⟩ = true ∧
       (s.home 0x4000 0).busy = false ∧ 16 ≤ (s.home 0x4000 0).holders.length) ∧
    (let s := homed ⟨[(3, 0x3F000000)], 0x3F000000, 0x3F800000, none, none, []⟩ (.request 0x3F800000)
     let h := s.home 0x4000 0x3F800000
     h.holders = [(3, 0x3F000000)] ∧ ltF (addRne h.rest h.rest) 0x3F000000 = false) ∧
    (let s := homed ⟨[(3, 0x3F800000)], 0, 0x3F800000, none, none, []⟩ (.request 0x3F800000)
     let h := s.home 0x4000 0x3F800000
     h.holders = [(3, 0x3F800000)] ∧ ltF (addRne h.rest h.rest) 0x3F800000 = true) := by
  decide +kernel

theorem test_w_BoundedMessagesAct_atCore :
    (let s := message (.grant 0x3F800000)
     s.firstB 5 ⟨0x4000, 0, 1, .grant 0x3F800000⟩ = true ∧ s.waitingAdds 0 = [] ∧ (s.launch 1).live = true) ∧
    (let h : Withheld := ⟨[], 0, 0x3F800000, true, 1, []⟩
     (s : State) → s = held h .baste → s.firstB 5 ⟨0x4000, 0, 1, .baste⟩ = true ∧
       Tab.find? 0x4000 (s.core 0).withheld = some h ∧ ltF (halfRz h.share) h.mag = false) ∧
    (let h : Withheld := ⟨[], 0, 0x3F800000, true, 1, []⟩
     (s : State) → s = held h .drainAck → s.firstB 5 ⟨0x4000, 0, 1, .drainAck⟩ = true ∧
       Tab.find? 0x4000 (s.core 0).withheld = some h ∧ s.waitingAdds 0 = []) ∧
    (let h : Withheld := ⟨[(0x100000, 0x3F000000)], 0, 0x3F800000, false, 1, []⟩
     (s : State) → s = held h .unpick → s.firstB 5 ⟨0x4000, 0, 1, .unpick⟩ = true ∧
       Tab.find? 0x4000 (s.core 0).withheld = some h) := by
  refine ⟨by decide +kernel, fun s hs => ?_, fun s hs => ?_, fun s hs => ?_⟩ <;> subst hs <;> decide +kernel

theorem test_w_BoundedMessagesAct_atHome :
    (let h : HomeSector := ⟨[(3, 0x3F800000)], 0, 0, some (3, 0, 1), none, []⟩
     (s : State) → s = homed h .basteAck → s.firstB 5 ⟨0x4000, 0, 1, .basteAck⟩ = true ∧
       Tab.find? 0x4000 s.mem.homes = some h) ∧
    (let s := message (.drain [(0x100000, 0x3F000000)] false none)
     s.firstB 5 ⟨0x4000, 0, 1, .drain [(0x100000, 0x3F000000)] false none⟩ = true ∧ isFoyer 0x100000 = false ∧ 0x100000 % 4 = 0 ∧
       s.memWf ∧ s.l2Clean) ∧
    (let h : HomeSector := ⟨[(0, 0x3F800000)], 0, 0, none, none, [0]⟩
     (s : State) → s = homed h (.answer []) → s.firstB 5 ⟨0x4000, 0, 1, .answer []⟩ = true ∧
       Tab.find? 0x4000 s.mem.homes = some h) ∧
    (let s := { message (.ldtol 7 0x100000 (laneKey 6 0)) with ops := (flying (.ldtol 0 [laneKey 6 0] []) id).ops }
     s.firstB 5 ⟨0x4000, 0, 1, .ldtol 7 0x100000 (laneKey 6 0)⟩ = true ∧ (s.home 0x4000 0).busy = false ∧
       (s.home 0x4000 0).holders = [] ∧ (s.op 7).isSome = true) ∧
    (let s := message (.pass 0x100000 0x3F000000 7 0)
     s.firstB 5 ⟨0x4000, 0, 1, .pass 0x100000 0x3F000000 7 0⟩ = true ∧ isFoyer 0x100000 = false) := by
  refine ⟨fun s hs => ?_, by unfold State.memWf State.l2Clean; decide +kernel, fun s hs => ?_, by decide +kernel,
    by decide +kernel⟩ <;> subst hs <;>
    decide +kernel

/-! ### Witnesses: fences, the walker, barriers and monitors -/

theorem test_w_FencesOrder : let s := mapped id
    s.curSlot ≤ 64 ∧ s.mayCommit ∧ s.mayAccess true ∧ s.memWf ∧ s.l2Clean ∧ s.scbWf (s.fusedOf s.who) s.curCore ∧ s.mayRelease ∧
    s.ops.any (fun q => q.2.isRead s.curKey || q.2.walksFor s.curKey) = false := by
  unfold State.mayAccess State.mayCommit State.mayRelease State.memWf State.scbWf State.l2Clean; decide +kernel

theorem test_w_WalkerWords : let s := mapped id
    s.curSlot ≤ 64 ∧ s.settled [1, 3, 2] ∧ s.clean [1, 3, 2] ∧ s.mayCommit ∧ s.mayAccess true ∧ s.mayAccess false ∧
    (s.sreg 3).val.toNat < 2 ^ 32 ∧ (s.sreg 2).val = 0 := by
  unfold State.settled State.clean State.mayAccess State.mayCommit; decide +kernel

theorem test_w_WalkerCompletes : let s := flying (.walker false false 0x10000 64 none 0) id
    ∃ o, s.op 7 = some o ∧ o.kind = .walker false false 0x10000 64 none 0 ∧ o.staged = false ∧ s.memWf ∧ s.scbWf (s.fusedOf o.who) o.core ∧
      s.l2Clean :=
  ⟨_, rfl, rfl, rfl, by unfold State.memWf; decide +kernel, by unfold State.scbWf; decide +kernel,
    by unfold State.l2Clean; decide +kernel⟩

/-- `s1` points at a barrier object at offset 32 of the scratchpad. -/
theorem test_w_BarrierWordsSendUpdates : let s := mapped (base 0x4000000000000020)
    s.curSlot ≤ 64 ∧ s.settled [1, 3] ∧ s.clean [1, 3] ∧ s.mayCommit ∧ s.mayAccess true ∧ s.mayRelease ∧ s.me.bar = none ∧
    s.sig = .done ∧ s.me.gangMask s.curGang = s.me.liveMask ∧
    (let v := (s.sreg 1).val.toNat
     v / 2 ^ 62 = 1 ∧ v / 2 ^ 20 % 2 ^ 42 = 0 ∧ v % 16 = 0 ∧ v % 2 ^ 20 + 16 ≤ s.myPanel.scratchUnits * 4096) := by
  unfold State.settled State.clean State.mayAccess State.mayCommit State.mayRelease; decide +kernel

theorem test_w_BarrierUpdates : let s := flying (.barrier .arrive (.pad 1 32) .core 0x4000000000000020) id
    ∃ o, s.op 7 = some o ∧ o.kind = .barrier .arrive (.pad 1 32) .core 0x4000000000000020 ∧ o.staged = false ∧
      s.oldestUpdate 7 o = true ∧ s.memWf ∧
      (BitVec.ofNat 32 (leNat ((s.panel 1).scratch.readN (32 + 4 * 3) 4))).extractLsb' 29 3 = 0 :=
  ⟨_, rfl, rfl, rfl, by decide +kernel, by unfold State.memWf; decide +kernel, by decide +kernel⟩

/-- A phase that equals the operand, and one that differs. -/
theorem test_w_WaitsOnMemory_barw : let s := mapped (base 0x4000000000000020)
    s.curSlot ≤ 64 ∧ s.settled [1, 2] ∧ s.clean [1, 2] ∧ s.mayCommit ∧ s.mayAccess false ∧ s.ops = [] ∧
    (let v := (s.sreg 1).val.toNat
     v / 2 ^ 62 = 1 ∧ v / 2 ^ 20 % 2 ^ 42 = 0 ∧ v % 16 = 0 ∧ v % 2 ^ 20 + 16 ≤ s.myPanel.scratchUnits * 4096) ∧
    leNat (s.myPanel.scratch.readN 44 4) = 0 ∧ (s.sreg 2).val = 0 ∧ (s.sreg 3).val = 64 ∧ s.settled [3] ∧ s.clean [3] := by
  unfold State.settled State.clean State.mayAccess State.mayCommit; decide +kernel
theorem test_w_WaitsOnMemory_waitm : let s := mapped (base 0x4000000000000020)
    s.curSlot ≤ 64 ∧ s.settled [1, 2] ∧ s.clean [1, 2] ∧ s.mayAccess false ∧ s.me.monitor = none ∧ s.ops = [] ∧
    (let v := (s.sreg 1).val.toNat
     v / 2 ^ 62 = 1 ∧ v / 2 ^ 20 % 2 ^ 42 = 0 ∧ v % 8 = 0 ∧ v % 2 ^ 20 + 8 ≤ s.myPanel.scratchUnits * 4096) ∧
    leNat (s.myPanel.scratch.readN 32 8) = (s.sreg 2).val.toNat ∧
    leNat (s.myPanel.scratch.readN 32 8) ≠ (s.sreg 3).val.toNat := by
  unfold State.settled State.clean State.mayAccess; decide +kernel
theorem test_w_WaitsOnMemory_wake :
    let c : Cursor := { Cursor.empty with wait := some (.monitor (some 1) 0), woken := true }
    let s := mach fun k => { k with gangs := [(0, c)] }
    ∃ k, Tab.find? 0 s.skeins = some k ∧ Tab.find? 0 k.gangs = some c ∧ c.wait = some (.monitor (some 1) 0) :=
  ⟨_, rfl, rfl, rfl⟩

/-! ### Witnesses: words, clauses and the whole machine -/

theorem test_w_EncodedWordsDecode : WellFormed (.sadd 1 2 3) = true ∧ encode true (.sadd 1 2 3) ≠ [] := by decide +kernel
theorem test_w_DecodedWordsEncode : decodeWord 0x04708304 0 = some (false, .smulhu 7 2 3) := by decide +kernel

/-- The state in which an issue act of the only gang runs its word. -/
def issuing (c : Cursor) (f : Skein → Skein) : State :=
  { mapped (fun k => { f k with gangs := [(0, c)] }) with
    sched := [.issue 0 0 0]
    mem := { MemSys.reset with hbm := [(0x2000C0, 0xC4), (0x2000C1, 0x3F), (0x2000C3, 0x7C)] }
    cores := [(0, { Core.cleared 0 with tlb := [⟨0, 0, 0x29, 0x200000, true, false, true⟩] })] }
/-- What the step looks at before the word: the schedule is taken and the gang has been served. -/
def served (s : State) : State :=
  { s.pass with sched := [] }.modSkein 0 fun x => { x with servedAt := Tab.put 0 s.pass.tick x.servedAt }
def ready (s : State) : State := { served s with curCore := 0, curSlot := 0, curGang := 0 }
/-- The gang may issue, in its turn, and nothing comes before. -/
def mayRun (s : State) : Bool :=
  let u := served s
  { s.pass with sched := [] }.mayIssue 0 0 && !(u.skein 0).due && (u.breakDue 0 0).isNone && u.vit.stepping.isNone &&
    !u.gangFirst exec 0 0 && (u.rivals exec 0).isEmpty

theorem test_w_StepRuns_fetch : let v := ready (issuing .empty id)
    let as := (List.range 24).map (0x2000C0 + ·)
    mayRun (issuing .empty id) = true ∧ v.cur.phase = .empty ∧ v.fetchAddrs 0 v.myCtx 12 (12 * v.curPc.toNat) = .ok (as.take 12) ∧
    BitVec.ofNat 32 (leNat ((v.readCode 0 (as.take 12)).2.take 4)) = (0x7C003FC4 : Word) ∧
    v.fetchAddrs 0 v.myCtx (12 * clauseLen 0x7C003FC4) (12 * v.curPc.toNat) = .ok as ∧
    v.codeMoving ((as.map (· / 64)).eraseDups) = false ∧ isHeader 0x7C003FC4 = true ∧
    ((packetsOf (clauseLen 0x7C003FC4) (v.readCode 0 as).2).headD []).headD 0 = 0x7C003FC4 ∧
    ∃ a ∈ as, Tab.find? (a / 64) (v.core 0).icache = none := by
  decide +kernel

theorem test_w_StepRuns_header :
    let s := issuing { Cursor.empty with phase := .fetched, packets := [[0x7C003FC4, 0, 0], [0, 0, 0]], first := true } id
    mayRun s = true ∧ (ready s).cur.phase = .fetched ∧
    decodeWord (((ready s).cur.packets.headD []).headD 0) 0 = some (false, .clauseHeader 0 15 15 1 0) := by
  decide +kernel

/-- A skein with a register that waits, at a word. -/
def wordy (w : Word) : State := issuing (running w) fun k => { k with s := Tab.put 4 ⟨0, false, some 7⟩ k.s }
/-- A word that is done, one that waits and one that traps. -/
theorem test_w_StepRuns_words : ∀ w ∈ [(0x00000000, Instr.nop), (0x60002000, .fwait 4), (0x34000002, .trap 0)],
    let v := ready (wordy w.1)
    { (wordy w.1).pass with sched := [] }.mayIssue 0 0 = true ∧ (v.skein 0).due = false ∧ v.breakDue 0 0 = none ∧
    v.vit.stepping = none ∧ v.gangFirst exec 0 0 = false ∧ v.rivals exec 0 = [] ∧ v.cur.phase = .running ∧ v.cur.first = true ∧
    v.cur.slot ≤ 1 ∧ v.cur.packets.headD [] = [0x7C003FC0, w.1, 0] ∧ decodeWord w.1 0 = some (false, w.2) := by
  decide +kernel
/-- The word that `wordy` runs, at its place. -/
def atIts (w : Word) (i : Instr) : State :=
  let v := ready (wordy w)
  let n := { v with groupId := v.nextId }
  (n.setMe { n.me with yielded := false }).atWord ⟨1, false, i⟩
theorem test_w_StepRuns_outcomes :
    (∃ t, exec .nop (atIts 0 .nop) = .next t ∧ t.sig = .done ∧
      ((t.resolveGroup [1]).groupIssued [⟨1, false, .nop⟩]).cur.stop = false) ∧
    (∃ t, exec (.fwait 4) (atIts 0x60002000 (.fwait 4)) = .next t ∧ t.sig = .held (.future 4)) ∧
    (∃ t, exec (.trap 0) (atIts 0x34000002 (.trap 0)) = .next t ∧ t.sig = .trapped) :=
  ⟨⟨_, rfl, by decide +kernel, by decide +kernel⟩, ⟨_, rfl, by decide +kernel⟩, ⟨_, rfl, by decide +kernel⟩⟩
/-- A load from an address that no page maps in canonical form faults after its issue. -/
theorem test_w_StepRuns_faulted :
    let v := ready (issuing (running 0x38100000) fun k => { k with s := Tab.put 1 ⟨2 ^ 63, false, none⟩ k.s })
    let y := after (exec (.ld .w 0 1 (.imm 0) false) ((v.setMe { v.me with yielded := false }).atWord ⟨1, false, .ld .w 0 1 (.imm 0) false⟩))
    y.sig = .faulted ∧ y.hasSkein y.curKey = true := by decide +kernel

/-- A clause in order, one that waits for a flag, and one with a word that is reserved. -/
theorem test_w_ClausesBeginInOrder :
    let c : List (List Word) → Cursor := fun ps => { Cursor.empty with phase := .fetched, packets := ps, first := true }
    let s := issuing (c [[0x7C004000, 0, 0]]) fun k => { k with f := [(1, 2)] }
    let bad := issuing (c [[0x7C000000, 0x68000000, 0]]) id
    clauseBad s.decCtx 0 (s.cur.packets.take 1) = none ∧ (∀ n, n < 12 → (1 : BitVec 12).getLsbD n = true → s.me.flag n = 0) ∧
    ((2 : BitVec 12).getLsbD 1 = true ∧ s.me.flag 1 ≠ 0) ∧
    clauseBad bad.decCtx 0 (bad.cur.packets.take 1) = some (0, 1) ∧ bad.trappable := by
  unfold State.trappable; decide +kernel
theorem test_w_ResultsBecomeVisible : ∃ x, Tab.find? 0 (mach (fun k => k.pend 0 0 (.status 1))).skeins = some x ∧
    (x.pending.takeWhile fun p => decide (p.vis ≤ x.cycle)).length = 1 := ⟨_, rfl, by decide +kernel⟩

theorem test_w_Invariants : (mapped id).memWf ∧ (mapped id).masksOk ∧
    ∃ t, step { mapped id with sched := [.event (.fixedResultVisible 0)] } = .next t := by
  refine ⟨by unfold State.memWf; decide +kernel, by unfold State.masksOk; simp [mapped, mach, skein, Skein.start, three, scalars]; decide +kernel, _, rfl⟩

/-! ### Witnesses: copies, batches and spools -/

/-- A copy of 64 bytes from page 0x10 to offset 256, with no object and with one. -/
theorem test_w_CopyWords_cpy : let s := mapped fun k => { k with s := Tab.put 4 ⟨256, false, none⟩ k.s }
    s.curSlot ≤ 64 ∧ s.mayCommit ∧ s.mayAccess true ∧ s.settled [4, 1, 3, 5] ∧ s.clean [4, 1, 3, 5] ∧
    (s.sreg 5).val = 0 ∧ (s.sreg 4).val.toNat % 16 = 0 ∧ (s.sreg 1).val.toNat % 16 = 0 ∧ (s.sreg 3).val.toNat = 64 ∧
    (s.sreg 4).val.toNat + 64 ≤ s.myPanel.scratchUnits * 4096 := by
  unfold State.settled State.clean State.mayAccess State.mayCommit; decide +kernel
/-- The spool 1 of the panel: 2 slots of 64 bytes. -/
def spooled (y : Spool) (s : State) : State := s.setSpool 1 1 y
theorem test_w_CopyWords_spl : let s := spooled ⟨0, 64, 2, 2, 0, 0, 0, [], []⟩ (mapped id)
    s.curSlot ≤ 64 ∧ s.mayCommit ∧ s.mayAccess true ∧ s.settled [1, 3, 4] ∧ s.clean [1, 3, 4] ∧ (s.sreg 4).val = 0 ∧
    (s.myPanel.spool 1).count ≠ 0 ∧ (s.sreg 1).val.toNat % 16 = 0 ∧ (s.sreg 3).val.toNat = 64 ∧ 64 ≤ (s.myPanel.spool 1).size := by
  unfold State.settled State.clean State.mayAccess State.mayCommit; decide +kernel
theorem test_w_CopyWords_gather : let s := mapped fun k => { k with s := Tab.put 4 ⟨256, false, none⟩ k.s }
    s.settled [4, 1] ∧ s.clean [4, 1] ∧ (s.sreg 4).val.toNat + 32 * 4 ≤ s.myPanel.scratchUnits * 4096 ∧
    (∀ l ∈ s.lanes, s.addrToken 1 (some 6) l = none ∧ canonical (s.laneAddr 1 (.vec 6) 4 l) = true ∧
      s.laneAddr 1 (.vec 6) 4 l % 4 = 0) := by
  unfold State.settled State.clean; decide +kernel

/-- Batches 3 and 4, with `c` copies of the first outstanding. -/
def batched (c : Nat) (f : Bool) (k : Skein) : Skein :=
  { base 4 k with batches := [⟨3, c, f, 2, 0x55, []⟩, ⟨4, 0, false, 0, 0, []⟩] }
theorem test_w_Seal : let s := mapped (batched 0 false)
    s.settled [14] ∧ s.mayCommit ∧ s.mayAccess false ∧ s.me.batches.length < 8 := by
  unfold State.settled State.mayAccess State.mayCommit; decide +kernel
theorem test_w_Seal_full : let s := mapped fun k => { k with batches := (List.range 8).map fun n => ⟨BitVec.ofNat 32 n, 1, false, 0, 0, []⟩ }
    s.settled [14] ∧ s.mayCommit ∧ s.mayAccess false ∧ ∃ b bs, s.me.batches = b :: bs ∧ 7 ≤ bs.length ∧ b.copies ≠ 0 := by
  refine ⟨by unfold State.settled; decide +kernel, by unfold State.mayCommit; decide +kernel,
    by unfold State.mayAccess; decide +kernel, _, _, rfl, by decide +kernel, by decide +kernel⟩
/-- A number that is not outstanding; one that is, with a copy in flight, with none, and after a failure. -/
theorem test_w_Waitb : let s := mapped (batched 0 false)
    s.curSlot ≤ 64 ∧ s.settled [1, 2] ∧ s.clean [1, 2] ∧ s.mayAccess false ∧
    (∀ b ∈ s.me.batches, b.num ≠ (s.sreg 2).val.setWidth 32) ∧ (∀ b ∈ s.me.batches, b.copies = 0 ∧ b.failed = false) ∧
    (s.me.batches.getLast?.map Batch.num) = some ((s.sreg 1).val.setWidth 32) := by
  unfold State.settled State.clean State.mayAccess; decide +kernel
theorem test_w_Waitb_open : let s := mapped (batched 1 false)
    s.settled [1] ∧ s.clean [1] ∧ s.mayAccess false ∧ ∃ c ∈ s.me.batches, c.copies ≠ 0 := by
  unfold State.settled State.clean State.mayAccess; decide +kernel
theorem test_w_Waitb_failed : let s := mapped (batched 0 true)
    s.settled [1] ∧ s.clean [1] ∧ s.mayAccess false ∧ s.trappable ∧ (∀ b ∈ s.me.batches, b.copies = 0 ∧ b.dests = []) ∧
    ∃ c ∈ s.me.batches, c.failed = true := by
  unfold State.settled State.clean State.mayAccess State.trappable; decide +kernel

theorem test_w_Spools_splcfg : let s := mapped (base 0x200400000)
    s.settled [1, 2] ∧ s.clean [1, 2] ∧ s.mayCommit ∧ s.mayAccess false ∧ s.ops = [] ∧
    (let v := (s.sreg 1).val.toNat
     v / 2 ^ 39 = 0 ∧ v % 2 ^ 16 = 0 ∧ v / 2 ^ 32 % 2 ^ 7 = 2 ∧ v / 2 ^ 16 % 2 ^ 16 = 64 ∧
       (s.sreg 2).val.toNat % 2 ^ 20 + 64 * 2 ≤ s.myPanel.scratchUnits * 4096) := by
  unfold State.settled State.clean State.mayAccess State.mayCommit; decide +kernel
/-- An empty spool, one with a slot filled and one taken, and one that is not configured. -/
theorem test_w_Spools_empty : let s := spooled ⟨0, 64, 2, 2, 0, 0, 0, [], []⟩ (mapped id)
    s.settled [5] ∧ s.mayCommit ∧ s.mayAccess false ∧ (s.myPanel.spool 1).count ≠ 0 ∧ (s.myPanel.spool 1).filled = 0 := by
  unfold State.settled State.mayAccess State.mayCommit; decide +kernel
theorem test_w_Spools_filled : let s := spooled ⟨0, 64, 2, 1, 1, 1, 0, [0], []⟩ (mapped id)
    s.settled [5] ∧ s.mayCommit ∧ s.mayAccess false ∧ (s.myPanel.spool 1).count ≠ 0 ∧ (s.myPanel.spool 1).filled ≠ 0 ∧
      (s.myPanel.spool 1).held = 0 :: [] := by
  unfold State.settled State.mayAccess State.mayCommit; decide +kernel
theorem test_w_Spools_none : (mapped id).settled [5] ∧ (mapped id).mayCommit ∧ (mapped id).mayAccess false ∧
    ((mapped id).myPanel.spool 1).count = 0 ∧ (mapped id).trappable := by
  unfold State.settled State.mayAccess State.mayCommit State.trappable; decide +kernel

theorem test_w_CopiesComplete : let s := flying (.copy (.pad 256) (.pad 0) 64 64 none 1 none none false) id
    ∃ o k, s.op 7 = some o ∧ o.kind = .copy (.pad 256) (.pad 0) 64 64 none 1 none none false ∧ o.staged = false ∧
      Tab.find? o.sk s.skeins = some k ∧ s.memWf := ⟨_, _, rfl, rfl, rfl, rfl, by unfold State.memWf; decide +kernel⟩
/-- Nothing is mapped at the source's non-canonical address. -/
theorem test_w_CopyFaults : let va := 2 ^ 57
    let s := { mach id with ops := [(7, ⟨0, 0, 1, 1, none, .copy (.pad 256) (.glob va) 64 64 none 1 none none false, true, false, (16, 0, 0), none, [], []⟩)] }
    ∃ o k, s.op 7 = some o ∧ o.kind = .copy (.pad 256) (.glob va) 64 64 none 1 none none false ∧ o.staged = false ∧
      o.started = true ∧ s.translateAt o.core (s.ctxOf o.who) va needR = .error 2 ∧ Tab.find? o.sk s.skeins = some k :=
  ⟨_, _, rfl, rfl, rfl, rfl, by decide +kernel, rfl⟩

/-! ### Witnesses: the engine queue -/

theorem test_w_EngineWords : let s := mapped id
    s.settled (20 :: (matScalars (.pad 4) ++ matScalars (.pad 6) ++ [8, 9, 10])) ∧
    s.clean (matScalars (.pad 4) ++ matScalars (.pad 6) ++ [8, 9, 10]) ∧ s.mayQueue ∧ s.countable false ∧
    (s.settled [2] ∧ s.clean [2] ∧ (s.sreg 2).val.toNat = 0) := by
  unfold State.settled State.clean State.mayQueue State.mayCommit State.countable; decide +kernel
/-- A row pitch of 256 from 0 lies in an allotment of 16 KiB. -/
theorem test_w_EngineWords_pad : let s := mapped (base 0x10000000)
    let v := (s.sreg 1).val.toNat
    s.settled [1] ∧ s.clean [1] ∧ v / 2 ^ 36 = 0 ∧ v % 2 ^ 20 % 16 = 0 ∧ v / 2 ^ 20 % 2 ^ 16 % 16 = 0 ∧
      s.paired s.me.panel 0 = false ∧ v % 2 ^ 20 + 63 * (v / 2 ^ 20 % 2 ^ 16) + 256 ≤ 4096 * 5 := by
  unfold State.settled State.clean; decide +kernel
theorem test_w_EngineWords_full : let s := { mapped id with cores := [(0, { Core.cleared 0 with queue := List.range 16 })] }
    s.mayCommit ∧ 16 ≤ s.myCore.queue.length := by unfold State.mayCommit; decide +kernel

/-- A panel of 16 KiB. -/
def wide : State :=
  { mach (scalars [0, 0, 128]) with
    panels := [(1, { Panel.none_ with launch := 1, slots := [0], scratchUnits := 4, life := .resident, skeinsLeft := [0] })] }
/-- A drain of the cleared accumulator 0 as BF16 to the scratchpad at a pitch of 128. -/
theorem test_w_MemoryDrains : let s := wide
    s.curSlot ≤ 64 ∧ s.settled [1, 2, 3] ∧ s.clean [1, 2, 3] ∧ s.countable false ∧ s.mayQueue ∧ s.mayAccess true ∧
    s.accBusy s.curCore s.me.panel 0 = false ∧
    (s.sreg 1).val.toNat % 16 = 0 ∧ drainRow .bf16 ≤ (s.sreg 3).val.toNat ∧ (s.sreg 3).val.toNat % 16 = 0 ∧ s.memWf ∧ s.l2Clean ∧
    s.scbWf (s.fusedOf s.who) s.curCore ∧ s.unread (quadOf (s.fusedOf s.who) s.curCore) (s.nextId + 1) = [] ∧ s.ops = [] ∧
    s.dmode s.who = false ∧ s.paired 1 0 = false ∧
    (s.sreg 1).val.toNat + 63 * (s.sreg 3).val.toNat + drainRow .bf16 ≤ s.myPanel.scratchUnits * 4096 := by
  unfold State.settled State.clean State.countable State.mayQueue State.mayCommit State.mayAccess State.memWf State.scbWf
    State.l2Clean
  decide +kernel
theorem test_w_MemoryDrains_rows : ∀ r ∈ wide.drainRows 1 0 .bf16 0 64, ∀ b ∈ r.bytes ++ r.scales, b.2 = false := by
  have h : rowsOf 64 ((wide.accElems 1 0 (wide.paired 1 0)).drop (64 * 0)) = List.replicate 64 (List.replicate 64 Lane.zero) := by
    decide +kernel
  intro r hr
  rw [State.drainRows, h, List.map_replicate, List.mem_replicate] at hr
  rw [hr.2]
  decide +kernel

/-- One engine operation alone in the queue, begun or not. -/
def queued (o : OpKind) (started : Bool) : State :=
  { mach id with
    ops := [(7, ⟨0, 0, 1, 1, some 2, o, started, false, (16, 0, 0), none, [], []⟩)]
    cores := [(0, { Core.cleared 0 with queue := [7] })] }
theorem test_w_EngineOperationsStart : ∀ k ∈ [OpKind.mzero 1 0, .mload 1 0 none 0 256, .mload 1 0 (some (List.replicate 64 Lane.zero)) 0 0,
    .mdrain 1 0 .bf16 .regs 0 0 0 (List.range 1024) [] []], let s := queued k false
    ∃ o sk, s.op 7 = some o ∧ o.started = false ∧ s.turn 7 o = true ∧ o.kind = k ∧ Tab.find? o.sk s.skeins = some sk := by
  intro k hk
  refine ⟨_, _, rfl, rfl, ?_, rfl, rfl⟩
  revert k
  decide +kernel
theorem test_w_EngineCompletions : (queued (.mload 1 0 none 0 256) true).op 7 =
    some ⟨0, 0, 1, 1, some 2, .mload 1 0 none 0 256, true, false, (16, 0, 0), none, [], []⟩ ∧
    (queued (.mload 1 0 none 0 256) true).hasSkein 0 = true ∧
    ((queued (.mdrain 1 0 .bf16 .regs 0 0 0 [laneKey 3 0] [] [(laneKey 3 0, ⟨1, false⟩)]) true).op 7).isSome = true := by decide +kernel

/-- The product of the worked operation of chapter 7, and one with a K that is too large. -/
def product (k : Nat) (begun cancel : Bool) (steps : Nat) : Mmat :=
  ⟨1, 0, false, ⟨3, true, 0x0000800002000000, 0, [], 0⟩, ⟨0x06000465, true, 0x02001000, 0, [], 0⟩, k, begun, steps, 0, cancel, false⟩
theorem test_w_MmatRunsInSteps :
    (let m := product (2 ^ 21) false false 0
     m.begun = false ∧ m.stop = false ∧ m.refusal 16384 = some (2, 3)) ∧
    (let m := product 64 false false 0; m.begun = false ∧ m.stop = false ∧ m.refusal 16384 = none) ∧
    (let m := product 1024 true true 16; m.begun = true ∧ m.cancel = true) ∧
    (let m := product 1024 true false 0; m.begun = true ∧ m.cancel = false ∧ m.stop = false ∧ m.steps + 16 < m.total) ∧
    (let m := product 1024 true false 16; m.begun = true ∧ m.cancel = false ∧ m.stop = false ∧ m.total ≤ m.steps + 16) ∧
    (let s := queued (.mmat (product 64 true false 16)) false; (s.op 7).isSome = true ∧ s.turn 7 ((s.op 7).getD Op.none_) = true) := by
  decide +kernel

theorem test_w_FuturesAreTested :
    ((mach waiting).sreg 1).pend = some 7 ∧ ((mach id).sreg 1).pend = none ∧ (mach id).settled [2] ∧ (mach id).mayCommit ∧
    (let s := { mach waiting with ops := (queued (.mmat (product 64 false false 0)) false).ops }
     s.mayCommit ∧ (s.op 7).isSome = true) := by
  unfold State.settled State.mayCommit; decide +kernel

/-! ### Witnesses: collectives and the seal engine -/

theorem test_w_CollectiveAndSealWords : let s := mapped id
    s.settled [22, 1, 2, 3, 4] ∧ s.clean [1, 2, 3, 4] ∧ s.mayQueue ∧ s.mayAccess true ∧ s.mayRelease ∧ s.memWf ∧ s.l2Clean ∧
    s.scbWf (s.fusedOf s.who) s.curCore := by
  unfold State.settled State.clean State.mayQueue State.mayCommit State.mayAccess State.mayRelease State.memWf State.scbWf
    State.l2Clean
  decide +kernel

/-- One participant's collective of `n`: the sum of one word at 0x10000 goes to 0x10100. -/
def coll (n : Nat) (bad : Bool) : CollReq := ⟨.allreduce, .addi, .die, 0x10000, 0x10100, 1, 0, n, 3, 0, bad, none⟩
/-- Collectives in flight on core 0, named 7 on. -/
def colls (cs : List CollReq) : State :=
  { mapped id with ops := cs.zipIdx.map fun c => (7 + c.2, ⟨0, 0, 1, 1, none, .coll c.1, false, false, (16, 0, 0), none, [], []⟩) }
/-- The operation of the first. -/
def collOp (c : CollReq) : Op := ⟨0, 0, 1, 1, none, .coll c, false, false, (16, 0, 0), none, [], []⟩
theorem test_w_CollectivesComplete_ends :
    ((colls [coll 1 true]).op 7 = some (collOp (coll 1 true)) ∧ (coll 1 true).bad = true ∧ (coll 1 true).out = none ∧
      (colls [coll 1 true]).dmode (collOp (coll 1 true)).who = false) ∧
    (let c := coll 2 false
     let s := colls [c, c]
     s.op 7 = some (collOp c) ∧ collDisagrees (s.collGroup (collOp c) c) (s.remoteSends c) = true ∧
       ∀ q ∈ s.collGroup (collOp c) c, s.dmode q.2.1.who = false) ∧
    (let c := coll 2 false
     let s := colls [c]
     s.collLeft 0 c.tag c.round = none ∧ s.collLost 0 c = false ∧
       collDisagrees (s.collGroup (collOp c) c) (s.remoteSends c) = false ∧
       (s.collGroup (collOp c) c).length + (s.remoteSends c).length < 2) ∧
    (let s := { colls [coll 2 false] with collBad := [(0, 3, 0, 1)] }
     s.collLeft 0 3 0 = some 1) ∧
    (let c := { coll 2 false with scope := .pkg }
     let s := { colls [c] with host := { HostIf.reset with status := 8 } }
     (decide (c.scope ≠ .die) && s.host.status.getLsbD 3) = true) := by
  decide +kernel
/-- A sum that every participant has issued, outside deterministic mode and in it. -/
def sums (dmode : Bool) : State := if dmode then quantal (colls [coll 1 false]) else colls [coll 1 false]
theorem test_w_CollectivesComplete_sums : ∀ dmode ∈ [false, true], let s := sums dmode
    let c := coll 1 false
    let g := s.collGroup (collOp c) c
    s.op 7 = some (collOp c) ∧ s.collLeft 0 c.tag c.round = none ∧ s.collLost 0 c = false ∧
    collDisagrees g (s.remoteSends c) = false ∧ c.scope ≠ .pod ∧ g.length = c.n ∧ (g.map Prod.fst).Nodup ∧
    (∀ q ∈ g, s.dmode q.2.1.who = dmode) ∧ s.memWf ∧ s.l2Clean ∧
    ((List.range c.n).flatMap fun _ => (List.range 4).map (0x100100 + ·)).Nodup ∧
    ∀ q ∈ g, failed (s.collSends q.2.1.who q.2.2) = [] ∧
      (passed (s.collSends q.2.1.who q.2.2)).map (fun x => x.2.2.pa) = (List.range 4).map (0x100000 + ·) ∧
      failed (s.collRecvs q.2.1.who q.2.2) = [] ∧
      (passed (s.collRecvs q.2.1.who q.2.2)).map (fun x => x.2.2.pa) = (List.range 4).map (0x100100 + ·) := by
  unfold State.memWf State.l2Clean; decide +kernel

/-- A scratchpad segment of no bytes with its image at 0x10000, of context `ctx`; the panel's skein is halted or not. -/
def segment (ctx : Nat) : SealReq := ⟨2, 0, 0x10000, 0, 0, ctx, 1, false, 1⟩
def sealing (k : OpKind) (halted : Bool) : State :=
  { mapped (fun x => { x with halted := halted }) with ops := [(7, ⟨0, 0, 1, 1, none, k, false, false, (16, 0, 0), none, [], []⟩)] }
theorem test_w_SealsComplete_refused :
    (let s := sealing (.cseal (segment 5)) true; (s.context 0).life ≠ .saving ∧ s.ownsContext 0 5 = false) ∧
    (let s := sealing (.cseal (segment 0)) false
     s.ownsContext 0 0 = true ∧ (segment 0).seg ≠ 0 ∧ s.targetHalted (segment 0) = false) ∧
    (let r := { segment 0 with kind := 1, seg := 2 }
     let s := sealing (.cseal r) true
     let waits := { s with ops := s.ops ++ [(8, { collOp (coll 1 false) with kind := .gather 4 [(0, 0)] 1 none false, started := true })] }
     s.targetHalted r = true ∧ waits.sealWaits r = true) := by
  decide +kernel

theorem imageLength (s : State) (ctx : Nat) (r : SealReq) (c w : Nat) :
    (sealImage (s.ctxKey ctx) r c w []).length = 64 := by
  simp [sealImage, gcmTag_length, sealAad, gcmText, ctrMode]
theorem sealing_empty : (sealing (.cseal (segment 0)) true).payload (segment 0) = [] := by decide +kernel
theorem test_w_SealsComplete : let r := segment 0
    let s := sealing (.cseal r) true
    let image := sealImage (s.ctxKey r.ctx) r (s.context 0).counter.toNat (s.core 0).world (s.payload r)
    let as := (List.range 64).map (0x100000 + ·)
    s.op 7 = some ⟨0, 0, 1, 1, none, .cseal r, false, false, (16, 0, 0), none, [], []⟩ ∧ s.sealWaits r = false ∧
    s.withdrawFor r = some s ∧ (s.context 0).life ≠ .saving ∧ s.ownsContext 0 0 = true ∧ r.seg ≠ 0 ∧ r.bad = false ∧
    s.targetHalted r = true ∧ as.length = image.length ∧ as.Nodup ∧ s.memWf ∧ s.l2Clean ∧
    failed (s.imageWrites (collOp (coll 1 false)) r.image image.length) = [] ∧
    (passed (s.imageWrites (collOp (coll 1 false)) r.image image.length)).map (fun x => x.2.2.pa) = as := by
  refine ⟨rfl, by decide +kernel, by decide +kernel, by decide +kernel, by decide +kernel, by decide +kernel, rfl, by decide +kernel,
    ?_, by decide +kernel, by unfold State.memWf; decide +kernel, by unfold State.l2Clean; decide +kernel, ?_, ?_⟩ <;>
    rw [sealing_empty, imageLength] <;> decide +kernel

/-- The image's sector in an L2 holds `h`. -/
def opening (h : List Byte) : State :=
  let s := sealing (.copen (segment 0)) true
  { s with mem := { s.mem with l2 := [(0x4000, ⟨true, false, h⟩)] } }
/-- The operation. -/
def openOp : Op := ⟨0, 0, 1, 1, none, .copen (segment 0), false, false, (16, 0, 0), none, [], []⟩
theorem opening_reads {h : List Byte} (l : h.length = 64) : (opening h).readImage openOp 0x10000 64 = .ok h := by
  have a : (opening h).imageReads openOp 0x10000 64 = (opening []).imageReads openOp 0x10000 64 := rfl
  have b : failed ((opening []).imageReads openOp 0x10000 64) = [] := by decide +kernel
  have c : (passed ((opening []).imageReads openOp 0x10000 64)).map (fun x => x.2.2.pa) = (List.range 64).map (0x100000 + ·) := by
    decide +kernel
  have d : ∀ n, n < 64 → (opening h).mem.homeByte (0x100000 + n) = h.getD n 0 := by
    intro n hn
    have q : (0x100000 + n) / 64 = 0x4000 ∧ (0x100000 + n) % 64 = n := by omega
    have f : isFoyer (0x100000 + n) = false := by revert n; decide +kernel
    simp [MemSys.homeByte, opening, sealing, f, q.1, q.2, Tab.find?]
  simp only [State.readImage, a, b]
  congr 1
  have m : (passed ((opening []).imageReads openOp 0x10000 64)).map (fun x => (opening h).mem.homeByte x.2.2.pa) =
      ((passed ((opening []).imageReads openOp 0x10000 64)).map fun x => x.2.2.pa).map (opening h).mem.homeByte := by
    rw [List.map_map]; rfl
  rw [m, c]
  refine List.ext_getElem (by simp [l]) fun n h1 h2 => ?_
  have hn : n < 64 := by simpa using h1
  simp [d n hn, h2]
/-- An image that was sealed for the segment opens. -/
theorem test_w_Opens_ok : let r := segment 0
    let image := sealImage ((opening []).ctxKey 0) r 0 0 []
    let s := opening image
    s.op 7 = some openOp ∧ s.ownsContext 0 0 = true ∧ r.bad = false ∧ s.targetHalted r = true ∧
    s.readImage openOp r.image 64 = .ok image ∧ s.segLength r (fieldOf image 20 4) = 0 ∧
    s.readImage openOp (r.image + 64) 0 = .ok [] ∧ image ++ [] = sealImage (s.ctxKey 0) r 0 0 [] :=
  ⟨rfl, rfl, rfl, rfl, opening_reads (imageLength _ _ _ _ _), rfl, rfl, List.append_nil _⟩
/-- A header for another segment, and one under an older counter. -/
theorem test_w_Opens_refused : let r := segment 0
    (let h := sealAad { r with seg := 9 } 0 0 0 ++ List.replicate 32 0
     (opening h).readImage openOp 0x10000 64 = .ok h ∧ h.take 32 ≠ sealAad r (fieldOf h 12 4) 0 0) ∧
    (let h := sealAad r 8 0 0 ++ List.replicate 32 0
     (opening h).readImage openOp 0x10000 64 = .ok h ∧ h.take 32 = sealAad r (fieldOf h 12 4) 0 0 ∧ (∀ b ∈ h.drop 48, b = 0) ∧
       fieldOf h 12 4 ≠ ((opening h).context 0).counter.toNat) :=
  ⟨⟨opening_reads (by decide +kernel), by decide +kernel⟩, opening_reads (by decide +kernel), by decide +kernel,
    by simp [sealAad, leBytes], by decide +kernel⟩
/-- Of two tags at least one is not the image's. -/
theorem test_w_Opens_tag : ∃ b : Byte, let r := segment 0
    let h := sealAad r 0 0 0 ++ List.replicate 16 b ++ List.replicate 16 0
    (opening h).readImage openOp 0x10000 64 = .ok h ∧ h.take 32 = sealAad r 0 0 0 ∧ (∀ x ∈ h.drop 48, x = 0) ∧
    fieldOf h 12 4 = ((opening h).context 0).counter.toNat ∧
    gcmTag ((opening h).ctxKey 0) (sealNonce 0 0 1) (sealAad r 0 0 0) [] ≠ (h.drop 32).take 16 := by
  by_cases e : gcmTag ((opening []).ctxKey 0) (sealNonce 0 0 1) (sealAad (segment 0) 0 0 0) [] = List.replicate 16 0
  · refine ⟨1, opening_reads (by decide +kernel), by decide +kernel, by simp [sealAad, leBytes], by decide +kernel, ?_⟩
    intro e'
    exact absurd (e.symm.trans e') (by decide +kernel)
  · exact ⟨0, opening_reads (by decide +kernel), by decide +kernel, by simp [sealAad, leBytes], by decide +kernel, e⟩
theorem test_w_Opens_same : (mach id).skeinOf 1 0 = some 0 ∧ (mach id).memWf := by unfold State.memWf; decide +kernel

/-! ### Witnesses: the trap skein, and how skeins halt and end -/

/-- A halted skein, and the trap skein that issues for its panel; `s1` of the trap skein holds `v`. -/
def serving (v : Dword) : State :=
  { mach id with
    curSlot := 64
    skeins := [(0, skein fun k => { k with halted := true, trapped := true, gangs := [] }),
      (64, base v (Skein.start 0 64 1 0 64))]
    cores := [(0, { Core.cleared 0 with serving := some ⟨1, 0, 4, 16, 0, false⟩ })] }
/-- The error ring has room. -/
def ringed (s : State) : State := { s with host := { s.host with errRing := ⟨0x1000, 6, 0, 0⟩ } }

theorem test_w_SystemRegisters : let s := ringed (mapped (base 1))
    s.settled [1] ∧ s.clean [1] ∧ s.mayCommit ∧ s.canRecord ∧ (s.context s.myCtx).world = 0 ∧
    (∃ q ∈ s.skeins, q.2.panel = s.me.panel ∧ q.2.slot ≠ 64 ∧ (s.sreg 1).val.getLsbD q.2.idx = true ∧ q.2.halted = false ∧
      q.2.exiting = false) := by
  unfold State.settled State.clean State.mayCommit State.canRecord State.memWf; decide +kernel
theorem test_w_SystemRegisters_halted : let s := serving 0
    s.settled [1] ∧ s.clean [1] ∧ s.mayCommit ∧ ∀ q ∈ s.skeins, (s.sreg 1).val.getLsbD q.2.idx = false := by
  unfold State.settled State.clean State.mayCommit; decide +kernel

/-- The target is there; there is none. -/
theorem test_w_Targets :
    (let s := serving 0; s.settled [1, 2] ∧ s.mayCommit ∧ s.target? (s.sreg 1).val = some 0) ∧
    (let s := serving 5; s.settled [1, 2] ∧ s.mayCommit ∧ s.target? (s.sreg 1).val = none ∧
      ∀ q ∈ s.skeins, q.2.idx ≠ (s.sreg 1).val.toNat) ∧
    ((serving 0).skein 0).liveMask ≠ 0 ∧ ((serving 0).context 0).life ≠ .saving := by
  unfold State.settled State.mayCommit; decide +kernel

/-- The context is being saved. -/
def leaving_ (s : State) : State := { s with contexts := [(0, { Context.default_ with life := .saving })] }
theorem test_w_SkeinsHalt :
    let stands := fun (k : Skein) (save : Bool) => k.leaders.all fun g => (k.cursor g).between || (k.cursor g).wait.isSome ||
      (save && (k.cursor g).stop)
    let s := mach fun k => { k with haltReq := true }
    let mid := mach fun k => { k with haltReq := true, gangs := [(0, { running 0 with slot := 2 })] }
    let held := leaving_ (mach fun k => { k with haltReq := true, gangs := [(0, { running 0 with slot := 2, stop := true })] })
    s.me.haltReq = true ∧ s.me.halted = false ∧ stands s.me false = true ∧ s.savingPanel s.me.panel = false ∧
    (s.launch 1).trapbase.isSome = true ∧ stands mid.me false = false ∧ mid.savingPanel 1 = false ∧
    stands held.me true = true ∧ stands held.me false = false ∧ held.savingPanel 1 = true := by
  decide +kernel
/-- An ending skein that is quiet, one that is not, one whose open batch has failed, and a trap skein that exits. -/
theorem test_w_SkeinsEnd :
    (let s := mach fun k => { k with exiting := true }
     s.me.exiting = true ∧ s.me.halted = false ∧ s.quiet 0 = true ∧ s.trapFor 1 = false ∧ s.endDue 0 = true ∧
       (∀ b ∈ s.me.batches ++ [s.me.openBatch], b.failed = false) ∧ (s.panel 1).skeinsLeft.filter (· != s.me.idx) = []) ∧
    (let s := flying .store fun k => { k with exiting := true }; s.endDue 0 = false) ∧
    (let s := mach fun k => { k with exiting := true, openBatch := ⟨1, 0, true, 2, 0x55, []⟩ }
     s.endDue 0 = true ∧ s.me.batches ++ [s.me.openBatch] = [] ++ s.me.openBatch :: [] ∧ s.me.openBatch.failed = true ∧
       (s.launch 1).trapbase.isSome = true) ∧
    (let s := serving 0
     let s := s.modSkein 64 fun k => { k with exiting := true }
     (s.skein 64).exiting = true ∧ (s.skein 64).halted = false ∧ s.endDue 64 = true) := by
  decide +kernel
theorem test_w_BreakpointsFire :
    let s := { mach id with
      launches := [(1, { Launch.none_ with attached := true, life := .running })]
      cores := [(0, { Core.cleared 0 with debugReg := 1, brk := [(2, 0x8000000000000010)] })] }
    let brk := fun (n : Nat) => (Tab.get 0 (s.core 0).brk n : Dword)
    (brk 2).getLsbD 63 = true ∧ (brk 2).extractLsb' 0 53 = (s.skein 0).pcOf 0 ∧ (∀ j, j < 2 → (brk j).getLsbD 63 = false) ∧
    ((s.skein 0).cursor 0).phase = .running ∧ ((s.skein 0).cursor 0).between = true ∧ ((s.skein 0).cursor 0).passed = false ∧
    (s.skein 0).activeLanes 0 ≠ [] ∧ (s.launch (s.panel (s.skein 0).panel).launch).attached = true ∧
    (∀ n, n < 4 → (Tab.get 0 ((mach id).core 0).brk n : Dword).getLsbD 63 = false) := by
  decide +kernel

/-! ### Witnesses: translation, the driver, the memory's own events -/

/-- Page tables from root 0 that map virtual page 0 to frame 0x10000, for every access. -/
def tables : Memory :=
  [(0, 0x39), (1, 0x10), (0x1000, 0x39), (0x1001, 0x20), (0x2000, 0x39), (0x2001, 0x30), (0x3000, 0x39), (0x3001, 0x40),
    (0x4000, 0x39), (0x4002, 0x01)]
/-- The machine under them. -/
def tabled (s : State) : State := { s with mem := { s.mem with hbm := tables } }

theorem test_w_TablesAndTranslations_walk :
    (let s := { tabled (mach id) with walks := [(5, ⟨0, 0, 0⟩)] }
     Tab.find? 5 s.walks = some ⟨0, 0, 0⟩ ∧ (s.core 0).tlb = [] ∧ s.quadTlb 0 = [] ∧
       s.translateAt 0 0 8 needR = .ok ⟨0x10008, 0x10039, 0⟩) ∧
    (let e : TlbEntry := ⟨0, 0, 0x10039, 0x10000, true, true, true⟩
     let s := { tabled (mach id) with walks := [(5, ⟨0, 0, 0⟩)], quadTlbs := [(0, [e])] }
     s.quadTlb 0 = [] ++ e :: [] ∧ e.ctx = 0 ∧ e.page = 0) := by
  decide +kernel
theorem test_w_TablesAndTranslations :
    (tabled (mach id)).memWf ∧ (tabled (mach id)).l2Clean ∧
    (flying (.redbv [⟨0, 0x100000, 0x10, 0, 0, true, true⟩]) id).updatesOpen 0 0x10000 0x11000 = true ∧
    (mach id).updatesOpen 0 0x10000 0x11000 = false ∧ (mach id).noUpdates ∧
    (let u : GuestUpd := ⟨1, 2, 9, [], [0, 0, 0, 0]⟩
     let v : GuestUpd := ⟨3, 2, 9, [], [1, 0, 0, 0]⟩
     let m := { MemSys.reset with updates := [u, v] }
     m.updates.find? (fun x => x.die == 2 && x.id == 3) = some v ∧ m.mayApply v = false ∧ m.mayApply u = true) := by
  refine ⟨by unfold State.memWf; decide +kernel, by unfold State.l2Clean; decide +kernel, by decide +kernel, by decide +kernel, ?_,
    by decide +kernel⟩
  intro q hq
  exact absurd hq (by simp [mach, State.reset])
theorem test_w_BuffersDrain : let s := { mach id with cores := [(0, { Core.cleared 0 with scb := [⟨0x4000, [(0, 1), (3, 2)], [0]⟩] })] }
    s.memWf ∧ s.l2Clean ∧ s.scbWf false 0 ∧ s.scbWf true 0 ∧ 0 ∈ quadOf true 0 ∧
    (s.core 0).scb = ⟨0x4000, [(0, 1), (3, 2)], [0]⟩ :: [] := by
  unfold State.memWf State.scbWf State.l2Clean; decide +kernel

/-- A store of lane 0 to page 0 stands in the operand log, and a copy has asked for page 0x20000. -/
def logged : LogEntry :=
  { LogEntry.free with
    valid := true, write := true, flag := 2, code := 1, mask := 1, pc := 16, sbase := 8, page := 0
    instr := .st .w 5 1 (.imm 0) false, order := 1, lines := [0] }
def asking : State :=
  { tabled (mach fun k => { k with oplog := [(0, logged)] }) with
    ops := [(7, ⟨0, 0, 1, 1, none, .copy (.pad 0) (.glob 0x20000) 64 64 none 1 none (some 0x20000) false, true, false, (16, 0, 0), none, [], []⟩)] }
theorem test_w_DriverAnswers_copy : let s := asking
    s.entriesOf 0 0x20000 (0x20000 + 4096) = [] ∧ (s.op 7).isSome = true ∧ s.ctxOf ((s.op 7).getD Op.none_).who = 0 ∧
    ((s.op 7).getD Op.none_).kind = .copy (.pad 0) (.glob 0x20000) 64 64 none 1 none (some 0x20000) false := by
  decide +kernel
theorem test_w_DriverAnswers_store : let s := asking
    s.entriesOf 0 0 (0 + 4096) = [(0, 0)] ∧ (s.hasSkein 0 = true) ∧ Tab.get LogEntry.free (s.skein 0).oplog 0 = logged ∧
    logged.lanes = [0] ∧
    s.checkLane (s.whoOf 0) .glob needW (sizeBytes .w) false (logged.addr (.imm 0) (sizeBytes .w) 0) = .ok ⟨0x10008, 0x10039, 0⟩ ∧
    s.replaying 0 0 = false ∧ s.writable ⟨0x10008, 0x10039, 0⟩ ∧ s.dmode (s.whoOf 0) = false ∧ s.memWf ∧ s.l2Clean ∧
    s.scbWf (s.fusedOf (s.whoOf 0)) 0 ∧ s.unread (quadOf (s.fusedOf (s.whoOf 0)) 0) s.nextId = [] ∧ (s.skein 0).halted = false ∧
    (s.launch (s.panel (s.skein 0).panel).launch).trapbase.isSome = true := by
  unfold State.memWf State.scbWf State.l2Clean State.writable; decide +kernel

/-- Engine 1 with page 0, which has taken up the move that it names. -/
def migrating (e : MigEngine) : State := { tabled (mach id) with host := { HostIf.reset with mig := [(1, e)], moves := [(1, e)] } }
theorem test_w_PagesMove_go :
    (let s := migrating ⟨0, 0, 0x5000, 1, 3, 0⟩; (s.host.engine 1).status ≠ 1 ∧ (s.host.engine 1).size = 3) ∧
    (let s := migrating ⟨0x20000, 0, 0x5000, 1, 0, 0⟩
     (s.host.engine 1).status ≠ 1 ∧ (s.host.engine 1).size ≠ 3 ∧ (∀ q ∈ s.host.moves, q.1 ≠ 1 → (s.host.engine q.1).status ≠ 1) ∧
       s.moveEntries (s.host.engine 1) = none) ∧
    (let s := migrating ⟨0, 0, 0x5000, 1, 0, 0⟩
     s.moveEntries (s.host.engine 1) = some [(0x4000, 0x10039)] ∧ pteWorld 0x10039 = 0) ∧
    (let s := { migrating ⟨0, 0, 0x5000, 1, 0, 1⟩ with
        mem := { MemSys.reset with hbm := tables ++ [(0x4006, 0x30)] } }
     s.moveEntries (Tab.get MigEngine.zero s.host.moves 1) = some [(0x4000, 0x30000000010039)] ∧
       pteWorld 0x30000000010039 ≠ 0) := by
  decide +kernel
theorem test_w_PagesMove_complete : let s := migrating ⟨0, 0, 0x5000, 1, 0, 1⟩
    let m := Tab.get MigEngine.zero s.host.moves 1
    (s.host.engine 1).status = 1 ∧ m.dir = 1 ∧ m.size = 0 ∧ s.updatesOpen m.ctx m.start (m.start + 4096) = false ∧
    s.moveEntries m = some [(0x4000, 0x10039)] ∧ pteWorld 0x10039 = 0 ∧ pteOwner 0x10039 = 0 ∧ isFoyer 0x4000 = false ∧
    0x4000 + 8 ≤ pteFrame 0x10039 ∧ s.mem.homeNat 0x4000 8 = (0x10039 : BitVec 64).toNat ∧ s.memWf ∧ s.l2Clean ∧ s.noUpdates ∧
    s.ops = [] ∧ s.mem.msgs = [] ∧ (∀ c, (s.core c).scb = [] ∧ (s.core c).withheld = []) ∧
    s.entriesOf m.ctx m.start (m.start + 4096) = [] ∧ (s.host.msi 130).masked = false := by
  refine ⟨rfl, rfl, rfl, by decide +kernel, by decide +kernel, by decide +kernel, by decide +kernel, by decide +kernel,
    by decide +kernel, by decide +kernel, by unfold State.memWf; decide +kernel, by unfold State.l2Clean; decide +kernel, ?_, rfl,
    rfl, fun c => ⟨rfl, rfl⟩, by decide +kernel, by decide +kernel⟩
  intro q hq
  exact absurd hq (by simp [migrating, tabled, mach, State.reset])
theorem test_w_PagesMove_open :
    let s := { migrating ⟨0, 0, 0x5000, 1, 0, 1⟩ with ops := (flying (.redbv [⟨0, 0x10000, 0, 0, 0, true, true⟩]) id).ops }
    let m := Tab.get MigEngine.zero s.host.moves 1
    (s.host.engine 1).status = 1 ∧ m.dir = 1 ∧ s.updatesOpen m.ctx m.start (m.start + m.bytes) = true ∧
    s.moveEntries m = some [(0x4000, 0x10039)] ∧
    (migrating ⟨0x20000, 0, 0, 1, 0, 1⟩).moveEntries ⟨0x20000, 0, 0, 1, 0, 1⟩ = none := by
  decide +kernel

/-- A leaf of 1 GiB of world 3 at 0. -/
def guarded : State :=
  { ringed (mach id) with mem := { MemSys.reset with hbm := [(0, 0x39), (1, 0x10), (0x1000, 0x39), (0x1001, 0x20), (0x2000, 0x39),
      (0x2001, 0x04), (0x2006, 0x30)] } }
theorem test_w_HostReaches :
    (let s := { mach id with host := { HostIf.reset with linkUp := false } }; s.host.linkUp = false) ∧
    (let s := { mach id with host := { HostIf.reset with status := 2 } }; s.host.status.getLsbD 1 = true) ∧
    (let s := mach id
     s.host.linkUp = true ∧ s.host.status.getLsbD 1 = false ∧ s.memWf ∧ (∀ i, i < 8 → s.fenced (0x100 + i) = false) ∧
       ∀ i, i < 8 → inLeaves s.protectedLeaves (0x100 + i) = false) ∧
    (guarded.host.linkUp = true ∧ guarded.canRecord ∧ (∀ i, i < 8 → guarded.fenced (0x100 + i) = false) ∧
      inLeaves guarded.protectedLeaves 0x100 = true) ∧ 0xFFF8 + 8 ≤ 65536 := by
  unfold State.canRecord State.memWf; decide +kernel
theorem test_w_HostReaches_bar : 0x100 + 8 ≤ barBytes := Nat.le_trans (by decide) (Nat.le_max_left _ _)
theorem test_w_MemoryErrors : (ringed (mach id)).canRecord ∧ 3 * 128 + 127 ∉ (mach id).mem.retired ∧
    (let s := { mach id with mem := { MemSys.reset with retired := [3 * 128 + 127] } }; 3 * 128 + 127 ∈ s.mem.retired) := by
  unfold State.canRecord State.memWf; decide +kernel
/-- The threshold and the reserve are open: whatever they are, one of each pair of cases holds of some state. -/
theorem test_w_MemoryErrors_open (h : 0 < Config.rowThreshold) :
    Tab.get 0 (mach id).mem.corrected (rowKey (pcUnit 0) 0) + 1 ≤ Config.rowThreshold := h

/-! ### Witnesses: launches -/

/-- A launch block of one panel of one skein, at version `v`. -/
def block (v : Nat) : List Byte :=
  leBytes 2 v ++ List.replicate 14 0 ++ leBytes 4 1 ++ leBytes 4 1 ++ leBytes 4 1 ++ [1] ++ List.replicate 227 0
/-- Queue 0 holds the block; the device serves. -/
def offering (v : Nat) : State :=
  { State.reset with
    host := { HostIf.reset with
      status := 0x50000F1
      queues := [(0, { Queue.zero with launch := ⟨0x2000, 6, 0, 1⟩, enable := true })]
      errRing := ⟨0x1000, 6, 0, 0⟩ }
    mem := { MemSys.reset with host := Memory.writeN 0x2000 (block v) [] } }

theorem test_w_QueuesHandOverLaunches :
    ((offering 1).nextQueue = some 0 ∧ (parseBlock ((offering 1).headBlock 0)).outside 0 1 = false ∧
      (offering 1).blockRegions (parseBlock ((offering 1).headBlock 0)) = some []) ∧
    ((offering 2).nextQueue = some 0 ∧ (parseBlock ((offering 2).headBlock 0)).outside 0 1 = true) ∧
    State.reset.nextQueue ≠ some 0 := by decide +kernel
theorem test_w_QueuesHandOverLaunches_known :
    (∃ c, Tab.find? (parseBlock ((offering 1).headBlock 0)).context (offering 1).contexts = some c ∧
      c.world = (parseBlock ((offering 1).headBlock 0)).world) ∧ (offering 1).memWf ∧ (offering 1).canRecord := by
  unfold State.canRecord State.memWf
  exact ⟨⟨Context.default_, by decide +kernel, by decide +kernel⟩, by decide +kernel, by decide +kernel⟩
/-- A tail within the ring, and one past it. -/
theorem test_w_doorbell : (offering 1).host.serves = true ∧ ((offering 1).queue 0).stopped = false ∧
    ¬ ((offering 1).queue 0).launch.entries < ((2 : BitVec 32) - ((offering 1).queue 0).launch.head).toNat ∧
    ((offering 1).queue 0).launch.entries < ((65 : BitVec 32) - ((offering 1).queue 0).launch.head).toNat ∧
    (State.reset.queue 0).enable = false ∧ (0 : Nat) < 128 := by decide +kernel

/-- The device serves; launch 2, of block `b`, waits. -/
def serviced (s : State) : State := { s with host := { s.host with status := 0x50000F1 } }
def waits (b : Block) : State :=
  serviced { mach id with launches := [(1, { Launch.none_ with life := .running }), (2, { Launch.none_ with life := .waiting, block := b })] }
theorem test_w_LaunchesAreDispatched :
    (let s := waits { Block.zero with flags := 1 }
     (s.launch 2).life = .waiting ∧ (s.context 0).quarantined = false ∧ s.depsMet 2 = true ∧
       (s.launch 2).block.flags.getLsbD 1 = false ∧ ∀ d ∈ (s.launch 2).block.deps, d ≠ 0 → (s.launch d).life = .ended → (s.launch d).status = .ok) ∧
    (let s := waits Block.zero; s.depsMet 2 = false) ∧
    (let s := waits { Block.zero with flags := 3, dcores := 1, qexp := 10, skeins := 1, gx := 1, gy := 1, gz := 1 }
     s.depsMet 2 = true ∧ (s.launch 2).block.flags.getLsbD 1 = true ∧ s.host.status.getLsbD 0 = true ∧ s.ctxOpen 0 = true ∧
       s.grantFor [] asLatched 2 = some [1] ∧ ∀ c ∈ [1], s.wantedAbove 2 c = false) ∧
    (let s := { waits { Block.zero with deps := [1] } with
        launches := [(1, { Launch.none_ with status := .reset }), (2, { Launch.none_ with life := .waiting, block := { Block.zero with deps := [1] } })] }
     (s.launch 2).life = .waiting ∧ ∃ d ∈ (s.launch 2).block.deps, d ≠ 0 ∧ (s.launch d).life = .ended ∧ (s.launch d).status ≠ .ok) := by
  decide +kernel

/-- Launch 2 runs with one panel to place. -/
def places : State :=
  let b := { Block.zero with skeins := 1, gx := 1, gy := 1, gz := 1 }
  { waits b with launches := [(1, { Launch.none_ with life := .running }), (2, { Launch.none_ with life := .running, block := b })] }
theorem test_w_PanelsArePlaced : (places.launch 2).life = .running ∧ (places.context 0).life = .running ∧
    (places.context 0).tierOne = false ∧ places.waiting 2 = true ∧
    (places.eligible [] asLatched 2 0 && !places.wantedAbove 2 0) = true ∧
    (places.eligible [] asLatched 2 256 && !places.wantedAbove 2 256) = false ∧ (mach id).waiting 1 = false := by decide +kernel

/-- Launch 1 in deterministic mode; its skein, as `f` makes it, has staged a byte. -/
def staging (f : Skein → Skein) : State :=
  let b := { Block.zero with flags := 2, qexp := 10, dcores := 1, skeins := 1, gx := 1, gy := 1, gz := 1 }
  { mach f with
    launches := [(1, { Launch.none_ with life := .running, grant := [0], placed := 1, block := b })]
    ops := [(7, ⟨0, 0, 1, 1, none, .write [(0x4000, 9)], false, true, (16, 0, 0), none, [], []⟩)] }
theorem test_w_QuantaAreCommitted : let s := staging fun k => { k with retired := 1024 }
    (s.launch 1).life = .running ∧ (s.launch 1).block.flags.getLsbD 1 = true ∧ (s.context 0).life = .running ∧
    (∀ k ∈ s.launchSkeins 1, s.quantumEnded k 10 = true ∧ s.exitSettled k = true) ∧ s.memWf ∧ s.l2Clean ∧ s.commitOrder 1 = [7] ∧ (s.commitOrder 1).Nodup ∧
    (∀ q ∈ s.ops, q.2.launch = 1 → q.2.staged = true → q.1 ∈ s.commitOrder 1) ∧
    (∀ c, c < (s.launch 1).grant.length → (s.launch 1).block.total ≤ c + (s.launch 1).block.dcores * (s.logicalPanels 1 c).length) ∧
    ∃ k ∈ (staging id).launchSkeins 1, (staging id).quantumEnded k 10 = false := by
  unfold State.memWf State.l2Clean; decide +kernel
/-- A collective of the launch, resolved to status 1 and one byte. -/
def gathered : CollReq := { coll 1 false with out := some (1, [(0x10100, 5)]) }
theorem test_w_QuantaAreCommitted_coll :
    let s := { staging fun k => { k with retired := 1024 } with ops := [(7, collOp gathered)] }
    s.ops.filter (fun q => q.2.launch == 1) = [(7, collOp gathered)] ∧ s.op 7 = some (collOp gathered) ∧
    (collOp gathered).staged = false ∧ (collOp gathered).kind = .coll gathered ∧ gathered.out = some (1, [(0x10100, 5)]) ∧
    (([(0x10100, 5)] : List (Nat × Byte)).map Prod.fst).Nodup ∧
    ∀ k ∈ s.launchSkeins 1, s.quantumEnded k 10 = true ∧ s.exitSettled k = true := by decide +kernel
theorem test_w_QuantaAreCommitted_order : ∀ id ∈ (staging fun k => { k with retired := 1024 }).commitOrder 1, ∃ o bs,
    (staging fun k => { k with retired := 1024 }).op id = some o ∧ o.kind = .write bs ∧ o.staged = true := by
  have h : (staging fun k => { k with retired := 1024 }).commitOrder 1 = [7] := by decide +kernel
  rw [h]
  intro id hid
  obtain rfl : id = 7 := by simpa using hid
  exact ⟨_, _, rfl, rfl, rfl⟩

/-- Every panel of the launch has ended, and its queue's ring has room. -/
def finished (n : Nat) : State :=
  { ringed (mach id) with
    launches := [(1, { Launch.none_ with life := .running, placed := 1, count := n
                                         block := { Block.zero with gx := 1, gy := 1, gz := 1, watchdog := 4096 } })]
    panels := [(1, { Panel.none_ with launch := 1, life := .ended })]
    skeins := []
    host := { HostIf.reset with queues := [(0, { Queue.zero with prov := ⟨0x1000, 6, 0, 0⟩ })] } }
theorem test_w_LaunchesEnd :
    ((finished 0).launch 1).placed = ((finished 0).launch 1).block.total ∧
    (∀ q ∈ (finished 0).panels, q.2.launch = 1 → q.2.life = .ended) ∧ ((finished 0).launch 1).life = .running ∧
    ((finished 0).queue 0).prov.full = false ∧ ((finished 0).context 0).quarantined = false ∧ (finished 0).memWf ∧
    ((finished 0).launch 1).live = true ∧ ((finished 0).launch 9).live = false ∧ ((finished 0).launch 1).block.watchdog ≠ 0 ∧
    ((finished 0).launch 1).count / 1024 * 1024 < 4096 ∧ 4096 ≤ ((finished 4096).launch 1).count / 1024 * 1024 ∧
    ((mach id).launch 1).placed ≠ ((finished 0).launch 1).block.total := by
  unfold State.memWf; decide +kernel

/-- Launch 1 of context 1, priority 0, holds core 0, as the status word leaves it the only die; launch 2 of context 0 and
priority 1 asks for a whole core's scratchpad. -/
def crowded : State :=
  let b := { Block.zero with skeins := 1, gx := 1, gy := 1, gz := 1 }
  { mach id with
    host := { HostIf.reset with status := 0x5000011 }
    contexts := [(0, Context.default_), (1, Context.default_)]
    cores := (List.range 63).map fun c => (c + 1, { Core.cleared 0 with unused := true })
    panels := [(1, { Panel.none_ with launch := 1, slots := [0], scratchUnits := 1, life := .resident, skeinsLeft := [0] })]
    launches := [(1, { Launch.none_ with life := .running, trapbase := some 64, placed := 1, block := { b with context := 1, scratch := 1 } }),
      (2, { Launch.none_ with life := .running, block := { b with priority := 1, scratch := 96 } })] }
theorem test_w_ContextsArePreempted_request : crowded.waiting 2 = true ∧ crowded.leaving 2 = false ∧
    crowded.roomFor [] 2 = false ∧ crowded.victimsFor 2 = [1] ++ [] ∧ crowded.roomFor [1] 2 = true := by decide +kernel
theorem test_w_ContextsArePreempted_few : ∀ us, us <+: [1] → us ≠ [1] → crowded.roomFor us 2 = false := by
  intro us h hne
  have hn : us = [] := by
    cases us with
    | nil => rfl
    | cons a t =>
      obtain ⟨rfl, ht⟩ := List.cons_prefix_cons.mp h
      exact absurd (by rw [List.prefix_nil.mp ht]) hne
  subst hn
  decide +kernel
/-- The same without anything to leave, and with room. -/
def alone : State := { crowded with launches := crowded.launches.drop 1 }
theorem test_w_ContextsArePreempted_none : alone.waiting 2 = true ∧ alone.leaving 2 = false ∧ alone.roomFor [] 2 = false ∧
    alone.victimsFor 2 = [] ∧ (mach id).waiting 1 = false := by decide +kernel
theorem test_w_ContextsArePreempted_none_prefixes : ∀ vs, vs <+: alone.victimsFor 2 → alone.roomFor vs 2 = false := by
  have h : alone.victimsFor 2 = [] := by decide +kernel
  rw [h]
  intro vs hv
  rw [List.prefix_nil.mp hv]
  decide +kernel

/-- The context in a state of pre-emption. -/
def leaving (c : Context) (s : State) : State := { s with contexts := [(0, c)] }
def asked : Context := { Context.default_ with tierOne := true }
theorem test_w_ContextsArePreempted_deadlines :
    (let s := leaving asked (mach id)
     (s.context 0).tierOne = true ∧ (s.context 0).life = .running ∧ s.residentPanels 0 = [1] ∧
       (∀ p ∈ s.residentPanels 0, (s.launch (s.panel p).launch).trapbase ≠ none) ∧ s.collOpen 0 = false) ∧
    (let s := leaving asked { mach id with launches := [(1, { Launch.none_ with life := .running })] }
     ∃ p ∈ s.residentPanels 0, (s.launch (s.panel p).launch).trapbase = none) ∧
    (leaving asked State.reset).residentPanels 0 = [] ∧ (leaving asked (colls [coll 2 false])).collOpen 0 = true ∧
    ((mach id).context 0).tierOne = false ∧ ((mach id).context 0).collWait = false ∧
    ((leaving { asked with collWait := true } (mach id)).context 0).collWait = true ∧
    ((leaving { asked with life := .saving } (mach id)).context 0).life = .saving ∧
    (let s := leaving { asked with life := .restoring, trapsQueued := true } (mach id)
     (s.context 0).life = .restoring ∧ (s.context 0).trapsQueued = true) := by decide +kernel
/-- A product in the queue of a context that is asked to leave. -/
theorem test_w_ContextsArePreempted_product : let s := leaving asked (flying (.mmat (product 16 true false 0)) id)
    s.residentPanels 0 ≠ [] ∧ s.collOpen 0 = false ∧ ∃ q ∈ s.ops, ∃ m, q.2.kind = .mmat m ∧ s.ctxOf q.2.who = 0 :=
  ⟨by decide +kernel, by decide +kernel, _, List.mem_singleton.mpr rfl, _, rfl, rfl⟩

theorem test_w_LatchesClearTheirCores :
    (let s := { State.reset with cores := [(3, { Core.cleared 0 with scb := [⟨0x4000, [(0, 1)], []⟩] })] }
     s.mayLatch 3 = true ∧ (s.core 3).withheld = [] ∧ s.memWf ∧ s.l2Clean ∧ s.scbWf false 3) ∧ (mach id).mayLatch 0 = false := by
  unfold State.memWf State.scbWf State.l2Clean; decide +kernel

/-! ### Witnesses: the host interface -/

theorem test_w_RegistersTakeWrites : State.reset.host.serves = true ∧ State.reset.host.heldErr = [] ∧
    State.reset.host.heldFault = [] ∧ State.reset.host.heldProv = [] ∧ State.reset.host.creating = false ∧
    (State.reset.queue 127).enable = false ∧ ((offering 1).queue 0).enable = true ∧ (State.reset.host.engine 3).status ≠ 1 ∧
    ({ State.reset with host := { HostIf.reset with linkUp := false } } : State).host.serves = false := by decide +kernel
theorem test_w_HeldRecordsAndMessagesGoOut :
    (let s := { State.reset with host := { HostIf.reset with errRing := ⟨0x1000, 6, 0, 64⟩, heldErr := [⟨[1, 2], none⟩] } }
     s.host.serves = true ∧ s.host.heldErr = [⟨[1, 2], none⟩] ∧ s.host.heldFault = [] ∧ s.host.heldProv = [] ∧ s.memWf ∧
       ({ s.host.errRing with head := 1 } : Ring).full = false ∧ s.host.errRing.full = true) ∧
    (State.reset.host.msi 159).pending = false ∧
    (({ State.reset with host := { HostIf.reset with msix := [(130, ⟨0, 7, true, true⟩)] } } : State).host.msi 130).pending = true := by
  unfold State.memWf; decide +kernel
theorem test_w_SessionsAndKeys : State.reset.host.serves = true ∧ State.reset.host.kexDone = false ∧ State.reset.host.spdm = false ∧
    State.reset.host.coSignDue = false ∧
    (let s := { State.reset with host := { HostIf.reset with kexDone := true, spdm := true, coSignDue := true } }
     s.host.serves = true ∧ s.host.kexDone = true ∧ s.host.spdm = true ∧ s.host.coSignDue = true) := by decide +kernel

/-- Context 5 in a state of its life, and a request that fits a secure session. -/
def inLife (l : CtxLife) : State :=
  { State.reset with contexts := [(0, Context.default_), (5, { Context.default_ with life := l, keySlot := some 9 })] }
def request (world : BitVec 8) : CreateReq := ⟨7, world, 0x1F, 8, 0, 0, 0, 63⟩
theorem test_w_ContextsComeAndGo :
    (State.reset.host.serves = true ∧ State.reset.host.creating = false ∧ Tab.find? 5 State.reset.contexts = none ∧
      (Tab.find? 0 State.reset.contexts).isSome = true) ∧
    (request 0).mask.toNat < 32 ∧ (request 0).ways ≤ 8 ∧
    (let s := { State.reset with host := { HostIf.reset with spdm := true, ide := true } }
     (request 3).world ≠ 0 ∧ s.waysReserved + (request 3).ways ≤ 8 ∧ (request 3).keySlot < 64 ∧
       (request 3).keySlot ∉ s.host.keySlots ∧ s.host.keySlots.length < 64 ∧ (∀ c ∈ s.contexts, c.2.world ≠ (request 3).world.toNat) ∧
       s.host.spdm = true ∧ s.host.ide = true) ∧
    (∀ l ∈ [CtxLife.running, .saving, .saved, .restoring],
      (Tab.find? 5 (inLife l).contexts).map Context.life = some l ∧ (inLife l).host.creating = false) := by decide +kernel

/-- Two lanes of link 3 are left; package 9 has been lost. -/
def fabric (l : Link) : State :=
  { State.reset with
    fabric := { Fabric.reset with links := [(3, l)], lost := [9] }
    host := { HostIf.reset with errRing := ⟨0x1000, 6, 0, 0⟩ } }
theorem test_w_LinksAndPodMessages :
    (let s := fabric ⟨2, true, true, true, false⟩
     s.canRecord ∧ (s.link 3).isOpen = true ∧ (s.link 3).trained = true ∧ (s.link 3).down = false ∧ 2 ≤ (s.link 3).lanes ∧
       s.openLinks ≠ [] ∧ 5 ∉ s.fabric.lost ∧ Tab.get 0 s.fabric.podSeq 5 = 0 ∧ 9 ∈ s.fabric.lost ∧
       Tab.get 0 s.fabric.podSeq 5 ≠ 1 ∧ (∀ q ∈ s.skeins, ∀ g ∈ q.2.gangs, g.2.wait ≠ some .barrier)) ∧
    (((fabric ⟨1, true, true, true, false⟩).link 3).trained = true ∧ ((fabric ⟨1, true, true, true, false⟩).link 3).lanes ≤ 1) ∧
    ((fabric ⟨0, true, true, true, true⟩).link 3).down = true ∧ State.reset.openLinks = [] ∧
    (State.reset.link 17).isOpen = false ∧ (State.reset.link 17).trained = false := by
  unfold State.canRecord State.memWf; decide +kernel
theorem test_w_LinksAndPodMessages_quiet : ∀ q ∈ (fabric Link.untrained).ops,
    (∀ c, q.2.kind ≠ .coll c) ∧ ∀ u p sc va, q.2.kind ≠ .barrier u p sc va :=
  fun q h => absurd h (by simp [fabric, State.reset])

theorem test_w_CoresAreFenced : ((mach id).core 0).unused = false ∧
    (let s := { State.reset with cores := [(2, { Core.cleared 0 with unused := true })] }; (s.core 2).unused = true) ∧
    (∃ q ∈ (mach id).launches, q.2.life ≠ .ended ∧ q.2.life ≠ .recording ∧
      ∃ p ∈ (mach id).panels, p.2.launch = q.1 ∧ p.2.core = 0 ∧ p.2.life ≠ .ended ∧ p.2.life ≠ .saved) ∧
    (mach id).sparesOf (coreDie 0) ≠ 0 ∧
    (∃ p ∈ ({ mach id with panels := [(1, { Panel.none_ with launch := 1, core := 1, lentOn := some 0, life := .resident })] } : State).panels,
      p.2.launch = 1 ∧ p.2.core = 0 ^^^ 1 ∧ p.2.lentOn.isSome = true ∧ p.2.life ≠ .ended ∧ p.2.life ≠ .saved) ∧
    ({ State.reset with fabric := { Fabric.reset with spares := [(0, 0)] } } : State).sparesOf (coreDie 0) = 0 := by decide +kernel
theorem test_w_LinkLossAndReset : State.reset.host.linkUp = true ∧
    (let s := { ringed State.reset with host := { (ringed State.reset).host with linkUp := false } }
     s.host.linkUp = false ∧ s.canRecord ∧ s.host.spdm = false) ∧
    (let s := { State.reset with host := { HostIf.reset with spdm := true, ide := true } }
     s.host.linkUp = true ∧ s.host.spdm = true ∧ s.host.ide = true) := by
  unfold State.canRecord State.memWf; decide +kernel
theorem test_w_BringUp : State.reset.host.status.getLsbD 1 = false ∧
    (∀ n ∈ List.range 6, let u := { State.reset with host := { HostIf.reset with status := BitVec.ofNat 64 (n * 2 ^ 24) } }
      u.host.status.getLsbD 1 = false ∧ (u.host.status.extractLsb' 24 8).toNat = n) ∧ State.reset.host.deadDies = 0 ∧
    ({ State.reset with host := { HostIf.reset with status := 2 } } : State).host.status.getLsbD 1 = true := by decide +kernel

/-! ### Witnesses: the vitrine -/

/-- A world that denies the debugger. -/
def denying : State :=
  { mach id with
    contexts := [(0, Context.default_), (3, { Context.default_ with world := 3, mask := 0 })]
    cores := [(0, Core.cleared 3)] }
theorem test_w_TheVitrineShowsTheSkein :
    Tab.find? State.reset.vit.sel State.reset.skeins = none ∧ Tab.find? (mach id).vit.sel (mach id).skeins = some (skein id) ∧
    (mach id).mayDebug ((mach id).core (skein id).core).world = true ∧
    Tab.find? denying.vit.sel denying.skeins = some (skein id) ∧ denying.mayDebug (denying.core (skein id).core).world = false ∧
    ((skein waiting).sreg 1).pend ≠ none ∧ ((skein id).sreg 1).pend = none ∧
    (queued (.mzero 1 2) false).accBusy 0 1 2 = true := by decide +kernel

/-- The vitrine's context maps page 0 to the frame of `tables`; under `guarded` it is of world 3, which denies. -/
def shown : State := { tabled (mach id) with launches := [(1, { Launch.none_ with life := .running, regions := [⟨0, 64, 1, 0⟩] })] }
def locked : State :=
  { guarded with
    contexts := [(0, Context.default_), (3, { Context.default_ with world := 3, mask := 0 })]
    launches := [(1, { Launch.none_ with life := .running, regions := [⟨0, 64, 1, 0⟩] })] }
theorem test_w_TheVitrineShowsMemory :
    (List.range 64).all (fun i => match shown.vitByte i with | .ok b => b == 0 | .error _ => false) = true ∧
    (match locked.vitByte 0 with | .error true => true | _ => false) = true ∧
    shown.vitRegion 0 = some ⟨0, 64, 1, 0⟩ ∧ shown.vitRegion 64 = none ∧ (shown.vitPage 0).isSome = true ∧
    (shown.vitPage 0).all (fun x => shown.mayDebug (pteWorld x.pte)) = true ∧
    (locked.vitRegion 0).isSome = true ∧ (locked.vitPage 0).isSome = true ∧
    (locked.vitPage 0).all (fun x => locked.mayDebug (pteWorld x.pte)) = false ∧
    leNat ([0x44, 0x34, 0x53, 0x47] : List Byte) = 0x47533444 := by decide +kernel

/-- A container that holds one packet of code, at packet 4096 or wherever it is placed. -/
def opened : Container := ⟨"f", [0x7C003FC0, 0, 0], [], [], [], [], [("main", 0, 0, 0)]⟩
def viewing (v : Vitrine) (f : Skein → Skein) : State := { mach f with vit := v }
theorem test_w_TheVitrineStopsAndResumes :
    (let s := viewing { Vitrine.reset with opened := some opened, codeBase := 49152 } id
     s.vit.packetOf "main" = some 4096 ∧ s.mayDebug (s.core 0).world = true ∧
       (List.range 4).find? (s.numberFree (some 0)) = some 0 ∧ s.vit.packetOf "nowhere" = none ∧ s.vit.opened.isSome = true) ∧
    (let s := viewing { Vitrine.reset with opened := some opened, breaks := (List.range 4).map fun n => ⟨n, 0, some 0⟩ } id
     s.vit.packetOf "main" ≠ none ∧ (∀ n, n < 4 → s.numberFree (some 0) n = false) ∧ ∀ b ∈ s.vit.breaks, b.core ≠ none) ∧
    (let s := viewing { Vitrine.reset with launched := some 1 } fun k => { k with stopped := true }
     s.vit.launched = some 1 ∧ (s.skeins.map Prod.fst).Nodup ∧ s.hasSkein s.vit.sel = true ∧ (s.skein s.vit.sel).stopped = true ∧
       (s.panel (s.skein 0).panel).launch = 1) ∧
    State.reset.vit.launched = none ∧ State.reset.hasSkein 0 = false := by decide +kernel
theorem test_w_TheVitrineStopsAndResumes_skein :
    (∀ q ∈ (mach id).skeins, q.1 / 65 = 0 ∧ q.2.slot ≠ 64 ∧ q.2.idx = 0 ∧ ((mach id).panel q.2.panel).index = 0 → q.1 = 0) ∧
    (∃ q ∈ (mach id).skeins, q.1 / 65 = 0 ∧ q.2.slot ≠ 64 ∧ q.2.idx = 0 ∧ ((mach id).panel q.2.panel).index = 0) ∧
    ∀ q ∈ (mach id).skeins, ¬ (q.1 / 65 = 1 ∧ q.2.slot = 64) := by decide +kernel

/-- A file of 64 + 32 + 12 bytes, after Tables 8.4 and 8.5: one section of native code, of the packet `CLAUSE`. -/
def fileBody : List Byte :=
  leBytes 2 1 ++ leBytes 2 2 ++ leBytes 4 0 ++ leBytes 8 96 ++ leBytes 8 12 ++ leBytes 8 0 ++
    leBytes 4 0x7C003FC0 ++ leBytes 8 0
def fileBytes : List Byte :=
  leBytes 4 0x3156554F ++ leBytes 2 1 ++ leBytes 2 1 ++ sha384 fileBody ++ leBytes 8 0 ++ fileBody
theorem test_open : openContainer "f" fileBytes (driverCode 0) = .ok ⟨"f", [0x7C003FC0, 0, 0], [], [], [], [], []⟩ := by
  decide +kernel
theorem test_w_TheVitrineLoads :
    (ringed State.reset).canRecord ∧ ({ Vitrine.reset with files := [("f", fileBytes)] } : Vitrine).file "f" = some fileBytes ∧
    Vitrine.reset.file "f" = none ∧ openContainer "f" [] (driverCode 0) = .error .malformed ∧ fileBytes.length = 108 ∧
    leNat (([0, 0, 0, 0] : List Byte).take 4) ≠ 0x3156554F ∧ State.reset.vit.block = none := by
  unfold State.canRecord State.memWf; decide +kernel
theorem test_w_TheVitrineLoads_data : let s := tabled (mach id)
    s.memWf ∧ s.l2Clean ∧ ([0x10000, 0x10001] : List Nat).Nodup ∧ (List.range 2).all (fun i =>
      match s.walkCtx s.vit.ctx (0 + i) (s.context s.vit.ctx).world ⟨false, false, false⟩ with
      | .ok x => x.pa == [0x10000, 0x10001].getD i 0
      | .error _ => false) = true := by
  unfold State.memWf State.l2Clean; decide +kernel
theorem test_w_TheVitrineRuns :
    let s := { offering 1 with vit := { Vitrine.reset with opened := some opened, block := some (block 1) } }
    s.vit.opened = some opened ∧ s.vit.block = some (block 1) ∧ s.vit.launched = none ∧ (block 1).length = 256 ∧
    min (numAt (block 1) 37 1) 3 = 0 ∧ s.host.serves = true ∧ (s.queue 0).enable = true ∧ (s.queue 0).launch.valid = true ∧
    ((s.queue 0).launch.tail - (s.queue 0).launch.head).toNat < (s.queue 0).launch.entries ∧ s.memWf := by
  unfold State.memWf; decide +kernel

/-! ### Witnesses: lineage -/

/-- The launch holds slot 2 of its core. -/
def tagging (f : Skein → Skein) : State :=
  { mach f with cores := [(0, { Core.cleared 0 with slots := [none, none, some 1, none] })] }
/-- A first `SMOVI` enters the cabinet in slot 0; a second of another skein register binds to it (R37, R370). -/
theorem test_lineage_r37 :
    let t := after (execSmovi 5 3 (tagging id))
    let u := after (execSmovi 6 3 t)
    (t.myCore.cabinet.map fun q => (q.1, q.2.key.launchSlot)) = [(0, 2)] ∧ u.myCore.cabinet = t.myCore.cabinet ∧
    (u.me.pending.map fun p => match p.eff with | .scalar r _ g => (r, g) | _ => (0, none)) = [(5, some 0), (6, some 0)] := by
  decide +kernel
/-- A pure word over two tagged scalars, and one whose source is not tagged. -/
theorem test_w_Lineage :
    (let s := tagging fun k => { k with stag := [(1, 0), (2, 0)] }
     s.settled [5, 1, 2] ∧ s.clean [1, 2] ∧ s.me.em = 0xFFFFFFFF ∧ s.me.gangMask s.curGang = 0xFF ∧ s.me.meldOpen = false ∧
       none ∉ [1, 2].map (fun r => s.me.tagOf (.s r)) ∧ s.myCore.slots.findIdx? (· == some s.myPanel.launch) = some 2) ∧
    (let s := tagging id; none ∈ [1, 2].map (fun r => s.me.tagOf (.s r))) := by
  unfold State.settled State.clean; decide +kernel
/-- A load-rooted entry in slot 0, and one whose key names it. -/
def rooted (f : Bool) : CabEntry := ⟨⟨0, if f then [] else [0], 0, 2, none⟩, .nop, [], 0, [], [], f, 0⟩
theorem test_w_LineageFence :
    let s := { tagging id with cores := [(0, { Core.cleared 0 with cabinet := [(0, rooted true), (3, rooted false)] })] }
    s.curSlot ≤ 64 ∧ s.mayCommit ∧ s.mayAccess true ∧ s.mayRelease ∧ s.ops.any (fun q => q.2.isRead s.curKey || q.2.walksFor s.curKey) = false ∧
    (after (execFence .acq .core s)).myCore.cabinet = [] := by
  unfold State.mayCommit State.mayAccess State.mayRelease; decide +kernel

/-! ### The assembler -/

/-- The words of an assembled word, or the diagnostic that refuses it. -/
def assembled (mn : String) (ops : List String) : Except Nat (List Word) :=
  ((Asm.start.ctx [] [] 0).word mn.toList (ops.map String.toList)).map fun p => encode false p.1
/-- R246: the words of the listing. -/
theorem test_assembler_listing :
    (assembled "SMOVI" ["s4", "7"]).toOption = some [0x0C400007] ∧
    (assembled "SADD" ["s5", "s4", "0x1234"]).toOption = some [0x08510200, 0x1234] ∧
    (assembled "EXIT" []).toOption = some [0x01800000] := by decide +kernel
/-- R239: how tightly operators bind, and numbers with suffixes. -/
theorem test_assembler_values :
    let v := fun (t : String) => ((Asm.start.ctx [] [] 0).constant t.toList).toOption
    v "1 + 2 * 3 << 1" = some 14 ∧ v "0b101 | 1K" = some 1029 ∧ v "~0 & 0xF" = some 15 ∧ v "-7 / 2" = some (-3) ∧ v "1 / 0" = none := by decide +kernel
/-- Table 8.3: OA101 for no mnemonic, OA102 for an operand, OA103 for a value out of its range. -/
theorem test_assembler_refuses :
    (match assembled "SFOO" ["s4"] with | .error d => d | .ok _ => 0) = 101 ∧
    (match assembled "SADD" ["s5", "v4", "1"] with | .error d => d | .ok _ => 0) = 102 := by decide +kernel
/-- A file of one portable section, of lines of text (Tables 8.4, 8.5 and 8.7, R257, R258). -/
def portableFile (lines : List String) : List Byte :=
  let text := lines.flatMap fun l => l.toList.map (fun c => BitVec.ofNat 8 c.toNat) ++ [0x0A]
  let body := leBytes 2 2 ++ leBytes 2 0 ++ leBytes 4 0 ++ leBytes 8 96 ++ leBytes 8 (32 + text.length) ++ leBytes 8 0 ++
    leBytes 4 0x4D524650 ++ leBytes 2 1 ++ leBytes 2 0 ++ leBytes 4 lines.length ++ leBytes 4 text.length ++ leBytes 8 0 ++ leBytes 8 0 ++ text
  leBytes 4 0x3156554F ++ leBytes 2 1 ++ leBytes 2 1 ++ sha384 body ++ leBytes 8 0 ++ body
/-- A clause of one word, finalised, with the padding of R243; and a mnemonic that there is not. -/
theorem test_open_portable :
    (openContainer "f" (portableFile [".section code", ".clause", "EXIT"]) 49152).toOption.map Container.code = some [0x7C003FC0, 0x01800000, 0] ∧
    openContainer "f" (portableFile [".section code", ".clause", "FOO"]) 49152 = .error (.diagnostic 101) := by
  decide +kernel

end Sys2Proof.Tests
end

section
/-! PROOFS. The scalar words of registers (R116 to R118): the functions of Table 4.1 as bit-vector functions, and what a word
over one, two or three scalars gives. -/

namespace Sys2Proof.Machine

/-! ### The functions of Table 4.1 as bit-vector functions -/

theorem shAmt_eq (b : Dword) : shAmt b = (b.extractLsb' 0 6).toNat := by
  simp [shAmt]

theorem mulHigh_eq (a b : Dword) : mulHigh a b = (a.signExtend 128 * b.signExtend 128).extractLsb' 64 64 := by
  have product : a.signExtend 128 * b.signExtend 128 = BitVec.ofInt 128 (a.toInt * b.toInt) := (BitVec.ofInt_mul ..).symm
  rw [product]
  apply BitVec.eq_of_toNat_eq
  simp only [mulHigh, BitVec.extractLsb'_toNat, BitVec.toNat_ofInt, Nat.shiftRight_eq_div_pow]
  generalize a.toInt * b.toInt = z
  omega

theorem mulHighU_eq (a b : Dword) : mulHighU a b = (a.setWidth 128 * b.setWidth 128).extractLsb' 64 64 := by
  have noWrap : a.toNat * b.toNat < 2 ^ 128 := by
    have := Nat.mul_lt_mul'' a.isLt b.isLt
    simpa using this
  apply BitVec.eq_of_toNat_eq
  simp only [mulHighU, BitVec.extractLsb'_toNat, BitVec.toNat_mul, BitVec.toNat_setWidth, BitVec.toNat_ofNat,
    Nat.shiftRight_eq_div_pow, Nat.mul_mod_mod, Nat.mod_mul_mod]
  rw [Nat.mod_eq_of_lt noWrap]

/-- A choice that does not matter between equal values may be made by `<` or by `≤`. -/
theorem ite_slt_eq_ite_toInt_le {x y u v : Dword} (h : x = y → u = v) :
    (if x.slt y then u else v) = if x.toInt ≤ y.toInt then u else v := by
  rcases Int.lt_trichotomy x.toInt y.toInt with c | c | c
  · simp [BitVec.slt_eq_decide, c, Int.le_of_lt c]
  · simp [h (BitVec.eq_of_toInt_eq c)]
  · simp [BitVec.slt_eq_decide, Int.not_lt.mpr (Int.le_of_lt c), Int.not_le.mpr c]

/-- The same of unsigned values. -/
theorem ite_ult_eq_ite_toNat_le {x y u v : Dword} (h : x = y → u = v) :
    (if x.ult y then u else v) = if x.toNat ≤ y.toNat then u else v := by
  rcases Nat.lt_trichotomy x.toNat y.toNat with c | c | c
  · simp [BitVec.ult_eq_decide, c, Nat.le_of_lt c]
  · simp [h (BitVec.eq_of_toNat_eq c)]
  · simp [BitVec.ult_eq_decide, Nat.not_lt.mpr (Nat.le_of_lt c), Nat.not_le.mpr c]

/-- A bit is 1 where a decidable condition holds. -/
theorem boolWord_decide (p : Prop) [Decidable p] : boolWord (decide p) = if p then 1 else 0 := by
  by_cases h : p <;> simp [boolWord, h]

theorem beq_eq_decide_toInt (x y : Dword) : (x == y) = decide (x.toInt = y.toInt) := by
  rw [Bool.beq_eq_decide_eq]; exact decide_eq_decide.mpr BitVec.toInt_inj.symm

theorem bne_eq_decide_toInt (x y : Dword) : (x != y) = decide (x.toInt ≠ y.toInt) := by
  rw [bne, beq_eq_decide_toInt, decide_not]

theorem onesOf_eq_cpopNatRec (x : Dword) (n : Nat) : onesOf n x.toNat = x.cpopNatRec n 0 := by
  induction n with
  | zero => rfl
  | succ n ih =>
    have step : onesOf (n + 1) x.toNat = onesOf n x.toNat + (x.getLsbD n).toNat := by
      simp only [onesOf, List.range_succ, List.foldl_append, List.foldl_cons, List.foldl_nil, BitVec.testBit_toNat]
      by_cases h : x.getLsbD n = true <;> simp [h]
    rw [step, ih, BitVec.cpopNatRec_succ, BitVec.cpopNatRec_eq (0 + _), Nat.zero_add]

theorem ofNat_onesOf (x : Dword) : BitVec.ofNat 64 (onesOf 64 x.toNat) = x.cpop := by
  rw [onesOf_eq_cpopNatRec]; rfl

theorem ofNat_lzOf (x : Dword) : BitVec.ofNat 64 (lzOf 64 x.toNat) = x.clz := by
  by_cases h : x = 0#64
  · subst h; decide +kernel
  · have lt : x.clz.toNat < 64 := BitVec.clz_lt_iff_ne_zero.mpr h
    have nz : x.toNat ≠ 0 := fun e => h (BitVec.eq_of_toNat_eq e)
    have log : x.toNat.log2 = 63 - x.clz.toNat := (Nat.log2_eq_iff nz).mpr
      ⟨BitVec.two_pow_sub_clz_le_toNat_of_ne_zero (by decide) h,
        by rw [show 63 - x.clz.toNat + 1 = 64 - x.clz.toNat by omega]; exact BitVec.toNat_lt_two_pow_sub_clz⟩
    apply BitVec.eq_of_toNat_eq
    simp only [lzOf, nz, if_false, log, BitVec.toNat_ofNat]
    omega

theorem ofNat_tzOf (x : Dword) : BitVec.ofNat 64 (tzOf 64 x.toNat) = x.ctz := by
  by_cases h : x = 0#64
  · subst h; decide +kernel
  · have first : (List.range 64).find? (fun i => x.toNat.testBit i) = some x.ctz.toNat := by
      have lt : x.ctz.toNat < 64 := BitVec.ctz_lt_iff_ne_zero.mpr h
      rw [List.find?_range_eq_some]
      simp only [BitVec.testBit_toNat]
      exact ⟨BitVec.getLsbD_true_ctz_of_ne_zero h, List.mem_range.mpr lt,
        fun j hj => by simp [BitVec.getLsbD_false_of_lt_ctz hj]⟩
    simp [tzOf, first]

theorem fieldAt_eq (b : Dword) : fieldAt b = ((b.extractLsb' 0 6).toNat, min (b.extractLsb' 8 7).toNat 64) := by
  simp only [fieldAt, bitsOf, BitVec.extractLsb'_toNat]

theorem sbfeOf_eq (a b : Dword) : sbfeOf a b =
    (a >>> (b.extractLsb' 0 6).toNat) &&& (BitVec.allOnes 64 >>> (64 - min (b.extractLsb' 8 7).toNat 64)) := by
  simp only [sbfeOf, fieldAt_eq]
  generalize (b.extractLsb' 0 6).toNat = p
  have le : min (b.extractLsb' 8 7).toNat 64 ≤ 64 := Nat.min_le_right ..
  generalize min (b.extractLsb' 8 7).toNat 64 = w at le
  apply BitVec.eq_of_getLsbD_eq
  intro i hi
  simp only [BitVec.getLsbD_ofNat, bitsOf, Nat.testBit_mod_two_pow, Nat.testBit_shiftRight, BitVec.testBit_toNat,
    BitVec.getLsbD_and, BitVec.getLsbD_ushiftRight, BitVec.getLsbD_allOnes, hi, decide_true, Bool.true_and,
    Bool.and_comm (x := decide (i < w))]
  congr 2
  exact propext (by omega)

theorem sbfiOf_eq (d a b : Dword) : sbfiOf d a b =
    let m : Dword := (BitVec.allOnes 64 >>> (64 - min (b.extractLsb' 8 7).toNat 64)) <<< (b.extractLsb' 0 6).toNat
    (d &&& ~~~m) ||| ((a <<< (b.extractLsb' 0 6).toNat) &&& m) := by
  simp only [sbfiOf, fieldAt_eq]
  generalize (b.extractLsb' 0 6).toNat = p
  have le : min (b.extractLsb' 8 7).toNat 64 ≤ 64 := Nat.min_le_right ..
  generalize min (b.extractLsb' 8 7).toNat 64 = w at le
  have value : BitVec.ofNat 64 (a.toNat <<< p) = a <<< p := by
    apply BitVec.eq_of_toNat_eq; simp
  have mask : BitVec.ofNat 64 ((2 ^ w - 1) <<< p) = (BitVec.allOnes 64 >>> (64 - w)) <<< p := by
    apply BitVec.eq_of_getLsbD_eq
    intro i hi
    simp only [BitVec.getLsbD_ofNat, Nat.testBit_shiftLeft, Nat.testBit_two_pow_sub_one, BitVec.getLsbD_shiftLeft,
      BitVec.getLsbD_ushiftRight, BitVec.getLsbD_allOnes, hi, decide_true, Bool.true_and]
    by_cases hp : i < p
    · simp [hp]
    · simp only [hp, decide_false, Bool.not_false, Bool.true_and, Nat.le_of_not_lt hp, decide_true]
      exact decide_eq_decide.mpr (by omega)
  rw [value, mask]

theorem ofInt_tdiv (a b : Dword) : BitVec.ofInt 64 (a.toInt.tdiv b.toInt) = a.sdiv b := by
  apply BitVec.eq_of_toInt_eq
  rw [BitVec.toInt_ofInt, BitVec.toInt_sdiv]

theorem sdivOf_eq (a b : Dword) : sdivOf a b = if b = 0 then BitVec.allOnes 64 else a.sdiv b := by
  simp only [sdivOf, ofInt_tdiv]

theorem udivOf_eq (a b : Dword) : udivOf a b = if b = 0 then BitVec.allOnes 64 else a / b := by
  have : BitVec.ofNat 64 (a.toNat / b.toNat) = a / b := by
    apply BitVec.eq_of_toNat_eq
    rw [BitVec.toNat_ofNat, BitVec.toNat_udiv, Nat.mod_eq_of_lt (Nat.lt_of_le_of_lt (Nat.div_le_self ..) a.isLt)]
  simp only [udivOf, this]

theorem sremOf_eq (a b : Dword) : sremOf a b = if b = 0 then a else a - b * a.sdiv b := by
  have : BitVec.ofInt 64 (a.toInt.tmod b.toInt) = a - b * a.sdiv b := by
    have back : b * a.sdiv b = BitVec.ofInt 64 (b.toInt * a.toInt.tdiv b.toInt) := by
      rw [BitVec.ofInt_mul, BitVec.ofInt_toInt, ofInt_tdiv]
    rw [Int.tmod_def, back, Int.sub_eq_add_neg, BitVec.ofInt_add, BitVec.ofInt_neg, BitVec.ofInt_toInt, BitVec.sub_eq_add_neg]
  simp only [sremOf, this]

theorem uremOf_eq (a b : Dword) : uremOf a b = if b = 0 then a else a - b * (a / b) := by
  have : BitVec.ofNat 64 (a.toNat % b.toNat) = a - b * (a / b) := by
    have whole := Nat.mod_add_div a.toNat b.toNat
    have lt := a.isLt
    apply BitVec.eq_of_toNat_eq
    simp only [BitVec.toNat_ofNat, BitVec.toNat_sub, BitVec.toNat_mul, BitVec.toNat_udiv]
    generalize b.toNat * (a.toNat / b.toNat) = p at *
    omega
  simp only [uremOf, this]

/-! ### Words over scalars -/

/-- A word that runs as `scalar2` does gives its function's value (R116). -/
theorem scalar2_gives {i : SReg → SReg → SReg → Instr} {f g : Dword → Dword → Dword}
    (run : ∀ d a b s, exec (i d a b) s = s.scalar2 (i d a b) d a b f) (value : ∀ x y, f x y = g x y) : Scalar2 i g := by
  obtain rfl : f = g := funext₂ value
  intro d a b s settled clean
  obtain ⟨t, tag, next, only⟩ := s.scalarWord_gives (i d a b) d [a, b] (some [.s a, .s b]) _ settled clean
  exact ⟨t, tag, (run d a b s).trans next, only⟩

theorem scalar3_gives {i : SReg → SReg → SReg → Instr} {f g : Dword → Dword → Dword → Dword}
    (run : ∀ d a b s, exec (i d a b) s = s.scalar3 (i d a b) d a b f) (value : ∀ w x y, f w x y = g w x y) :
    Scalar3 i g := by
  obtain rfl : f = g := funext₃ value
  intro d a b s settled clean
  have settled' : s.settled [d, d, a, b] := fun r hr => settled r (by simpa using hr)
  obtain ⟨t, tag, next, only⟩ := s.scalarWord_gives (i d a b) d [d, a, b] (some [.s d, .s a, .s b]) _ settled' clean
  exact ⟨t, tag, (run d a b s).trans next, only⟩

theorem scalar1_gives {i : SReg → SReg → Instr} {f g : Dword → Dword}
    (run : ∀ d a s, exec (i d a) s = s.scalar1 (i d a) d a f) (value : ∀ x, f x = g x) : Scalar1 i g := by
  obtain rfl : f = g := funext value
  intro d a s settled clean
  obtain ⟨t, tag, next, only⟩ := s.scalarWord_gives (i d a) d [a] (some [.s a]) _ settled clean
  exact ⟨t, tag, (run d a s).trans next, only⟩

theorem scalarRegisterForms : Claim.ScalarRegisterForms := by
  have same : ∀ {f : Dword → Dword → Dword} (x y : Dword), f x y = f x y := fun _ _ => rfl
  refine ⟨scalar2_gives (fun _ _ _ _ => rfl) same, scalar2_gives (fun _ _ _ _ => rfl) same,
    scalar2_gives (fun _ _ _ _ => rfl) same, scalar2_gives (fun _ _ _ _ => rfl) mulHigh_eq,
    scalar2_gives (fun _ _ _ _ => rfl) mulHighU_eq, scalar2_gives (fun _ _ _ _ => rfl) same,
    scalar2_gives (fun _ _ _ _ => rfl) same, scalar2_gives (fun _ _ _ _ => rfl) same,
    scalar2_gives (fun _ _ _ _ => rfl) same, ?sshl, ?sshr, ?ssra, ?smin, ?smax, ?sminu, ?smaxu, ?scmpEq, ?scmpNe,
    ?scmpLt, ?scmpLe, ?scmpLtu, ?scmpLeu, ?ssel⟩
  case sshl => exact scalar2_gives (f := fun x y => x <<< shAmt y) (fun _ _ _ _ => rfl) fun x y => by rw [shAmt_eq]
  case sshr => exact scalar2_gives (f := fun x y => x >>> shAmt y) (fun _ _ _ _ => rfl) fun x y => by rw [shAmt_eq]
  case ssra =>
    exact scalar2_gives (f := fun x y => x.sshiftRight (shAmt y)) (fun _ _ _ _ => rfl) fun x y => by rw [shAmt_eq]
  case smin => exact scalar2_gives (fun _ _ _ _ => rfl) fun x y => ite_slt_eq_ite_toInt_le id
  case smax => exact scalar2_gives (fun _ _ _ _ => rfl) fun x y => ite_slt_eq_ite_toInt_le Eq.symm
  case sminu => exact scalar2_gives (fun _ _ _ _ => rfl) fun x y => ite_ult_eq_ite_toNat_le id
  case smaxu => exact scalar2_gives (fun _ _ _ _ => rfl) fun x y => ite_ult_eq_ite_toNat_le Eq.symm
  case scmpEq =>
    exact scalar2_gives (f := fun x y => boolWord (x == y)) (fun _ _ _ _ => rfl) fun x y => by
      rw [beq_eq_decide_toInt, boolWord_decide]
  case scmpNe =>
    exact scalar2_gives (f := fun x y => boolWord (x != y)) (fun _ _ _ _ => rfl) fun x y => by
      rw [bne_eq_decide_toInt, boolWord_decide]
  case scmpLt | scmpLe | scmpLtu | scmpLeu => exact scalar2_gives (fun _ _ _ _ => rfl) fun x y => boolWord_decide _
  case ssel =>
    exact scalar3_gives (f := fun c x y => if c != 0 then x else y) (fun _ _ _ _ => rfl) fun c x y => by
      by_cases h : c = 0 <;> simp [h]

theorem scalarBitForms : Claim.ScalarBitForms :=
  ⟨scalar1_gives (fun _ _ _ => rfl) ofNat_onesOf, scalar1_gives (fun _ _ _ => rfl) ofNat_lzOf,
    scalar1_gives (fun _ _ _ => rfl) ofNat_tzOf, scalar2_gives (fun _ _ _ _ => rfl) sbfeOf_eq,
    scalar3_gives (fun _ _ _ _ => rfl) sbfiOf_eq⟩

theorem scalarDivision : Claim.ScalarDivision :=
  ⟨scalar2_gives (fun _ _ _ _ => rfl) sdivOf_eq, scalar2_gives (fun _ _ _ _ => rfl) udivOf_eq,
    scalar2_gives (fun _ _ _ _ => rfl) sremOf_eq, scalar2_gives (fun _ _ _ _ => rfl) uremOf_eq,
    by rw [← BitVec.neg_one_eq_allOnes, BitVec.intMin_sdiv_neg_one], by decide +kernel, by decide +kernel⟩

/-- Settles O1: each word runs as the shared scalar word does (`scalar1_gives` to `scalar3_gives`), and its function of
Table 4.1 is the stated one. -/
theorem scalarRegisterWords : Obligations.ScalarRegisterWords :=
  ⟨scalarRegisterForms, scalarBitForms, scalarDivision⟩

end Sys2Proof.Machine
end

section
/-! PROOFS. Gangs that part and join (R14, R124, R128, R129): masks and gang maps field by field, what a parting and a merge
leave, and the words that read a scalar as their condition (R122). -/

namespace Sys2Proof.Machine

/-! ### Masks of slices and maps of gangs (R14) -/

theorem maskFold_lt (p : Nat → Bool) (n : Nat) :
    (List.range n).foldl (fun m i => if p i then m + 2 ^ i else m) 0 < 2 ^ n := by
  induction n with
  | zero => simp
  | succ n ih =>
    simp only [List.range_succ, List.foldl_append, List.foldl_cons, List.foldl_nil, Nat.pow_succ]
    split <;> omega

/-- The bits of a mask that is summed bit by bit. -/
theorem testBit_maskFold (p : Nat → Bool) (n i : Nat) :
    ((List.range n).foldl (fun m i => if p i then m + 2 ^ i else m) 0).testBit i = (decide (i < n) && p i) := by
  induction n with
  | zero => simp
  | succ n ih =>
    have small := maskFold_lt p n
    simp only [List.range_succ, List.foldl_append, List.foldl_cons, List.foldl_nil]
    generalize (List.range n).foldl (fun m i => if p i then m + 2 ^ i else m) 0 = m at *
    rcases Nat.lt_trichotomy i n with h | h | h
    · have same : (if p n then m + 2 ^ n else m).testBit i = m.testBit i := by
        split
        · rw [Nat.add_comm, Nat.testBit_two_pow_add_gt h]
        · rfl
      simp [same, ih, h, Nat.lt_succ_of_lt h]
    · subst h
      cases p i <;> simp [Nat.add_comm m, Nat.testBit_two_pow_add_eq, Nat.testBit_lt_two_pow small]
    · have large : (if p n then m + 2 ^ n else m) < 2 ^ i := by
        have : 2 ^ (n + 1) ≤ 2 ^ i := Nat.pow_le_pow_right (by decide) h
        rw [Nat.pow_succ] at this
        split <;> omega
      simp [Nat.testBit_lt_two_pow large, Nat.not_lt.mpr h]

@[simp] theorem Skein.getLsbD_gangMask (k : Skein) (g sl : Nat) :
    (k.gangMask g).getLsbD sl = (decide (sl < 8) && k.inGang g sl) := by
  rw [Skein.gangMask, BitVec.getLsbD_ofNat, testBit_maskFold, ← Bool.and_assoc, Bool.and_self]

/-- Masks of slices are equal where they agree on the eight slices. -/
theorem sliceMask_ext {a b : BitVec 8} (h : ∀ sl, sl < 8 → (a.getLsbD sl = true ↔ b.getLsbD sl = true)) : a = b :=
  BitVec.eq_of_getLsbD_eq fun i hi => Bool.eq_iff_iff.mpr (h i hi)

theorem Skein.live_of_inGang {k : Skein} {g sl : Nat} (h : k.inGang g sl = true) : k.live sl = true :=
  (Bool.and_eq_true_iff.mp h).1

theorem gangFold_lt {v : Nat → Nat} (hv : ∀ sl, v sl < 8) (n : Nat) :
    (List.range n).foldl (fun m sl => m + v sl <<< (3 * sl)) 0 < 8 ^ n := by
  induction n with
  | zero => simp
  | succ n ih =>
    have step := Nat.mul_le_mul_right (8 ^ n) (Nat.le_of_lt_succ (hv n))
    simp only [List.range_succ, List.foldl_append, List.foldl_cons, List.foldl_nil, Nat.shiftLeft_eq, Nat.pow_mul,
      Nat.reducePow, Nat.pow_succ (n := 8)] at *
    omega

/-- The field of a slice in a gang map that is summed field by field. -/
theorem bitsOf_gangFold {v : Nat → Nat} (hv : ∀ sl, v sl < 8) (n : Nat) {sl : Nat} (h : sl < n) :
    bitsOf ((List.range n).foldl (fun m sl => m + v sl <<< (3 * sl)) 0) (3 * sl) 3 = v sl := by
  induction n with
  | zero => omega
  | succ n ih =>
    have small := gangFold_lt hv n
    simp only [List.range_succ, List.foldl_append, List.foldl_cons, List.foldl_nil, bitsOf, Nat.shiftLeft_eq,
      Nat.shiftRight_eq_div_pow, Nat.pow_mul, Nat.reducePow] at *
    generalize (List.range n).foldl (fun m sl => m + v sl * 8 ^ sl) 0 = m at *
    by_cases e : sl = n
    · subst e
      rw [Nat.add_mul_div_right _ _ (Nat.pow_pos (by decide)), Nat.div_eq_of_lt small, Nat.zero_add, Nat.mod_eq_of_lt (hv sl)]
    · have lt : sl < n := by omega
      obtain ⟨j, rfl⟩ : ∃ j, n = sl + 1 + j := ⟨n - (sl + 1), by omega⟩
      have field : v (sl + 1 + j) * 8 ^ (sl + 1 + j) = v (sl + 1 + j) * 8 ^ j * 8 * 8 ^ sl := by ring
      rw [field, Nat.add_mul_div_right _ _ (Nat.pow_pos (by decide)), Nat.add_mul_mod_self_right, ih lt]

theorem Skein.gangOf_lt (k : Skein) (sl : Nat) : k.gangOf sl < 8 := Nat.mod_lt _ (by decide)

/-- A recorded gang map gives each slice its gang. -/
theorem gangOf_of_gangmap {k : Skein} {v : Nat → Nat} (hv : ∀ sl, v sl < 8)
    (hk : k.gangmap = BitVec.ofNat 24 ((List.range 8).foldl (fun m sl => m + v sl <<< (3 * sl)) 0)) {sl : Nat} (h : sl < 8) :
    k.gangOf sl = v sl := by
  have small : (List.range 8).foldl (fun m sl => m + v sl <<< (3 * sl)) 0 < 2 ^ 24 := gangFold_lt hv 8
  rw [Skein.gangOf, hk, BitVec.toNat_ofNat, Nat.mod_eq_of_lt small, bitsOf_gangFold hv 8 h]

/-! ### Joining and moving slices -/

theorem Skein.joinGang_frame (k : Skein) (mask : BitVec 8) :
    k.joinGang mask = { k with gangmap := (k.joinGang mask).gangmap } := by
  unfold Skein.joinGang; split <;> rfl

@[simp] theorem Skein.pcOf_joinGang (k : Skein) (mask : BitVec 8) (sl : Nat) : (k.joinGang mask).pcOf sl = k.pcOf sl := by
  rw [k.joinGang_frame]; rfl
@[simp] theorem Skein.gangs_joinGang (k : Skein) (mask : BitVec 8) : (k.joinGang mask).gangs = k.gangs := by
  rw [k.joinGang_frame]
@[simp] theorem Skein.v_joinGang (k : Skein) (mask : BitVec 8) : (k.joinGang mask).v = k.v := by rw [k.joinGang_frame]
@[simp] theorem Skein.s_joinGang (k : Skein) (mask : BitVec 8) : (k.joinGang mask).s = k.s := by rw [k.joinGang_frame]
@[simp] theorem Skein.exited_joinGang (k : Skein) (mask : BitVec 8) : (k.joinGang mask).exited = k.exited := by
  rw [k.joinGang_frame]
@[simp] theorem Skein.regionCount_joinGang (k : Skein) (mask : BitVec 8) :
    (k.joinGang mask).regionCount = k.regionCount := by rw [k.joinGang_frame]

/-- The slices of a mask stand under the lowest of them; every other slice keeps its gang. -/
theorem Skein.gangOf_joinGang (k : Skein) (mask : BitVec 8) {sl : Nat} (h : sl < 8) :
    (k.joinGang mask).gangOf sl = if mask.getLsbD sl then leadOf mask else k.gangOf sl := by
  unfold Skein.joinGang
  split
  · next none =>
    have : mask.getLsbD sl = false := by simpa using List.find?_eq_none.mp none sl (List.mem_range.mpr h)
    simp [this]
  · next lead found =>
    have lt : lead < 8 := List.mem_range.mp (List.mem_of_find?_eq_some found)
    have e : leadOf mask = lead := by simp [leadOf, found]
    rw [e]
    let field : Nat → Nat := fun sl => if mask.getLsbD sl then lead else k.gangOf sl
    have lt8 : ∀ sl, field sl < 8 := fun sl => by
      simp only [field]; split <;> [exact lt; exact k.gangOf_lt sl]
    rw [gangOf_of_gangmap lt8 ?map h]
    case map => rfl

/-- Where the slices of a mask of slices that have not exited stand after they move. -/
theorem Skein.pcOf_setPcs_of_live {k : Skein} {mask : BitVec 8} (live : ∀ sl, mask.getLsbD sl = true → k.live sl = true)
    (t : Pc) {sl : Nat} (h : sl < 8) : (k.setPcs mask t).pcOf sl = if mask.getLsbD sl then t else k.pcOf sl := by
  rw [k.pcOf_setPcs mask t h]
  by_cases m : mask.getLsbD sl = true
  · simp [m, live sl m]
  · simp [m]

/-! ### Parting a gang (R14, R124, R128) -/

/-- The slices of `a` and of `b` are two gangs of their own, those at `tgt` and these at `next`; every other slice, the
registers and the exited slices are as they were. -/
structure Parted (k k' : Skein) (a b : BitVec 8) (tgt next : Pc) : Prop where
  pcs : ∀ sl, sl < 8 → k'.pcOf sl = if a.getLsbD sl then tgt else if b.getLsbD sl then next else k.pcOf sl
  gangs : ∀ sl, sl < 8 → k'.gangOf sl = if a.getLsbD sl then leadOf a else if b.getLsbD sl then leadOf b else k.gangOf sl
  takenCursor : a ≠ 0 → k'.cursor (leadOf a) = Cursor.empty
  restCursor : b ≠ 0 → k'.cursor (leadOf b) = Cursor.empty
  registers : k'.v = k.v ∧ k'.s = k.s ∧ k'.exited = k.exited

theorem Skein.cursor_setCursor_empty (k : Skein) (g j : Nat) (h : k.cursor j = Cursor.empty) :
    (k.setCursor g Cursor.empty).cursor j = Cursor.empty := by
  by_cases e : j = g
  · subst e; simp
  · simpa [Skein.cursor, Skein.setCursor, Tab.get_put_other _ e] using h

/-- Of two disjoint masks the later choice may be tested first. -/
theorem ite_mask_comm {α : Type} {a b : BitVec 8} (disjoint : a &&& b = 0) (sl : Nat) (x y z : α) :
    (if b.getLsbD sl then y else if a.getLsbD sl then x else z) =
      if a.getLsbD sl then x else if b.getLsbD sl then y else z := by
  have never : (a.getLsbD sl && b.getLsbD sl) = false := by rw [← BitVec.getLsbD_and, disjoint]; simp
  by_cases ha : a.getLsbD sl = true
  · have hb : b.getLsbD sl = false := by simpa [ha] using never
    simp [ha, hb]
  · simp [ha]

/-- Two disjoint sets of slices that have not exited move and are recorded as gangs. -/
theorem Skein.moveAndJoin_parts {k : Skein} {a b : BitVec 8} (liveA : ∀ sl, a.getLsbD sl = true → k.live sl = true)
    (liveB : ∀ sl, b.getLsbD sl = true → k.live sl = true) (disjoint : a &&& b = 0) (tgt next : Pc) {sl : Nat} (h : sl < 8) :
    let k' := (((k.setPcs a tgt).setPcs b next).joinGang a).joinGang b
    k'.pcOf sl = (if a.getLsbD sl then tgt else if b.getLsbD sl then next else k.pcOf sl) ∧
    k'.gangOf sl = (if a.getLsbD sl then leadOf a else if b.getLsbD sl then leadOf b else k.gangOf sl) := by
  have liveB' : ∀ sl, b.getLsbD sl = true → (k.setPcs a tgt).live sl = true := liveB
  constructor
  · rw [Skein.pcOf_joinGang, Skein.pcOf_joinGang, Skein.pcOf_setPcs_of_live liveB' next h,
      Skein.pcOf_setPcs_of_live liveA tgt h, ite_mask_comm disjoint]
  · rw [Skein.gangOf_joinGang _ _ h, Skein.gangOf_joinGang _ _ h, ite_mask_comm disjoint]
    rfl

/-- Of a parting, all but the cursors is the moves and the two records of the gang map. -/
theorem Skein.partGang_frame (k : Skein) (g : Nat) (taken : BitVec 8) (tgt next : Pc) :
    let a := k.gangMask g &&& taken
    let b := k.gangMask g &&& ~~~taken
    k.partGang g taken tgt next =
      { (((({ k with gangs := Tab.del g k.gangs } : Skein).setPcs a tgt).setPcs b next).joinGang a).joinGang b with
        gangs := (k.partGang g taken tgt next).gangs } := by
  simp only [Skein.partGang]
  split_ifs <;> rfl

theorem Skein.partGang_parts (k : Skein) (g : Nat) (taken : BitVec 8) (tgt next : Pc) :
    Parted k (k.partGang g taken tgt next) (k.gangMask g &&& taken) (k.gangMask g &&& ~~~taken) tgt next := by
  have live : ∀ m sl, (k.gangMask g &&& m).getLsbD sl = true → k.live sl = true := fun m sl h => by
    rw [BitVec.getLsbD_and, k.getLsbD_gangMask] at h
    exact Skein.live_of_inGang (by simp at h; exact h.1.2)
  have disjoint : (k.gangMask g &&& taken) &&& (k.gangMask g &&& ~~~taken) = 0 := by
    apply sliceMask_ext; intro sl _; simp; tauto
  have moved := fun sl => Skein.moveAndJoin_parts (k := { k with gangs := Tab.del g k.gangs }) (live taken) (live (~~~taken))
    disjoint tgt next (sl := sl)
  exact {
    pcs := fun sl h => by rw [k.partGang_frame]; exact (moved sl h).1
    gangs := fun sl h => by rw [k.partGang_frame]; exact (moved sl h).2
    takenCursor := fun ha => by
      simp only [Skein.partGang, ha, if_false]
      split_ifs
      · exact Skein.cursor_setCursor ..
      · exact Skein.cursor_setCursor_empty _ _ _ (Skein.cursor_setCursor ..)
    restCursor := fun hb => by
      simp only [Skein.partGang, hb, if_false]
      exact Skein.cursor_setCursor ..
    registers := by
      rw [k.partGang_frame]
      simp [Skein.setPcs] }

/-- What the end of a packet with a parting does: the gang is parted, and a region that the packet ends starts where its
lowest slice goes. -/
theorem Skein.endPacket_part {k : Skein} {g : Nat} {taken : BitVec 8} {tgt : Pc}
    (h : (k.cursor g).ctl = some (.part taken tgt)) :
    let k' := ({ k with retired := k.retired + 1 } : Skein).partGang g taken tgt (k.pcOf g + 1)
    k.endPacket g = if (k.cursor g).region then
        k'.startRegion (if taken.getLsbD (leadOf (k.gangMask g)) then tgt else k.pcOf g + 1) .empty
      else k' := by
  simp only [Skein.endPacket, h]

theorem partedGangs : Claim.PartedGangs := by
  intro k k' g taken tgt next sl h which
  have region : k' = k.endPacket g → (k.cursor g).ctl = some (.part taken tgt) → (k.cursor g).region = true →
      k'.regionCount = k.regionCount + 1 ∧
      k'.regionPc = if taken.getLsbD (leadOf (k.gangMask g)) then tgt else k.pcOf g + 1 := fun e ctl ends => by
    rw [e, Skein.endPacket_part ctl, if_pos ends]
    refine ⟨?_, rfl⟩
    simp only [Skein.startRegion]
    rw [Skein.partGang_frame]
    simp [Skein.setPcs]
  have parts : Parted k k' (k.gangMask g &&& taken) (k.gangMask g &&& ~~~taken) tgt next := by
    rcases which with rfl | ⟨rfl, ctl, rfl⟩
    · exact k.partGang_parts g taken tgt next
    · obtain ⟨pcs, gangs, takenCursor, restCursor, registers⟩ :=
        ({ k with retired := k.retired + 1 } : Skein).partGang_parts g taken tgt (k.pcOf g + 1)
      rw [Skein.endPacket_part ctl]
      split <;> exact ⟨pcs, gangs, takenCursor, restCursor, registers⟩
  obtain ⟨pcs, gangs, takenCursor, restCursor, hv, hs, hx⟩ := parts
  exact ⟨pcs sl h, gangs sl h, takenCursor, restCursor, hv, hs, hx, region⟩

/-! ### Entries of a table -/

theorem Tab.mem_put {α : Type} {k : Nat} {v : α} {q : Nat × α} : ∀ {t : Tab α}, q ∈ Tab.put k v t → q = (k, v) ∨ q ∈ t
  | [], h => by simpa [Tab.put] using h
  | (j, w) :: t, h => by
    unfold Tab.put at h
    split at h
    · simpa using h
    · split at h
      · rcases List.mem_cons.mp h with e | e
        · exact .inl e
        · exact .inr (List.mem_cons_of_mem _ e)
      · rcases List.mem_cons.mp h with e | e
        · exact .inr (e ▸ List.mem_cons_self)
        · exact (Tab.mem_put e).imp_right (List.mem_cons_of_mem _)

theorem Tab.mem_put_self {α : Type} (k : Nat) (v : α) : ∀ t : Tab α, (k, v) ∈ Tab.put k v t
  | [] => by simp [Tab.put]
  | (j, w) :: t => by
    unfold Tab.put
    split_ifs
    · exact List.mem_cons_self
    · exact List.mem_cons_self
    · exact List.mem_cons_of_mem _ (Tab.mem_put_self k v t)

theorem Tab.mem_put_of_ne {α : Type} {k : Nat} (v : α) {q : Nat × α} (ne : q.1 ≠ k) :
    ∀ {t : Tab α}, q ∈ t → q ∈ Tab.put k v t
  | (j, w) :: t, h => by
    unfold Tab.put
    split_ifs with lt e
    · exact List.mem_cons_of_mem _ h
    · rcases List.mem_cons.mp h with rfl | h
      · exact absurd e.symm ne
      · exact List.mem_cons_of_mem _ h
    · rcases List.mem_cons.mp h with rfl | h
      · exact List.mem_cons_self
      · exact List.mem_cons_of_mem _ (Tab.mem_put_of_ne v ne h)

/-! ### Gangs that meet at a `REGANG` (R129) -/

theorem getLsbD_foldl_or {α : Type} (f : α → BitVec 8) (sl : Nat) : ∀ (l : List α) (m : BitVec 8),
    (l.foldl (fun m x => m ||| f x) m).getLsbD sl = (m.getLsbD sl || l.any fun x => (f x).getLsbD sl)
  | [], m => by simp
  | x :: l, m => by
    rw [List.foldl_cons, getLsbD_foldl_or f sl l, BitVec.getLsbD_or, List.any_cons, Bool.or_assoc]

/-- A slice waits at a `REGANG` where its gang does. -/
theorem Skein.getLsbD_waitingAt (k : Skein) (at_ : Pc × BitVec 8) {sl : Nat} (h : sl < 8) :
    (k.waitingAt at_).getLsbD sl = true ↔ ∃ q ∈ k.gangs, q.2.arrivedAt = some at_ ∧ k.inGang q.1 sl = true := by
  have mask : ∀ g, (k.gangMask g).getLsbD sl = k.inGang g sl := fun g => by
    rw [k.getLsbD_gangMask, decide_eq_true h, Bool.true_and]
  rw [Skein.waitingAt, getLsbD_foldl_or (fun q : Nat × Cursor => k.gangMask q.1)]
  have zero : (0 : BitVec 8).getLsbD sl = false := BitVec.getLsbD_zero
  simp only [mask, zero, Bool.false_or, List.any_eq_true, List.mem_filter, beq_iff_eq, and_assoc]

/-- The slices of gang `g` that arrive there, with those that waited there before. -/
theorem Skein.getLsbD_waitingAt_setCursor (k : Skein) (g : Nat) (c : Cursor) (at_ : Pc × BitVec 8)
    (arrives : c.arrivedAt = some at_) {sl : Nat} (h : sl < 8) :
    ((k.setCursor g c).waitingAt at_).getLsbD sl = true ↔
      k.inGang g sl = true ∨ ∃ q ∈ k.gangs, q.1 ≠ g ∧ q.2.arrivedAt = some at_ ∧ k.inGang q.1 sl = true := by
  rw [Skein.getLsbD_waitingAt _ _ h]
  have same : ∀ j, (k.setCursor g c).inGang j sl = k.inGang j sl := fun _ => rfl
  simp only [same]
  constructor
  · rintro ⟨q, mem, at_q, hq⟩
    by_cases e : q.1 = g
    · exact .inl (e ▸ hq)
    · rcases Tab.mem_put mem with rfl | mem
      · exact absurd rfl e
      · exact .inr ⟨q, mem, e, at_q, hq⟩
  · rintro (hg | ⟨q, mem, ne, at_q, hq⟩)
    · exact ⟨(g, c), Tab.mem_put_self g c _, arrives, hg⟩
    · exact ⟨q, Tab.mem_put_of_ne c ne mem, at_q, hq⟩

/-- Every slice of the set of a `REGANG` has arrived there. -/
def Skein.allArrived (k : Skein) (at_ : Pc × BitVec 8) : Prop := k.joinSet at_.2 ≠ 0 ∧ k.waitingAt at_ = k.joinSet at_.2

theorem Skein.tryMerge_of_not_allArrived {k : Skein} {at_ : Pc × BitVec 8} (h : ¬ k.allArrived at_) : k.tryMerge at_ = k :=
  if_neg (by simpa only [Skein.allArrived, Bool.and_eq_true, bne_iff_ne, beq_iff_eq] using h)

/-- The skein after a merge: the slices of the set stand as one gang at the packet after, and no cursor waits there. -/
def Skein.merged (k : Skein) (at_ : Pc × BitVec 8) : Skein :=
  { (k.setPcs (k.joinSet at_.2) (at_.1 + 1)).joinGang (k.joinSet at_.2) with
    gangs := Tab.put (leadOf (k.joinSet at_.2)) Cursor.empty (k.gangs.filter fun q => q.2.arrivedAt != some at_) }

theorem Skein.tryMerge_of_allArrived {k : Skein} {at_ : Pc × BitVec 8} (h : k.allArrived at_) :
    k.tryMerge at_ = k.merged at_ ∨ k.tryMerge at_ = (k.merged at_).startRegion (at_.1 + 1) .empty := by
  have e : k.tryMerge at_ = if (k.gangs.any fun q => q.2.arrivedAt == some at_ && q.2.region) = true then
      (k.merged at_).startRegion (at_.1 + 1) .empty else k.merged at_ :=
    if_pos (by simpa only [Skein.allArrived, Bool.and_eq_true, bne_iff_ne, beq_iff_eq] using h)
  rw [e]
  split
  · exact .inr rfl
  · exact .inl rfl

theorem Skein.merged_no_arrival (k : Skein) (at_ : Pc × BitVec 8) :
    ∀ q ∈ (k.merged at_).gangs, q.2.arrivedAt ≠ some at_ := fun q mem => by
  rcases Tab.mem_put mem with rfl | mem
  · simp [Cursor.empty]
  · simpa using (List.mem_filter.mp mem).2

theorem Skein.merged_slices (k : Skein) (at_ : Pc × BitVec 8) {sl : Nat} (h : sl < 8) :
    (k.merged at_).pcOf sl = (if (k.joinSet at_.2).getLsbD sl then at_.1 + 1 else k.pcOf sl) ∧
    (k.merged at_).gangOf sl = (if (k.joinSet at_.2).getLsbD sl then leadOf (k.joinSet at_.2) else k.gangOf sl) := by
  have live : ∀ sl, (k.joinSet at_.2).getLsbD sl = true → k.live sl = true := fun sl hs => by
    simp only [Skein.joinSet, Skein.liveMask, BitVec.getLsbD_and, BitVec.getLsbD_not, Bool.and_eq_true] at hs
    exact hs.2.2
  constructor
  · exact (Skein.pcOf_joinGang ..).trans (Skein.pcOf_setPcs_of_live live _ h)
  · exact Skein.gangOf_joinGang _ _ h

theorem Skein.merged_registers (k : Skein) (at_ : Pc × BitVec 8) :
    (k.merged at_).v = k.v ∧ (k.merged at_).s = k.s ∧ (k.merged at_).exited = k.exited :=
  ⟨Skein.v_joinGang .., Skein.s_joinGang .., Skein.exited_joinGang ..⟩

/-- Gang `g` as it stands at the end of its packet with a `REGANG`. -/
def Skein.atRegang (k : Skein) (g : Nat) (m : BitVec 8) : Skein :=
  ({ k with retired := k.retired + 1 } : Skein).setCursor g
    { k.cursor g with ctl := none, arrivedAt := some (k.pcOf g, m), wait := some .regang }

theorem Skein.endPacket_regang {k : Skein} {g : Nat} {m : BitVec 8} (h : (k.cursor g).ctl = some (.regang m)) :
    k.endPacket g = (k.atRegang g m).tryMerge (k.pcOf g, m) := by
  simp only [Skein.endPacket, h]; rfl

theorem Skein.allArrived_atRegang (k : Skein) (g : Nat) (m : BitVec 8) :
    (k.atRegang g m).allArrived (k.pcOf g, m) ↔
      let set := m &&& ~~~k.exited
      set ≠ 0 ∧ ∀ sl, sl < 8 → (set.getLsbD sl = true ↔
        k.inGang g sl = true ∨ ∃ q ∈ k.gangs, q.1 ≠ g ∧ q.2.arrivedAt = some (k.pcOf g, m) ∧ k.inGang q.1 sl = true) := by
  have arrived := fun sl (h : sl < 8) => Skein.getLsbD_waitingAt_setCursor { k with retired := k.retired + 1 } g
    { k.cursor g with ctl := none, arrivedAt := some (k.pcOf g, m), wait := some .regang } (k.pcOf g, m) rfl h
  refine and_congr_right fun _ => ⟨fun all sl h => ?_, fun all => sliceMask_ext fun sl h => ?_⟩
  · exact (Bool.eq_iff_iff.mp (congrArg (·.getLsbD sl) all)).symm.trans (arrived sl h)
  · exact (arrived sl h).trans (all sl h).symm

/-! ### Traps of a word at issue -/

section
variable {s : State}

theorem State.trap_takes (h : s.trappable) (cls : TrapClass) {code : Nat} (hc : code < 4096) :
    ∃ t, s.trap cls code = .next t ∧ TookTrap s t cls.code code 31 0 s.curPc :=
  ⟨_, rfl, State.trapNow_spec h cls hc (by decide) 0⟩

/-- A trap for a token has the token's code and accession index (R29, R115). -/
theorem State.trapToken_takes (h : s.trappable) (cls : TrapClass) {w : Nat} (tok : BitVec w) :
    ∃ addr, TookTrap s (s.trapToken cls tok.toNat) cls.code (tok.extractLsb' 24 8).toNat (tok.extractLsb' 19 5).toNat
      addr s.curPc := by
  have code : tokenCode tok.toNat = (tok.extractLsb' 24 8).toNat := by rw [BitVec.extractLsb'_toNat]; rfl
  have accn : tokenAccn tok.toNat = (tok.extractLsb' 19 5).toNat := by rw [BitVec.extractLsb'_toNat]; rfl
  rw [State.trapToken, code, accn]
  exact ⟨_, State.trapNow_spec h cls (Nat.lt_trans (BitVec.isLt _) (by decide)) (BitVec.isLt _) _⟩

theorem State.unpoisoned_of_poisoned {a : SReg} {body : Out} (h : (s.sreg a).poison = true) :
    s.unpoisoned [a] body = .next (s.trapToken .poison (s.sreg a).val.toNat) := by
  simp [State.unpoisoned, firstScalar, h, State.poison]

/-! ### Words that read a scalar as their condition (R19, R122) -/

theorem State.condition_of_clean {a : SReg} {f : Dword → Out} (hs : s.settled [a]) (hc : s.clean [a]) :
    s.condition a f = f (s.sreg a).val := by
  rw [State.condition, State.awaits_of_settled hs, State.unpoisoned_of_clean hc]

theorem State.condition_of_poisoned {a : SReg} {f : Dword → Out} (hs : s.settled [a]) (hp : (s.sreg a).poison = true) :
    s.condition a f = .next (s.trapToken .poison (s.sreg a).val.toNat) := by
  rw [State.condition, State.awaits_of_settled hs, State.unpoisoned_of_poisoned hp]

end

/-- Every word of R122 that reads a scalar reads it as a condition. -/
theorem exec_eq_condition {i : Instr} {a : SReg} {off : BitVec 15} (s : State)
    (h : i ∈ [Instr.bruZ a off, .bruNz a off, .bruNeg a off, .bruNneg a off, .bruv a off, .brs a off, .brzm a off, .jmpi a,
      .split a, .regang a] ∨ (i = .ret ∧ a = regLr)) : ∃ f, exec i s = s.condition a f := by
  rcases h with word | ⟨rfl, rfl⟩
  · fin_cases word <;> (unfold exec; exact ⟨_, rfl⟩)
  · unfold exec; exact ⟨_, rfl⟩

theorem poisonedConditionsTrap : Claim.PoisonedConditionsTrap := by
  intro i a off s word settled poisoned trappable
  obtain ⟨f, run⟩ := exec_eq_condition s word
  obtain ⟨addr, took⟩ := State.trapToken_takes trappable .poison (s.sreg a).val
  exact ⟨_, addr, run.trans (State.condition_of_poisoned settled poisoned), took⟩

/-! ### `BRS`, `SPLIT` and `REGANG` -/

/-- A slice is among those of a lane mask where one of its four lanes is. -/
theorem getLsbD_slicesOf (m : Word) {sl : Nat} (h : sl < 8) :
    (slicesOf m).getLsbD sl = true ↔ ∃ l, l / 4 = sl ∧ m.getLsbD l = true := by
  have fold : (slicesOf m).getLsbD sl = decide (bitsOf m.toNat (4 * sl) 4 ≠ 0) := by
    have swap : ∀ c i : Nat, (if bitsOf m.toNat (4 * i) 4 = 0 then c else c + 2 ^ i) =
        if decide (bitsOf m.toNat (4 * i) 4 ≠ 0) then c + 2 ^ i else c := fun c i => by
      by_cases z : bitsOf m.toNat (4 * i) 4 = 0 <;> simp [z]
    simp only [slicesOf, swap]
    rw [BitVec.getLsbD_ofNat, testBit_maskFold (fun i => decide (bitsOf m.toNat (4 * i) 4 ≠ 0)) 8 sl]
    simp [h]
  have bit : ∀ i, (bitsOf m.toNat (4 * sl) 4).testBit i = (decide (i < 4) && m.getLsbD (4 * sl + i)) := fun i => by
    rw [bitsOf, Nat.testBit_mod_two_pow, Nat.testBit_shiftRight, BitVec.testBit_toNat]
  rw [fold, decide_eq_true_iff]
  constructor
  · intro nz
    obtain ⟨i, hi⟩ := Nat.exists_testBit_of_ne_zero nz
    rw [bit, Bool.and_eq_true, decide_eq_true_iff] at hi
    exact ⟨4 * sl + i, by omega, hi.2⟩
  · rintro ⟨l, rfl, hl⟩ zero
    have := bit (l % 4)
    rw [zero, Nat.zero_testBit, Nat.div_add_mod, hl] at this
    simp [Nat.mod_lt] at this

/-- The four outcomes of a word that may part its gang (R124, R128, R132). -/
theorem State.partOr_outcomes (s : State) (taken : BitVec 8) (tgt : Pc) :
    let all := s.me.gangMask s.curGang
    (all &&& taken = 0 → s.partOr taken tgt = .next (s.ends (.move (s.curPc + 1)))) ∧
    (all &&& taken ≠ 0 → all &&& taken = all → s.partOr taken tgt = .next (s.ends (.move tgt))) ∧
    (all &&& taken ≠ 0 → all &&& taken ≠ all → s.me.meldOpen = false →
      s.partOr taken tgt = .next (s.ends (.part taken tgt))) ∧
    (all &&& taken ≠ 0 → all &&& taken ≠ all → s.me.meldOpen = true → s.trappable →
      ∃ t, s.partOr taken tgt = .next t ∧ TookTrap s t 6 4 31 0 s.curPc) := by
  simp only [State.partOr]
  refine ⟨fun none => ?_, fun nonempty whole => ?_, fun nonempty parts closed => ?_, fun nonempty parts opened trappable => ?_⟩
  · rw [if_pos none]; rfl
  · rw [if_neg nonempty, if_pos whole]; rfl
  · rw [if_neg nonempty, if_neg parts, closed]; rfl
  · rw [if_neg nonempty, if_neg parts, opened]
    exact State.trap_takes trappable .pattern (by decide)

theorem partingWords : Claim.PartingWords := by
  intro i a s taken tgt settled clean word
  have run : exec i s = s.partOr taken tgt := by
    rcases word with ⟨off, rfl, rfl, bits⟩ | ⟨rfl, rfl, rfl⟩
    · have slices : slicesOf ((s.sreg a).val.setWidth 32 &&& s.me.em) = taken := sliceMask_ext fun sl h => by
        rw [getLsbD_slicesOf _ h, bits sl h]
        refine exists_congr fun l => and_congr_right fun hl => ?_
        have : l < 32 := by omega
        simp [this]
      rw [← slices]
      exact State.condition_of_clean (f := fun x => s.partOr (slicesOf (x.setWidth 32 &&& s.me.em)) _) settled clean
    · exact State.condition_of_clean (f := fun x => s.partOr (x.setWidth 8) _) settled clean
  rw [run]
  exact s.partOr_outcomes taken tgt

/-- What `REGANG` does with its mask (R129). -/
def State.regangWord (s : State) (m : BitVec 8) : Out :=
  if s.me.gangMask s.curGang &&& ~~~m != 0 then s.trap .diverge divergeCode
  else if s.me.joinSet m = s.me.gangMask s.curGang then s.transfer (.move s.nextPc)
  else s.transfer (.regang m)

/-- The three outcomes of `REGANG` (R129). -/
theorem State.regangWord_outcomes (s : State) (m : BitVec 8) :
    let all := s.me.gangMask s.curGang
    (all &&& ~~~m ≠ 0 → s.trappable → ∃ t, s.regangWord m = .next t ∧ TookTrap s t 5 8 31 0 s.curPc) ∧
    (all &&& ~~~m = 0 → m &&& ~~~s.me.exited = all → s.regangWord m = .next (s.ends (.move (s.curPc + 1)))) ∧
    (all &&& ~~~m = 0 → m &&& ~~~s.me.exited ≠ all → s.regangWord m = .next (s.ends (.regang m))) := by
  have same : m &&& ~~~s.me.exited = s.me.joinSet m := rfl
  simp only [State.regangWord, same]
  refine ⟨fun outside trappable => ?_, fun inside whole => ?_, fun inside others => ?_⟩
  · rw [if_pos (bne_iff_ne.mpr outside)]
    exact State.trap_takes trappable .diverge (by decide)
  · rw [inside, if_neg (by decide), if_pos whole]; rfl
  · rw [inside, if_neg (by decide), if_neg others]; rfl

theorem regangWord : Claim.RegangWord := by
  refine ⟨fun k g m h => ?ends, fun a s settled clean => ?issues⟩
  case ends =>
    intro set at_ all k'
    have arrived : (k.atRegang g m).allArrived at_ ↔ all := k.allArrived_atRegang g m
    have e : k' = (k.atRegang g m).tryMerge at_ := Skein.endPacket_regang h
    by_cases ha : all
    · have merges := Skein.tryMerge_of_allArrived (arrived.mpr ha)
      rw [← e] at merges
      have cursor : ((k.atRegang g m).merged at_).cursor (leadOf set) = Cursor.empty := Tab.get_put_same ..
      have regs := (k.atRegang g m).merged_registers at_
      have slices := fun sl (hs : sl < 8) => (k.atRegang g m).merged_slices at_ hs
      have clear := (k.atRegang g m).merged_no_arrival at_
      refine ⟨fun _ => ?_, fun no => absurd ha no, ?_⟩
      · rcases merges with e | e <;> rw [e] <;> exact ⟨cursor, clear, slices⟩
      · rcases merges with e | e <;> rw [e] <;> exact regs
    · rw [Skein.tryMerge_of_not_allArrived (fun a => ha (arrived.mp a))] at e
      refine ⟨fun a => absurd a ha, fun _ => ?_, e ▸ rfl, e ▸ rfl, e ▸ rfl⟩
      have mine : k'.cursor g = { k.cursor g with ctl := none, arrivedAt := some at_, wait := some .regang } :=
        e ▸ Skein.cursor_setCursor ..
      exact ⟨by rw [mine], by rw [mine], e ▸ rfl, e ▸ rfl, fun j hj => e ▸ Tab.get_put_other _ hj _ _⟩
  case issues =>
    have run : exec (.regang a) s = s.regangWord ((s.sreg a).val.setWidth 8) :=
      State.condition_of_clean (f := fun x => s.regangWord (x.setWidth 8)) settled clean
    rw [run]
    exact s.regangWord_outcomes _

/-- Settles O12: a parting records two gangs (`Skein.partGang_parts`), a `REGANG` merges where every slice of its set has
arrived (`Skein.allArrived_atRegang`), and each word that reads a condition waits and traps as `State.condition` does. -/
theorem gangsPartAndJoin : Obligations.GangsPartAndJoin :=
  ⟨partingWords, partedGangs, regangWord, poisonedConditionsTrap⟩

end Sys2Proof.Machine
end

section
/-! PROOFS. Checks, deliberate traps, the debugger's stop, and poison that would reach `em`, `pm` or the status word (R18, R121,
R139 to R143). -/

namespace Sys2Proof.Machine

/-! ### The first poisoned lane -/

theorem firstLane_of_clean : ∀ {xs : List Lane}, (∀ x ∈ xs, x.poison = false) → firstLane xs = none
  | [], _ => rfl
  | x :: t, h => by
    rw [firstLane, h x List.mem_cons_self]
    exact firstLane_of_clean fun y hy => h y (List.mem_cons_of_mem _ hy)

/-- Over ascending lanes, the token is that of the lowest poisoned one. -/
theorem firstLane_map_of_lowest {f : Nat → Lane} {l : Nat} (poisoned : (f l).poison = true) :
    ∀ {ls : List Nat}, ls.Pairwise (· < ·) → l ∈ ls → (∀ j ∈ ls, j < l → (f j).poison = false) →
      firstLane (ls.map f) = some (f l).val
  | j :: t, ascending, mem, lower => by
    obtain ⟨below, ascending⟩ := List.pairwise_cons.mp ascending
    rw [List.map_cons, firstLane]
    rcases List.mem_cons.mp mem with rfl | mem
    · rw [if_pos poisoned]
    · rw [lower j List.mem_cons_self (below l mem)]
      exact firstLane_map_of_lowest poisoned ascending mem fun i hi => lower i (List.mem_cons_of_mem _ hi)

theorem State.lanes_ascending (s : State) : s.lanes.Pairwise (· < ·) := List.Pairwise.filter _ List.pairwise_lt_range

/-! ### The debugger's stop (R142) -/

theorem Tab.find?_map_of_fixed {α : Type} {k : Nat} {f : Nat × α → Nat × α} (key : ∀ q, (f q).1 = q.1)
    (fixed : ∀ q, q.1 = k → f q = q) : ∀ t : Tab α, Tab.find? k (t.map f) = Tab.find? k t
  | [] => rfl
  | (j, v) :: t => by
    have ih := Tab.find?_map_of_fixed key fixed t
    obtain ⟨w, hw⟩ : ∃ w, f (j, v) = (j, w) := ⟨(f (j, v)).2, Prod.ext (key _) rfl⟩
    rw [List.map_cons, hw]
    by_cases e : k = j
    · have same := fixed (j, v) e.symm
      rw [hw] at same
      simp [Tab.find?, e, (Prod.mk.inj same).2]
    · simp [Tab.find?, e, ih]

/-- A skein whose gang `g` has stopped. -/
def Skein.stoppedAt (x : Skein) (g : Nat) (r : ClauseRec) : Skein :=
  { x.setCursor g { x.cursor g with stop := true, passed := true } with stopped := true, stopRec := r }

/-- The stop of a gang marks its own skein, may hold others, and prints a line. -/
theorem State.debugStop_spec {s : State} {k : Nat} (there : s.hasSkein k = true) (g n : Nat) (pc : Pc) (slot : Nat)
    (r : ClauseRec) : ∃ ks vit, s.debugStop k g n pc slot r = { s with skeins := ks, vit := vit } ∧
      Tab.find? k ks = some ((s.skein k).stoppedAt g r) ∧ vit.out.length = s.vit.out.length + 1 := by
  obtain ⟨x, found⟩ := Option.isSome_iff_exists.mp there
  have put : Tab.find? k (Tab.put k (x.stoppedAt g r) s.skeins) = some (x.stoppedAt g r) := Tab.find?_put_same ..
  simp only [State.debugStop, State.modSkein, found, State.skein_of_find found]
  split
  · refine ⟨_, _, rfl, (Tab.find?_map_of_fixed (fun q => ?_) (fun q e => ?_) _).trans put, List.length_append⟩
    · split <;> rfl
    · simp [e]
  · exact ⟨_, _, rfl, put, List.length_append⟩

theorem dbrk_stops (s : State) (there : s.hasSkein s.curKey = true) (on : s.debugOn s.curKey = true) (active : s.lanes ≠ []) :
    ∃ t, exec .dbrk s = .next t ∧ t.me.stopped = true ∧ t.cur.stop = true ∧ t.me.v = s.me.v ∧ t.me.s = s.me.s ∧
      t.me.pc = s.me.pc ∧ t.mem = s.mem ∧ t.vit.out.length = s.vit.out.length + 1 := by
  have cond : (s.debugOn s.curKey && !s.lanes.isEmpty) = true := by simp [on, active]
  obtain ⟨ks, vit, frame, mine, out⟩ := State.debugStop_spec there s.curGang 4 s.curPc s.cur.slot s.cur.stopRec
  have me : ({ s with skeins := ks, vit := vit } : State).me = s.me.stoppedAt s.curGang s.cur.stopRec :=
    State.skein_of_find mine
  refine ⟨_, (if_pos cond).trans (congrArg _ frame), ?_⟩
  rw [State.cur, me]
  exact ⟨rfl, congrArg Cursor.stop (Skein.cursor_setCursor ..), rfl, rfl, rfl, rfl, out⟩

theorem dbrk_passes (s : State) (h : s.debugOn s.curKey = false ∨ s.lanes = []) : exec .dbrk s = .next s :=
  if_neg (by rcases h with h | h <;> simp [h])

theorem checksAndTraps : Claim.ChecksAndTraps := by
  refine ⟨by decide +kernel, by decide +kernel, fun code s trappable => ?trap, fun a s clean => ?chkPasses,
    fun a s l trappable mem poisoned lower => ?chkTraps, fun b s settled clean => ?scalarPasses,
    fun b s trappable settled poisoned => ?scalarTraps, dbrk_passes, dbrk_stops⟩
  case trap => exact State.trap_takes trappable .trap code.isLt
  case chkPasses =>
    have none : firstLane (s.lanes.map (s.vlane a)) = none := firstLane_of_clean fun x hx => by
      obtain ⟨l, hl, rfl⟩ := List.mem_map.mp hx
      exact clean l hl
    unfold exec
    simp only [execChk, none]
  case chkTraps =>
    have first := firstLane_map_of_lowest poisoned s.lanes_ascending mem lower
    obtain ⟨addr, took⟩ := State.trapToken_takes trappable .chk (s.vlane a l).val
    refine ⟨_, addr, ?_, took⟩
    unfold exec
    simp only [execChk, first]
  case scalarPasses =>
    unfold exec
    simp only [execChkScalar, State.awaits_of_settled settled, clean b List.mem_cons_self, Bool.false_eq_true, if_false]
  case scalarTraps =>
    obtain ⟨addr, took⟩ := State.trapToken_takes trappable .chk (s.sreg b).val
    refine ⟨_, addr, ?_, took⟩
    unfold exec
    simp only [execChkScalar, State.awaits_of_settled settled, poisoned, if_true]

/-! ### Poison for `em`, `pm` and the status word (R18, R121) -/

section
variable {s : State}

/-- A poisoned value for `em` or `pm` raises POISON with its token (R18). -/
theorem State.putScalar_of_poisoned {d : SReg} {v : Scalar} (mask : d = regEm ∨ d = regPm) (poisoned : v.poison = true)
    (i : Instr) (lat : Nat) (srcs : Option (List Src)) (fl : FpFlags) :
    s.putScalar i lat d srcs v fl = .next (s.trapToken .poison v.val.toNat) :=
  if_pos (by rcases mask with rfl | rfl <;> simp [poisoned])

theorem scalarResult_of_token {xs : List Scalar} {tok : Dword} (h : firstScalar xs = some tok) (v : Dword) :
    scalarResult xs v = ⟨tok, true, none⟩ := by simp [scalarResult, h]

theorem State.scalarWord_of_poisoned {d : SReg} {rs : List SReg} {tok : Dword} (mask : d = regEm ∨ d = regPm)
    (settled : s.settled (d :: rs)) (first : firstScalar (rs.map s.sreg) = some tok) (i : Instr) (srcs : Option (List Src))
    (v : Dword) : s.scalarWord i d rs srcs v = .next (s.trapToken .poison tok.toNat) := by
  rw [State.scalarWord, State.awaits_of_settled settled, scalarResult_of_token first]
  exact State.putScalar_of_poisoned mask rfl ..

end

/-- A word of R116 to R120 runs as a scalar word over its sources, but for `SMOV`, which does not wait for its source. -/
theorem ScalarResultOf.runs {i : Instr} {d : SReg} {srcs : List SReg} (h : ScalarResultOf i d srcs) (s : State) :
    (∃ key v, exec i s = s.scalarWord i d srcs key v) ∨ ∃ a, i = .smov d a ∧ srcs = [a] := by
  rcases h with ⟨a, b, rfl, word⟩ | ⟨a, b, rfl, rfl | rfl⟩ | ⟨a, rfl, word | ⟨m, word⟩ | ⟨n, word⟩⟩
  · fin_cases word <;> (unfold exec; exact .inl ⟨_, _, rfl⟩)
  · unfold exec; exact .inl ⟨_, _, rfl⟩
  · unfold exec; exact .inl ⟨_, _, rfl⟩
  · rcases List.mem_cons.mp word with rfl | word
    · exact .inr ⟨a, rfl, rfl⟩
    · fin_cases word <;> (unfold exec; exact .inl ⟨_, _, rfl⟩)
  · fin_cases word <;> (unfold exec; exact .inl ⟨_, _, rfl⟩)
  · fin_cases word <;> (unfold exec; exact .inl ⟨_, _, rfl⟩)

theorem scalarResult_poisons {i : Instr} {d : SReg} {srcs : List SReg} {s : State} {tok : Dword} (word : ScalarResultOf i d srcs)
    (mask : d = regEm ∨ d = regPm) (settled : s.settled (d :: srcs)) (first : firstScalar (srcs.map s.sreg) = some tok) :
    exec i s = .next (s.trapToken .poison tok.toNat) := by
  rcases word.runs s with ⟨key, v, run⟩ | ⟨a, rfl, rfl⟩
  · rw [run]
    exact State.scalarWord_of_poisoned mask settled first i key v
  · have settledD : s.settled [d] := fun r hr => settled r (by simp_all)
    obtain ⟨poisoned, rfl⟩ : (s.sreg a).poison = true ∧ (s.sreg a).val = tok := by
      simpa [firstScalar] using first
    exact (State.awaits_of_settled settledD).trans (State.putScalar_of_poisoned mask poisoned ..)

/-- A comparison with a poisoned active lane has that lane's token as its result (R174). -/
theorem State.compareWord_of_poisoned {s : State} {i : Instr} {d : SReg} {a : VReg} {b : VSrc} {tok : Word}
    (mask : d = regEm ∨ d = regPm) (settled : s.settled (d :: scalarsOf b))
    (first : firstLane (s.lanes.flatMap fun l => [s.vlane a l, s.vsrc b l]) = some tok) (f : Nat → Nat → Bool × FpFlags) :
    s.compareWord i d a b f = .next (s.trapToken .poison tok.toNat) := by
  have active : s.lanes.isEmpty = false := by
    cases h : s.lanes with
    | nil => simp [h, firstLane] at first
    | cons => rfl
  have value : (tok.setWidth 64).toNat = tok.toNat := by simp; omega
  simp only [State.compareWord, State.awaits_of_settled settled, active, Bool.false_eq_true, if_false, List.flatMap_map, first]
  rw [State.putScalar_of_poisoned mask rfl, value]

/-! ### A trap of the trap skein (R143) -/

theorem State.writeErr_frame (s : State) (bs : List Byte) : ∃ h m, s.writeErr bs = { s with host := h, mem := m } :=
  ⟨_, _, rfl⟩

/-- An error record changes the host's side and its memory alone. -/
theorem State.postError_frame (s : State) (e : ErrEvent) : ∃ h m, s.postError e = { s with host := h, mem := m } := by
  simp only [State.postError]
  generalize errBytes s e s.host.errseq = bs
  split_ifs
  · exact ⟨_, _, rfl⟩
  · split <;> exact ⟨_, _, rfl⟩
  · exact State.writeErr_frame (s.setHost { s.host with errseq := s.host.errseq + 1 }) bs

theorem State.deliverTrap_of_trapSkein {s : State} {k : Nat} {r : TrapRec} (slot : k % 65 = trapSlot)
    (life : (s.context (s.launch (s.panel r.panel).launch).block.context).life ≠ .restoring) :
    ∃ h m, s.deliverTrap k r =
      { s.setCore (k / 65) { s.core (k / 65) with trapDead := true } with host := h, mem := m } := by
  simp only [State.deliverTrap, slot, if_true]
  generalize ErrEvent.mk .trapInTrap 0 (k / 65) _ _ none _ = e
  obtain ⟨h, m, frame⟩ := (s.setCore (k / 65) { s.core (k / 65) with trapDead := true }).postError_frame e
  rw [frame]
  exact ⟨h, m, if_neg (mt beq_iff_eq.mp life)⟩

/-- A halted skein stands with every slice at one packet, its results visible. -/
theorem State.haltSkein_modSkein {s : State} {k : Nat} {x : Skein} (found : Tab.find? k s.skeins = some x) (at_ : Pc)
    (r : ClauseRec) : ∃ ops log,
      (s.haltSkein k).modSkein k (fun x => { x.setPcs 0xFF at_ with stopRec := r, trapped := true }) =
        { s with ops := ops }.setSkein k (trapped x log at_ r) := by
  refine ⟨(s.settleSkein k true).ops, ((s.settleSkein k true).skein k).oplog, ?_⟩
  simp [State.haltSkein, State.settleSkein, State.modSkein, found, State.setSkein, State.skein, trapped]

/-- A trap of the trap skein halts it and marks it dead; it queues nothing (R143). -/
theorem State.takeTrap_of_trapSkein {s : State} {k : Nat} {x : Skein} (found : Tab.find? k s.skeins = some x)
    (isTrap : k % 65 = trapSlot) (running : x.halted = false)
    (life : (s.context (s.launch (s.panel x.panel).launch).block.context).life ≠ .restoring) (cls : TrapClass)
    (code accn slot : Nat) (wordPc at_ : Pc) (r : ClauseRec) (addr : Dword) : ∃ ops log h m,
      s.takeTrap k cls code accn slot wordPc at_ r addr =
        { ({ s with ops := ops }.setSkein k (trapped x log at_ r)).setCore (k / 65)
            { s.core (k / 65) with trapDead := true } with host := h, mem := m } := by
  obtain ⟨ops, log, halts⟩ := State.haltSkein_modSkein found at_ r
  have mine : ({ s with ops := ops }.setSkein k (trapped x log at_ r)).skein k = trapped x log at_ r :=
    Tab.get_put_same ..
  have panel : (trapped x log at_ r).panel = x.panel := by
    show x.flush.panel = x.panel
    rw [flush_frame]
  have notHalted : (s.skein k).halted = false := by rw [State.skein_of_find found]; exact running
  simp only [State.takeTrap, notHalted, Bool.false_eq_true, if_false, halts, mine, panel]
  obtain ⟨h, m, delivers⟩ := State.deliverTrap_of_trapSkein (s := { s with ops := ops }.setSkein k (trapped x log at_ r))
    (r := ⟨x.panel, (trapped x log at_ r).idx, causeWord cls code accn (trapped x log at_ r).idx, trapPc slot wordPc, addr,
      false⟩) isTrap life
  exact ⟨ops, log, h, m, delivers⟩

/-- A poisoned value that a word of the trap skein would write to `em` or `pm` ends it (R143). -/
theorem State.trapToken_of_trapSkein {s : State} (slot : s.curSlot = 64) (there : s.hasSkein s.curKey = true)
    (running : s.me.halted = false) (life : (s.context s.myCtx).life ≠ .restoring) (cls : TrapClass) (tok : Nat) :
    let t := s.trapToken cls tok
    t.myCore.trapDead = true ∧ t.me.halted = true ∧ ∀ x, t.me.sreg x = s.me.flush.sreg x := by
  obtain ⟨x, found⟩ := Option.isSome_iff_exists.mp there
  have me : s.me = x := State.skein_of_find found
  have isTrap : s.curKey % 65 = trapSlot := by simp only [State.curKey, skKey, trapSlot, slot]; omega
  have core : s.curKey / 65 = s.curCore := by simp only [State.curKey, skKey, slot]; omega
  obtain ⟨ops, log, h, m, e⟩ := State.takeTrap_of_trapSkein found isTrap (me ▸ running) (me ▸ life) cls (tokenCode tok)
    (tokenAccn tok) s.cur.slot s.curPc s.curPc s.cur.stopRec (s.me.accnAddr (tokenAccn tok))
  rw [core] at e
  have key : (s.trapToken cls tok).curKey = s.curKey := by simp only [State.trapToken, State.trapNow, e]; rfl
  have mine : (s.trapToken cls tok).me = trapped x log s.curPc s.cur.stopRec := by
    rw [State.me, key]
    simp only [State.trapToken, State.trapNow, e]
    exact Tab.get_put_same ..
  have dead : (s.trapToken cls tok).myCore = { s.core s.curCore with trapDead := true } := by
    simp only [State.trapToken, State.trapNow, e]
    exact Tab.get_put_same ..
  refine ⟨by rw [dead], by rw [mine]; rfl, fun r => ?_⟩
  rw [mine, me]; rfl

theorem xread_poisons {x a n : SReg} {s : State} {k : Nat} (mask : x = regEm ∨ x = regPm) (settled : s.settled [a, x])
    (target : s.target? (s.sreg a).val = some k) (poisoned : ((s.skein k).sreg n).poison = true) :
    exec (.xread x a (.s n)) s = .next (s.trapToken .poison ((s.skein k).sreg n).val.toNat) := by
  unfold exec
  simp only [execXread, target, Option.map_some, isVecSel, Bool.false_eq_true, if_false]
  rw [State.awaits_of_settled settled]
  exact State.putScalar_of_poisoned (v := (s.skein k).select (.s n)) mask poisoned ..

theorem poisonNeverReachesMasks : Claim.PoisonNeverReachesMasks := by
  refine ⟨fun i d srcs s tok word mask settled trappable first => ?scalar,
    fun i d a b s tok word mask settled trappable first => ?compare, fun a s settled trappable poisoned => ?sput,
    fun x a n s k mask settled slot there running target _ poisoned life => ?xread⟩
  case scalar =>
    obtain ⟨addr, took⟩ := State.trapToken_takes trappable .poison tok
    exact ⟨_, addr, scalarResult_poisons word mask settled first, took⟩
  case compare =>
    obtain ⟨addr, took⟩ := State.trapToken_takes trappable .poison tok
    refine ⟨_, addr, ?_, took⟩
    rcases word with ⟨c, rfl⟩ | ⟨c, rfl⟩ | ⟨c, rfl⟩ <;>
      (unfold exec; exact State.compareWord_of_poisoned mask settled first _)
  case sput =>
    obtain ⟨addr, took⟩ := State.trapToken_takes trappable .poison (s.sreg a).val
    exact ⟨_, addr, (State.awaits_of_settled settled).trans (State.unpoisoned_of_poisoned poisoned), took⟩
  case xread =>
    obtain ⟨dead, halted, registers⟩ := State.trapToken_of_trapSkein slot there running life .poison
      ((s.skein k).sreg n).val.toNat
    exact ⟨_, xread_poisons mask settled target poisoned, dead, halted, registers x⟩

/-- Settles O14: each poisoned result comes to `State.putScalar_of_poisoned`, and its trap is `State.trapToken_takes`, or in the
trap skein `State.trapToken_of_trapSkein`. -/
theorem checksTrapsAndMasks : Obligations.ChecksTrapsAndMasks := ⟨checksAndTraps, poisonNeverReachesMasks⟩

end Sys2Proof.Machine
end

section
/-! PROOFS. The lane-wise integer words (R155, R156): the functions of Table 5.3 on elements as bit-vector functions, packed
elements, and what a word of fixed latency over lanes gives. -/

namespace Sys2Proof.Machine

/-! ### Elements as bit vectors (R46) -/

theorem ofNat_wrap (n : Nat) (i : Int) : BitVec.ofNat n (wrap n i) = BitVec.ofInt n i := by
  apply BitVec.eq_of_toNat_eq
  have nonneg : 0 ≤ i % 2 ^ n := Int.emod_nonneg _ (by positivity)
  have below : i % 2 ^ n < 2 ^ n := Int.emod_lt_of_pos _ (by positivity)
  rw [BitVec.toNat_ofNat, BitVec.toNat_ofInt, wrap, Nat.mod_eq_of_lt (by zify; rwa [Int.toNat_of_nonneg nonneg])]
  norm_cast

theorem sInt_toNat {n : Nat} (x : BitVec n) : sInt n x.toNat = x.toInt := by
  cases n with
  | zero => simp [BitVec.of_length_zero, sInt]
  | succ m =>
    have twice : 2 * x.toNat < 2 ^ (m + 1) ↔ x.toNat < 2 ^ m := by rw [pow_succ]; omega
    simp [BitVec.toInt_eq_toNat_cond, sInt, twice]

theorem laneElem_eq (w : Nat) (x : Word) (k : Nat) : laneElem w x k = (x.extractLsb' (w * k) w).toNat := by
  rw [laneElem, bitsOf, BitVec.extractLsb'_toNat]

theorem toNat_append_eq_add {m n : Nat} (x : BitVec m) (y : BitVec n) : (x ++ y).toNat = x.toNat * 2 ^ n + y.toNat := by
  rw [BitVec.toNat_append, ← Nat.shiftLeft_add_eq_or_of_lt y.isLt, Nat.shiftLeft_eq]

/-- The elements of a lane are the digits of its value. -/
theorem laneOf_foldl (w : Nat) : ∀ (es : List Nat) (k acc : Nat),
    (es.zipIdx k).foldl (fun acc p => acc + (p.1 % 2 ^ w) <<< (w * p.2)) acc =
      acc + 2 ^ (w * k) * Nat.ofDigits (2 ^ w) (es.map (· % 2 ^ w))
  | [], k, acc => by simp
  | e :: es, k, acc => by
    rw [List.zipIdx_cons, List.foldl_cons, laneOf_foldl w es, List.map_cons, Nat.ofDigits_cons, Nat.shiftLeft_eq,
      Nat.mul_add w, pow_add]
    push_cast
    ring

theorem laneOf_eq_ofDigits (w : Nat) (es : List Nat) :
    laneOf w es = BitVec.ofNat 32 (Nat.ofDigits (2 ^ w) (es.map (· % 2 ^ w))) := by
  rw [laneOf, laneOf_foldl, Nat.mul_zero, pow_zero, Nat.zero_add, Nat.one_mul]

theorem laneOf_one (e : Nat) : laneOf 32 [e] = BitVec.ofNat 32 e := by
  apply BitVec.eq_of_toNat_eq
  simp [laneOf_eq_ofDigits]

theorem laneOf_two (e f : Nat) : laneOf 16 [e, f] = BitVec.ofNat 16 f ++ BitVec.ofNat 16 e := by
  apply BitVec.eq_of_toNat_eq
  simp only [laneOf_eq_ofDigits, toNat_append_eq_add, BitVec.toNat_ofNat, List.map_cons, List.map_nil, Nat.ofDigits_cons,
    Nat.ofDigits_nil]
  omega

theorem laneOf_four (e f g h : Nat) : laneOf 8 [e, f, g, h] =
    (BitVec.ofNat 8 h ++ BitVec.ofNat 8 g) ++ (BitVec.ofNat 8 f ++ BitVec.ofNat 8 e) := by
  apply BitVec.eq_of_toNat_eq
  simp only [laneOf_eq_ofDigits, toNat_append_eq_add, BitVec.toNat_ofNat, List.map_cons, List.map_nil, Nat.ofDigits_cons,
    Nat.ofDigits_nil]
  omega

/-- A function of elements that agrees with one of bit vectors acts as it does on each element of a lane. -/
theorem elemOp_eq_perElem {f : Nat → Nat → Nat → Nat} {g : (n : Nat) → BitVec n → BitVec n → BitVec n}
    (same : ∀ n (x y : BitVec n), BitVec.ofNat n (f n x.toNat y.toNat) = g n x y) (t : ElemTy) :
    elemOp t f = perElem t g := by
  funext x y
  simp only [elemOp, laneElem_eq]
  cases t with
  | w =>
    have whole (z : Word) : z.extractLsb' 0 32 = z := BitVec.extractLsb'_eq_self
    exact (laneOf_one _).trans ((same 32 ..).trans (congrArg₂ (g 32) (whole x) (whole y)))
  | h2 => exact (laneOf_two ..).trans (congrArg₂ _ (same 16 ..) (same 16 ..))
  | b4 =>
    exact (laneOf_four ..).trans
      (congrArg₂ _ (congrArg₂ _ (same 8 ..) (same 8 ..)) (congrArg₂ _ (same 8 ..) (same 8 ..)))

/-! ### The functions of Table 5.3 -/

theorem emod_mul_self_ediv (z m : Int) (pos : 0 < m) : z % (m * m) / m = z / m % m := by
  rw [Int.emod_def z, Int.emod_def, ← Int.ediv_ediv_of_nonneg pos.le, Int.mul_assoc, Int.sub_mul_ediv_left _ _ pos.ne']

section
variable (n : Nat) (x y : BitVec n)

theorem ofNat_eAdd : BitVec.ofNat n (eAdd n x.toNat y.toNat) = x + y := by
  apply BitVec.eq_of_toNat_eq; simp [eAdd]
theorem ofNat_eSub : BitVec.ofNat n (eSub n x.toNat y.toNat) = x - y := by
  apply BitVec.eq_of_toNat_eq
  have := y.isLt
  simp only [eSub, BitVec.toNat_ofNat, BitVec.toNat_sub, Nat.mod_mod]
  congr 1; omega
theorem ofNat_eMul : BitVec.ofNat n (eMul n x.toNat y.toNat) = x * y := by
  apply BitVec.eq_of_toNat_eq; simp [eMul]

theorem extractLsb'_ofInt (z : Int) : (BitVec.ofInt (2 * n) z).extractLsb' n n = BitVec.ofInt n (z / 2 ^ n) := by
  apply BitVec.eq_of_toNat_eq
  have pos : (0 : Int) < 2 ^ n := by positivity
  have square : (2 : Int) ^ (2 * n) = 2 ^ n * 2 ^ n := by rw [two_mul, pow_add]
  simp only [BitVec.extractLsb'_toNat, BitVec.toNat_ofInt, Nat.shiftRight_eq_div_pow]
  zify
  rw [Int.toNat_of_nonneg (Int.emod_nonneg _ (by positivity)), Int.toNat_of_nonneg (Int.emod_nonneg _ (by positivity))]
  rw [square, emod_mul_self_ediv z _ pos, Int.emod_emod]

theorem ofNat_eMulh : BitVec.ofNat n (eMulh n x.toNat y.toNat) =
    (x.signExtend (2 * n) * y.signExtend (2 * n)).extractLsb' n n := by
  have product : x.signExtend (2 * n) * y.signExtend (2 * n) = BitVec.ofInt (2 * n) (x.toInt * y.toInt) :=
    (BitVec.ofInt_mul ..).symm
  rw [product, extractLsb'_ofInt, eMulh, ofNat_wrap, sInt_toNat, sInt_toNat]

theorem ofNat_eMulhu : BitVec.ofNat n (eMulhu n x.toNat y.toNat) =
    (x.setWidth (2 * n) * y.setWidth (2 * n)).extractLsb' n n := by
  have noWrap : x.toNat * y.toNat < 2 ^ (2 * n) := by
    rw [two_mul, pow_add]; exact Nat.mul_lt_mul'' x.isLt y.isLt
  apply BitVec.eq_of_toNat_eq
  simp only [eMulhu, BitVec.extractLsb'_toNat, BitVec.toNat_mul, BitVec.toNat_setWidth, BitVec.toNat_ofNat,
    Nat.shiftRight_eq_div_pow, Nat.mul_mod_mod, Nat.mod_mul_mod]
  rw [Nat.mod_eq_of_lt noWrap]

theorem ofNat_eShl : BitVec.ofNat n (eShl n x.toNat y.toNat) = x <<< (y.toNat % n) := by
  apply BitVec.eq_of_toNat_eq; simp [eShl]
theorem ofNat_eShr : BitVec.ofNat n (eShr n x.toNat y.toNat) = x >>> (y.toNat % n) := by
  apply BitVec.eq_of_toNat_eq
  rw [eShr, BitVec.toNat_ofNat, BitVec.toNat_ushiftRight, Nat.mod_eq_of_lt]
  exact (Nat.shiftRight_le ..).trans_lt x.isLt
theorem ofNat_eSra : BitVec.ofNat n (eSra n x.toNat y.toNat) = x.sshiftRight (y.toNat % n) := by
  rw [eSra, ofNat_wrap, sInt_toNat, ← BitVec.ofInt_toInt (x := x.sshiftRight _), BitVec.toInt_sshiftRight,
    Int.shiftRight_eq_div_pow]
  norm_cast

theorem ofNat_eMin : BitVec.ofNat n (eMin n x.toNat y.toNat) = if x.toInt ≤ y.toInt then x else y := by
  simp only [eMin, sInt_toNat]
  rcases Int.lt_trichotomy x.toInt y.toInt with c | c | c
  · simp [c, c.le]
  · simp [BitVec.eq_of_toInt_eq c]
  · simp [c.not_gt, c.not_ge]
theorem ofNat_eMax : BitVec.ofNat n (eMax n x.toNat y.toNat) = if x.toInt ≤ y.toInt then y else x := by
  simp only [eMax, sInt_toNat]
  rcases Int.lt_trichotomy x.toInt y.toInt with c | c | c
  · simp [c, c.le]
  · simp [BitVec.eq_of_toInt_eq c]
  · simp [c.not_gt, c.not_ge]
theorem ofNat_eMinu : BitVec.ofNat n (eMinu n x.toNat y.toNat) = if x.toNat ≤ y.toNat then x else y := by
  rw [eMinu, Nat.min_def, apply_ite (BitVec.ofNat n)]; simp
theorem ofNat_eMaxu : BitVec.ofNat n (eMaxu n x.toNat y.toNat) = if x.toNat ≤ y.toNat then y else x := by
  rw [eMaxu, Nat.max_def, apply_ite (BitVec.ofNat n)]; simp

theorem ofNat_eAbsd : BitVec.ofNat n (eAbsd n x.toNat y.toNat) = BitVec.ofNat n (x.toInt - y.toInt).natAbs := by
  rw [eAbsd, sInt_toNat, sInt_toNat]

theorem ofNat_satS (z : Int) :
    BitVec.ofNat n (satS n z) = BitVec.ofInt n (max (-(2 ^ (n - 1))) (min (2 ^ (n - 1) - 1) z)) := by
  have pos : (0 : Int) < 2 ^ (n - 1) := by positivity
  rw [satS, ofNat_wrap]
  congr 1
  rw [satI]
  generalize (2 : Int) ^ (n - 1) = h at pos
  split_ifs <;> omega
theorem ofNat_eAddsat : BitVec.ofNat n (eAddsat n x.toNat y.toNat) =
    BitVec.ofInt n (max (-(2 ^ (n - 1))) (min (2 ^ (n - 1) - 1) (x.toInt + y.toInt))) := by
  rw [eAddsat, ofNat_satS, sInt_toNat, sInt_toNat]
theorem ofNat_eSubsat : BitVec.ofNat n (eSubsat n x.toNat y.toNat) =
    BitVec.ofInt n (max (-(2 ^ (n - 1))) (min (2 ^ (n - 1) - 1) (x.toInt - y.toInt))) := by
  rw [eSubsat, ofNat_satS, sInt_toNat, sInt_toNat]

theorem onesOf_toNat : ∀ m, onesOf m x.toNat = x.cpopNatRec m 0
  | 0 => rfl
  | m + 1 => by
    have step : onesOf (m + 1) x.toNat = onesOf m x.toNat + (x.getLsbD m).toNat := by
      simp only [onesOf, List.range_succ, List.foldl_append, List.foldl_cons, List.foldl_nil, BitVec.testBit_toNat]
      by_cases h : x.getLsbD m = true <;> simp [h]
    rw [step, onesOf_toNat m, BitVec.cpopNatRec_succ, BitVec.cpopNatRec_eq (0 + _), Nat.zero_add]

theorem ofNat_ePopc : BitVec.ofNat n (ePopc n x.toNat y.toNat) = x.cpop := by
  rw [ePopc, onesOf_toNat]; rfl

theorem ofNat_eClz : BitVec.ofNat n (eClz n x.toNat y.toNat) = x.clz := by
  by_cases h : x = 0#n
  · subst h
    have all : (0#n).clz = BitVec.ofNat n n := BitVec.clz_eq_iff_eq_zero.mpr rfl
    simp [eClz, lzOf, all]
  · have lt : x.clz.toNat < n := by
      simpa [BitVec.lt_def, Nat.mod_eq_of_lt Nat.lt_two_pow_self] using BitVec.clz_lt_iff_ne_zero.mpr h
    have nz : x.toNat ≠ 0 := fun e => h (BitVec.eq_of_toNat_eq e)
    have log : x.toNat.log2 = n - 1 - x.clz.toNat := (Nat.log2_eq_iff nz).mpr
      ⟨BitVec.two_pow_sub_clz_le_toNat_of_ne_zero (by omega) h,
        by rw [show n - 1 - x.clz.toNat + 1 = n - x.clz.toNat by omega]; exact BitVec.toNat_lt_two_pow_sub_clz⟩
    have back : n - 1 - (n - 1 - x.clz.toNat) = x.clz.toNat := by omega
    rw [eClz, lzOf, if_neg nz, log, back, BitVec.ofNat_toNat, BitVec.setWidth_eq]

/-- The low `w` bits of a field that starts at bit `p`. -/
theorem ofNat_bitsOf {w : Nat} (le : w ≤ n) (p : Nat) :
    BitVec.ofNat n (bitsOf x.toNat p w) = (x >>> p) &&& (BitVec.allOnes n >>> (n - w)) := by
  apply BitVec.eq_of_getLsbD_eq
  intro i hi
  have inField : n - w + i < n ↔ i < w := by omega
  rw [BitVec.getLsbD_ofNat]
  simp [bitsOf, Nat.testBit_mod_two_pow, hi, inField, BitVec.testBit_toNat, Bool.and_comm]

/-- A mask of `w` ones from bit `p`. -/
theorem ofNat_mask {w : Nat} (le : w ≤ n) (p : Nat) :
    BitVec.ofNat n ((2 ^ w - 1) <<< p) = (BitVec.allOnes n >>> (n - w)) <<< p := by
  apply BitVec.eq_of_getLsbD_eq
  intro i hi
  have inField : n - w + (i - p) < n ↔ i - p < w := by omega
  rw [BitVec.getLsbD_ofNat]
  by_cases below : i < p
  · simp [hi, below]
  · simp [hi, below, Nat.testBit_two_pow_sub_one, Nat.le_of_not_lt below, inField]

end

theorem vfieldAt_eq (b : Word) : vfieldAt b = ((b.extractLsb' 0 5).toNat, min (b.extractLsb' 8 6).toNat 32) := by
  simp only [vfieldAt, bitsOf, BitVec.extractLsb'_toNat]

theorem vbfeOf_eq (a b : Word) : vbfeOf a b =
    (a >>> (b.extractLsb' 0 5).toNat) &&& (BitVec.allOnes 32 >>> (32 - min (b.extractLsb' 8 6).toNat 32)) := by
  simp only [vbfeOf, vfieldAt_eq]
  exact ofNat_bitsOf 32 a (Nat.min_le_right ..) _

theorem vbfiOf_eq (d a b : Word) : vbfiOf d a b =
    let m : Word := (BitVec.allOnes 32 >>> (32 - min (b.extractLsb' 8 6).toNat 32)) <<< (b.extractLsb' 0 5).toNat
    (d &&& ~~~m) ||| ((a <<< (b.extractLsb' 0 5).toNat) &&& m) := by
  have moved (p : Nat) : BitVec.ofNat 32 (a.toNat <<< p) = a <<< p := by
    apply BitVec.eq_of_toNat_eq; simp
  simp only [vbfiOf, vfieldAt_eq, moved, ofNat_mask 32 (Nat.min_le_right _ 32)]

/-! ### Words of fixed latency over lanes (R150, R151) -/

theorem orFlags_cons (x : FpFlags) (xs : List FpFlags) : orFlags (x :: xs) = x ||| orFlags xs := by
  rw [orFlags, List.foldl_cons, BitVec.or_comm, List.foldl_assoc]; rfl

theorem orFlags_map_zero (ls : List Nat) : orFlags (ls.map fun _ => 0) = 0 := by
  induction ls with
  | nil => rfl
  | cons l ls ih => rw [List.map_cons, orFlags_cons, ih]; rfl

/-- A word that sets no flag and runs as the shared lane-wise word does gives each active lane its result. -/
theorem givesLanes_of_vecWord {i : Instr} {lat : Nat} {d : VReg} {ws : List SReg} {srcs : Option (List Src)}
    {f g : State → Nat → Lane} (run : ∀ s, exec i s = s.awaits ws (s.vecWord i lat d srcs fun l => (f s l, 0)))
    (value : ∀ s l, f s l = g s l) : GivesLanes i lat ws (fun s => s.each d (g s)) fun _ => 0 := by
  obtain rfl : f = g := funext₂ value
  intro s settled
  obtain ⟨t, tag, next, only⟩ := s.vecWord_spec i lat d srcs fun l => (f s l, 0)
  rw [orFlags_map_zero] at only
  exact ⟨t, tag, (run s).trans ((State.awaits_of_settled settled).trans next), only⟩

theorem vec2_gives {i : VReg → VReg → VSrc → Instr} {f g : Word → Word → Word}
    (run : ∀ d a b s, exec (i d a b) s = s.vec2 (i d a b) d a b f) (value : ∀ x y, f x y = g x y) : Vec2 i g :=
  fun d a b => givesLanes_of_vecWord (run d a b) fun s l => by rw [value]

theorem vec1_gives {i : VReg → VReg → Instr} {f g : Word → Word}
    (run : ∀ d a s, exec (i d a) s = s.vec1 (i d a) d a f) (value : ∀ x, f x = g x) : Vec1 i g := fun d a =>
  givesLanes_of_vecWord (ws := []) (run d a) fun s l => by rw [value]

/-- A word over the elements of two operands. -/
theorem elem2_gives {i : ElemTy → VReg → VReg → VSrc → Instr} {f : Nat → Nat → Nat → Nat}
    {g : (n : Nat) → BitVec n → BitVec n → BitVec n}
    (run : ∀ t d a b s, exec (i t d a b) s = s.vec2 (i t d a b) d a b (elemOp t f))
    (same : ∀ n (x y : BitVec n), BitVec.ofNat n (f n x.toNat y.toNat) = g n x y) (t : ElemTy) :
    Vec2 (i t) (perElem t g) :=
  vec2_gives (run t) fun x y => by rw [elemOp_eq_perElem same]

theorem vectorIntegerForms : Claim.VectorIntegerForms :=
  ⟨elem2_gives (fun _ _ _ _ _ => rfl) ofNat_eAdd, elem2_gives (fun _ _ _ _ _ => rfl) ofNat_eSub,
    elem2_gives (fun _ _ _ _ _ => rfl) ofNat_eMul, elem2_gives (fun _ _ _ _ _ => rfl) ofNat_eMulh,
    elem2_gives (fun _ _ _ _ _ => rfl) ofNat_eMulhu, vec2_gives (fun _ _ _ _ => rfl) fun _ _ => rfl,
    vec2_gives (fun _ _ _ _ => rfl) fun _ _ => rfl, vec2_gives (fun _ _ _ _ => rfl) fun _ _ => rfl,
    vec2_gives (fun _ _ _ _ => rfl) fun _ _ => rfl, elem2_gives (fun _ _ _ _ _ => rfl) ofNat_eShl,
    elem2_gives (fun _ _ _ _ _ => rfl) ofNat_eShr, elem2_gives (fun _ _ _ _ _ => rfl) ofNat_eSra,
    elem2_gives (fun _ _ _ _ _ => rfl) ofNat_eMin, elem2_gives (fun _ _ _ _ _ => rfl) ofNat_eMax,
    elem2_gives (fun _ _ _ _ _ => rfl) ofNat_eMinu, elem2_gives (fun _ _ _ _ _ => rfl) ofNat_eMaxu,
    elem2_gives (fun _ _ _ _ _ => rfl) ofNat_eAbsd, elem2_gives (fun _ _ _ _ _ => rfl) ofNat_eAddsat,
    elem2_gives (fun _ _ _ _ _ => rfl) ofNat_eSubsat⟩

theorem vectorBitsAndMoves : Claim.VectorBitsAndMoves :=
  ⟨fun t => vec1_gives (fun _ _ _ => rfl) fun x => congrFun₂ (elemOp_eq_perElem ofNat_ePopc t) x 0,
    fun t => vec1_gives (fun _ _ _ => rfl) fun x => congrFun₂ (elemOp_eq_perElem ofNat_eClz t) x 0,
    vec2_gives (fun _ _ _ _ => rfl) vbfeOf_eq,
    fun _ _ _ => givesLanes_of_vecWord (fun _ => rfl) fun _ _ => by rw [vbfiOf_eq],
    fun _ _ => givesLanes_of_vecWord (fun _ => rfl) fun _ _ => rfl,
    fun _ => givesLanes_of_vecWord (fun _ => rfl) fun _ _ => rfl,
    fun _ _ => givesLanes_of_vecWord (fun _ => rfl) fun _ _ => rfl⟩

theorem vectorImmediateForms : Claim.VectorImmediateForms :=
  ⟨fun _ => vec1_gives (fun _ _ _ => rfl) fun _ => rfl, fun _ => vec1_gives (fun _ _ _ => rfl) fun _ => rfl,
    fun _ => vec1_gives (fun _ _ _ => rfl) fun _ => rfl, fun _ => vec1_gives (fun _ _ _ => rfl) fun _ => rfl,
    fun _ => vec1_gives (fun _ _ _ => rfl) fun _ => rfl, fun _ => vec1_gives (fun _ _ _ => rfl) fun _ => rfl,
    fun _ => vec1_gives (fun _ _ _ => rfl) fun _ => rfl, fun _ => vec1_gives (fun _ _ _ => rfl) fun _ => rfl,
    fun _ => vec1_gives (fun _ _ _ => rfl) fun x => congrFun₂ (elemOp_eq_perElem ofNat_eMin .w) x _,
    fun _ => vec1_gives (fun _ _ _ => rfl) fun x => congrFun₂ (elemOp_eq_perElem ofNat_eMax .w) x _,
    fun _ => vec1_gives (fun _ _ _ => rfl) fun x => congrFun₂ (elemOp_eq_perElem ofNat_eMinu .w) x _,
    fun _ => vec1_gives (fun _ _ _ => rfl) fun x => congrFun₂ (elemOp_eq_perElem ofNat_eMaxu .w) x _⟩

/-- Settles O3: each word runs as the shared lane-wise word does (`givesLanes_of_vecWord`), and its function of Table 5.3 is
the stated one on elements of any width (`elemOp_eq_perElem`). -/
theorem vectorIntegerWords : Obligations.VectorIntegerWords :=
  ⟨vectorIntegerForms, vectorBitsAndMoves, vectorImmediateForms⟩

end Sys2Proof.Machine
end

section
/-! PROOFS. Lane words (R167 to R169): moves between lanes, and the trees of reductions and scans. -/

namespace Sys2Proof.Machine

/-! ### Moves between lanes (R167, R168) -/

theorem laneResult_of_poisoned {x : Scalar} (h : x.poison = true) : laneResult [x.toLane] 0 = x.toLane := by
  simp [laneResult, firstLane, Scalar.toLane, h]

/-- A lane that takes a value whatever its destination holds takes the count's poison, too. -/
theorem laneMove_nil (x : Scalar) (v : Lane) : laneMove [] x v = if x.poison then x.toLane else v := by
  by_cases h : x.poison = true
  · simp only [laneMove, h, if_true, List.nil_append, laneResult_of_poisoned h]
  · simp [laneMove, h]

theorem toNat_mod_eq_extractLsb' {n : Nat} (x : BitVec n) : x.toNat % 32 = (x.extractLsb' 0 5).toNat := by
  simp

theorem laneMoves : Claim.LaneMoves := by
  refine ⟨fun d a b => ?shup, fun d a b => ?shdn, fun d a b => ?rot, fun d a b => ?perm, fun d a b => ?bcast⟩
  case shup | shdn => exact givesLanes_of_vecWord (fun _ => rfl) fun _ _ => rfl
  case rot | bcast =>
    exact givesLanes_of_vecWord (fun _ => rfl) fun s l => by rw [laneMove_nil, toNat_mod_eq_extractLsb']
  case perm => exact givesLanes_of_vecWord (ws := []) (fun _ => rfl) fun s l => by rw [toNat_mod_eq_extractLsb']

/-! ### Reductions and scans (R169) -/

theorem orFlags_map_ite {lead : Nat} (fl : FpFlags) : ∀ {ls : List Nat}, lead ∈ ls →
    orFlags (ls.map fun l => if l = lead then fl else 0) = fl
  | l :: ls, mem => by
    rw [List.map_cons, orFlags_cons]
    by_cases later : lead ∈ ls
    · rw [orFlags_map_ite fl later]
      split <;> simp
    · obtain rfl : lead = l := (List.mem_cons.mp mem).resolve_right later
      have rest : ls.map (fun l => if l = lead then fl else 0) = ls.map fun _ => 0 :=
        List.map_congr_left fun l hl => if_neg fun (e : l = lead) => later (e ▸ hl)
      rw [rest, orFlags_map_zero, if_pos rfl]; exact BitVec.or_zero

theorem State.headD_mem_lanes {s : State} (active : s.lanes ≠ []) : s.lanes.headD 0 ∈ s.lanes := by
  rw [List.headD_eq_head?_getD, List.head?_eq_some_head active]
  exact List.head_mem active

section
variable (s : State) (i : Instr) (lat : Nat) (d : VReg) {lead : Nat} (mem : lead ∈ s.lanes) (fl : FpFlags)
include mem

/-- Lane results whose flags one active lane carries for all. -/
theorem State.vecWord_leadFlags (srcs : Option (List Src)) (res : Nat → Lane) :
    ∃ t tag, s.vecWord i lat d srcs (fun l => (res l, if l = lead then fl else 0)) = .next t ∧
      OnlySkein s t (s.sendsLanes lat (s.each d res) tag fl) := by
  have h := s.vecWord_spec i lat d srcs fun l => (res l, if l = lead then fl else 0)
  rwa [orFlags_map_ite fl mem] at h

theorem State.pairWord_leadFlags (res : Nat → Scalar) :
    ∃ t tag, s.pairWord i lat d (fun l => (res l, if l = lead then fl else 0)) = .next t ∧
      OnlySkein s t (s.sendsLanes lat (s.eachPair d res) tag fl) := by
  have h := s.pairWord_spec i lat d fun l => (res l, if l = lead then fl else 0)
  rwa [orFlags_map_ite fl mem] at h

end

theorem laneReductions : Claim.LaneReductions := by
  intro o scan d a tree res s _
  have run : exec (if scan then .vscan o d a else .vred o d a) s =
      s.treeWord (if scan then .vscan o d a else .vred o d a) o scan d a := by cases scan <;> rfl
  rw [run]
  generalize (if scan then Instr.vscan o d a else Instr.vred o d a) = i
  by_cases empty : s.lanes = []
  · refine ⟨s, none, by simp [State.treeWord, empty], ?_⟩
    simp only [State.each, State.eachPair, empty, List.map_nil, List.flatMap_nil, ite_self, List.isEmpty_nil, Bool.true_or,
      if_true]
    exact (CabinetOnly.refl s).issued
  · have active : s.lanes.isEmpty = false := by simp [empty]
    have lead := State.headD_mem_lanes empty
    have whenClean (tok : Option Dword) (fl : FpFlags) :
        (if tok.isNone then fl else 0) = if tok.isSome then 0 else fl := by cases tok <;> rfl
    simp only [State.treeWord, active, Bool.false_eq_true, if_false, Bool.false_or, whenClean]
    by_cases pair : (o == .addd) = true
    · simp only [pair, if_true]
      exact s.pairWord_leadFlags i latLane d lead ..
    · simp only [pair]
      exact s.vecWord_leadFlags i latLane d lead ..

/-- Settles O6: the moves run as the shared lane-wise word does (`laneMoves`); a reduction's lanes and flags are those of
`State.treeWord`, whose lowest active lane carries the flags of the whole tree (`State.vecWord_leadFlags`). -/
theorem laneWords : Obligations.LaneWords := ⟨laneMoves, laneReductions⟩

end Sys2Proof.Machine
end

section
/-! PROOFS. Comparison, selection and poison masks (R174, R175, R140): a comparison's scalar, and the bits of a set
of lanes. -/

namespace Sys2Proof.Machine

/-! ### The bits of the active lanes -/

/-- A sum of distinct powers of two has their bits. -/
theorem testBit_foldl_two_pow {p : Nat → Bool} {j : Nat} : ∀ {ls : List Nat} {m : Nat}, ls.Pairwise (· < ·) →
    (∀ l ∈ ls, m < 2 ^ l) →
    (ls.foldl (fun m l => if p l then m + 2 ^ l else m) m).testBit j = (m.testBit j || (decide (j ∈ ls) && p j))
  | [], m, _, _ => by simp
  | l :: ls, m, ascending, below => by
    obtain ⟨above, ascending⟩ := List.pairwise_cons.mp ascending
    have lt := below l List.mem_cons_self
    rw [List.foldl_cons]
    by_cases h : p l = true
    · have split : m + 2 ^ l = 2 ^ l ||| m := by
        rw [Nat.add_comm]; simpa using Nat.two_pow_add_eq_or_of_lt lt 1
      have next : ∀ i ∈ ls, m + 2 ^ l < 2 ^ i := fun i hi =>
        calc m + 2 ^ l < 2 ^ (l + 1) := by rw [pow_succ]; omega
          _ ≤ 2 ^ i := Nat.pow_le_pow_right (by decide) (above i hi)
      rw [if_pos h, testBit_foldl_two_pow ascending next, split, Nat.testBit_or, Nat.testBit_two_pow]
      by_cases e : l = j
      · subst e; simp [h]
      · simp [e, Ne.symm e]
    · rw [if_neg h, testBit_foldl_two_pow ascending fun i hi => below i (List.mem_cons_of_mem _ hi)]
      by_cases e : j = l
      · subst e; simp [h]
      · simp [e]

/-- The bits of the active lanes for which `p` holds. -/
theorem State.getLsbD_laneBits (s : State) (p : Nat → Bool) (l : Nat) :
    (BitVec.ofNat 64 (s.lanes.foldl (fun m l => if p l then m + 2 ^ l else m) 0)).getLsbD l =
      (decide (l ∈ s.lanes) && p l) := by
  have fits : l ∈ s.lanes → l < 64 := fun h => by
    have := List.mem_range.mp (List.mem_filter.mp h).1
    omega
  rw [BitVec.getLsbD_ofNat, testBit_foldl_two_pow s.lanes_ascending fun _ _ => by positivity]
  by_cases mem : l ∈ s.lanes <;> simp [mem, fits]

/-! ### Comparisons (R174) -/

/-- A comparison looks at the values of lanes alone. -/
theorem State.compareWord_congr {f g : Nat → Nat → Bool × FpFlags}
    (same : ∀ x y : Word, f x.toNat y.toNat = g x.toNat y.toNat) (s : State) (i : Instr) (d : SReg) (a : VReg) (b : VSrc) : s.compareWord i d a b f = s.compareWord i d a b g := by
  simp only [State.compareWord, same]

section
variable {s : State} {d : SReg} {a : VReg} {b : VSrc} (settled : s.settled (d :: scalarsOf b)) (active : s.lanes ≠ [])
  (i : Instr) (f : Nat → Nat → Bool × FpFlags)
include settled active

theorem State.compareWord_of_token {x : Word}
    (first : firstLane (s.lanes.flatMap fun l => [s.vlane a l, s.vsrc b l]) = some x) :
    s.compareWord i d a b f = s.putScalar i latVec d (some [.v a, srcOf b]) ⟨x.setWidth 64, true, none⟩ 0 := by
  simp only [State.compareWord, State.awaits_of_settled settled, List.isEmpty_iff, active, if_false, List.flatMap_map, first]

theorem State.compareWord_of_clean
    (first : firstLane (s.lanes.flatMap fun l => [s.vlane a l, s.vsrc b l]) = none) :
    let g := fun l => f (s.vlane a l).val.toNat (s.vsrc b l).val.toNat
    s.compareWord i d a b f = s.putScalar i latVec d (some [.v a, srcOf b])
      ⟨BitVec.ofNat 64 (s.lanes.foldl (fun m l => if (g l).1 then m + 2 ^ l else m) 0), false, none⟩
      (orFlags (s.lanes.map fun l => (g l).2)) := by
  simp only [State.compareWord, State.awaits_of_settled settled, List.isEmpty_iff, active, if_false, List.flatMap_map, first,
    List.map_map, List.foldl_map, Function.comp_def]

end

/-- A comparison: nothing with no active lane, else the token of the first poisoned lane or the lanes' bits (R174). -/
theorem State.compareWord_gives {s : State} {d : SReg} {a : VReg} {b : VSrc} (settled : s.settled (d :: scalarsOf b))
    (i : Instr) (f : Nat → Nat → Bool × FpFlags) :
    let g := fun l => f (s.vlane a l).val.toNat (s.vsrc b l).val.toNat
    let tok := firstLane (s.lanes.flatMap fun l => [s.vlane a l, s.vsrc b l])
    (tok.isSome → d ≠ regEm ∧ d ≠ regPm) →
    ∃ t tag v, s.compareWord i d a b f = .next t ∧
      (s.lanes = [] → t = s) ∧
      (s.lanes ≠ [] → OnlySkein s t
        (s.sends 4 (.scalar d.toNat v tag) (if tok.isSome then 0 else orFlags (s.lanes.map fun l => (g l).2)))) ∧
      (∀ x, tok = some x → v = ⟨x.setWidth 64, true, none⟩) ∧
      (tok = none → v.poison = false ∧ v.pend = none ∧
        ∀ l, v.val.getLsbD l = (decide (l ∈ s.lanes) && (g l).1)) := by
  intro g tok notMask
  by_cases empty : s.lanes = []
  · refine ⟨s, none, ⟨0, false, none⟩, ?_, fun _ => rfl, fun h => absurd empty h, ?_, fun _ => ⟨rfl, rfl, ?_⟩⟩
    · simp [State.compareWord, State.awaits_of_settled settled, empty]
    · simp [tok, empty, firstLane]
    · simp [empty]
  · cases first : tok with
    | some x =>
      obtain ⟨notEm, notPm⟩ := notMask (by rw [first]; rfl)
      obtain ⟨t, tag, next, only⟩ := s.putScalar_spec i latVec d (some [.v a, srcOf b]) ⟨x.setWidth 64, true, none⟩ 0
        (by simp [notEm, notPm])
      exact ⟨t, tag, _, (State.compareWord_of_token settled empty i f first).trans next, fun h => absurd h empty,
        fun _ => only, fun _ h => by rw [Option.some.inj h], nofun⟩
    | none =>
      obtain ⟨t, tag, next, only⟩ := s.putScalar_spec i latVec d (some [.v a, srcOf b])
        ⟨BitVec.ofNat 64 (s.lanes.foldl (fun m l => if (g l).1 then m + 2 ^ l else m) 0), false, none⟩
        (orFlags (s.lanes.map fun l => (g l).2)) rfl
      exact ⟨t, tag, _, (State.compareWord_of_clean settled empty i f first).trans next, fun h => absurd h empty,
        fun _ => only, nofun, fun _ => ⟨rfl, rfl, s.getLsbD_laneBits _⟩⟩

/-- Settles O9: the comparisons are `State.compareWord_gives`; the bits of a lane set are `State.getLsbD_laneBits`. -/
theorem compareAndSelect : Obligations.CompareAndSelect := by
  refine ⟨fun i d a b f s word settled => ?compare, fun d a b => ?select, fun d a s settled => ?poisonBits⟩
  case compare =>
    have run : exec i s = s.compareWord i d a b (f s) := by
      rcases word with ⟨k, rfl, rfl⟩ | ⟨k, rfl, rfl⟩ | ⟨k, rfl, rfl⟩
      · refine State.compareWord_congr (f := fun x y => (condHolds k (sInt 32 x) (sInt 32 y), 0)) (fun x y => ?_) s _ d a b
        simp only [sInt_toNat, BitVec.ofNat_toNat, BitVec.setWidth_eq]
      · rfl
      · rfl
    rw [run]
    exact State.compareWord_gives settled i (f s)
  case select => exact givesLanes_of_vecWord (fun _ => rfl) fun _ _ => rfl
  case poisonBits =>
    obtain ⟨t, tag, next, only⟩ := s.putScalar_spec (.ptst d a) latScl d none
      ⟨BitVec.ofNat 64 (s.lanes.foldl (fun m l => if (s.vlane a l).poison then m + 2 ^ l else m) 0), false, none⟩ 0 rfl
    refine ⟨t, tag, _, ?_, only, s.getLsbD_laneBits _⟩
    rw [← next, ← List.foldl_filter]
    exact State.awaits_of_settled settled

end Sys2Proof.Machine
end
